-- ==== Sys2Proof/Word.lean ====
section
/-! DEFINITION. The words of the FTG-2448: bytes of frames and of the configuration memory, tags, masks.
Only what the manual treats as bits is a bit vector; step numbers, times, counts and indices are exact natural
numbers (manual, Conventions, "Arithmetic"). -/

namespace Sys2Proof

/-- A byte of a frame, a record or the configuration memory (R211). -/
abbrev Byte := BitVec 8

/-- A tag: the low 16 bits of a step number, as link frames carry it (R108, R130). -/
abbrev Tag := BitVec 16

/-- A changed mask or level mask: bit n stands for local clock number n (R40, R211). -/
abbrev ClockMask := BitVec 16

/-- A trigger ID (R153). -/
abbrev TriggerId := BitVec 16

/-- A set of boards as the manual's 24-bit board mask: bit n stands for board n (R211). -/
abbrev BoardMask := BitVec 24

/-- A partition slot, and the controller port of the same number (R189). -/
abbrev Slot := Fin 4

/-- A board, numbered by its board link (R62). -/
abbrev Board := Fin 24

/-- A local clock number within a partition (R3). -/
abbrev LocalNo := Fin 16

/-- A stop group (R72). -/
abbrev Group := Fin 2

end Sys2Proof
end

