-- ==== Sys2Proof/Config.lean ====
section
/-! DEFINITION. What is fixed for the machine: the limits the manual names, and the free values, which the manual
leaves open and which have no body here, so that nothing can be proved of them. -/

namespace Sys2Proof.Config

/-- The largest step number, 2^32 − 1 (R1, R45). -/
def maxStep : Nat := 4294967295

/-- The end of virtual time, 2^48 − 1 ticks (R1, R42). -/
def maxTime : Nat := 281474976710655

/-- The number of entries of an event queue (R172). -/
def queueEntries : Nat := 32

/-- The value at which a drop count saturates (R172). -/
def maxDrops : Nat := 65535

/-- The bytes of the configuration memory, addresses 0 to 2047 (manual, chapter 10). -/
def storeBytes : Nat := 2048

/-- The bytes of a request frame that a port keeps (R185). -/
def requestBytes : Nat := 64

/-- A FREE VALUE, number `n` of the run: which bits of a byte an unfinished store write has changed (R201, R210;
assumption 6). -/
opaque freeByte : Nat → BitVec 8

/-- A FREE VALUE, number `n` of the run: which of the partitions that begin to request the idle engine in one event
is seen first (R33; assumption 7). -/
opaque freePick : Nat → Nat

end Sys2Proof.Config
end

