-- ==== Sys2Proof/Syntax.lean ====
section
/-! DEFINITION. The commands of the FTG-2448: one constructor for each row of spec/opcode_table.json, in the table's
order. A command is one event the manual's rules are written over: a transaction byte at a port, a request taken, a
frame received, a timer's expiry, the end of a computation. Operands have the widths of the fields they stand for
(R212, R213). -/

namespace Sys2Proof

/-- The kind and parameters of a DEFINE_CLOCK (R15, R212). A kind byte that codes no kind keeps its value. -/
inductive ClockBody where
  | periodic (period high phase : BitVec 24)
  | divided (parent : Byte) (divisor high : BitVec 16)
  | unknownKind (kind : Byte)
  deriving DecidableEq, Repr

/-- The commands. -/
inductive Instr where
  /-- DEVICE_RESET (R201): power-on, or the release of the reset pin. -/
  | deviceReset
  /-- LOAD_READ_COMPLETE (R203): a start-up read operation of `n` bytes, 1 to 16, completes. -/
  | loadReadComplete (n : Nat)
  /-- STORE_ADDRESS_NAK (R203, R209, R210): the memory does not acknowledge the operation's device address. -/
  | storeAddressNak
  /-- STORE_ACCESS_TIMEOUT (R203, R209, R210): the operation has not completed 20 ms after it began. -/
  | storeAccessTimeout
  /-- WRITE_REQUEST (R183, R185): the transaction byte is received at port `k`, and `dataIn` are the levels of data in at
  the rising clock edges after it in this transaction. -/
  | writeRequest (k : Slot) (dataIn : List Bool)
  /-- REQUEST_FRAME_END (R186): select rises and ends a WRITE_REQUEST taken in IDLE. -/
  | requestFrameEnd (k : Slot)
  /-- READ_RESPONSE (R183, R192): the transaction byte is received at port `k`, and `dataIn` are the levels of data in at
  the clock edges after it. -/
  | readResponse (k : Slot) (dataIn : List Bool)
  /-- READ_PORT_STATUS (R183, R194): the transaction byte is received at port `k`, and `dataIn` are the levels of data in
  at the clock edges after it. -/
  | readPortStatus (k : Slot) (dataIn : List Bool)
  /-- UNKNOWN_TRANSACTION (R183): the transaction byte `b` is none of the three, and `dataIn` are the levels of data in at
  the clock edges after it. -/
  | unknownTransaction (k : Slot) (b : Byte) (dataIn : List Bool)
  /-- INACTIVITY_TIMEOUT (R195): 1 ms with select low and no clock edge at port `k`. -/
  | inactivityTimeout (k : Slot)
  /-- OPEN (R57). -/
  | openSlot (k : Slot)
  /-- PRESET_APPLY (R58): the next preset of the slot being opened. -/
  | presetApply (k : Slot)
  /-- CLOSE (R60). -/
  | closeSlot (k : Slot)
  /-- SET_PARTITION (R54): the seven settings, each an 8-bit value. -/
  | setPartition (k : Slot) (window horizon gap retry backoff timeout attention : Byte)
  /-- READ_PARTITION (R56). -/
  | readPartition (k : Slot)
  /-- CLAIM_BOARDS (R65, R66). -/
  | claimBoards (k : Slot) (set : BoardMask)
  /-- RELEASE_BOARDS (R68). -/
  | releaseBoards (k : Slot) (set : BoardMask)
  /-- REPROBE (R69). -/
  | reprobe (k : Slot) (set : BoardMask)
  /-- READ_BOARD (R70). -/
  | readBoard (k : Slot) (board : Byte)
  /-- READ_CABINET (R71). -/
  | readCabinet (k : Slot)
  /-- JOIN_GROUP (R72). -/
  | joinGroup (k : Slot) (group : Byte)
  /-- LEAVE_GROUP (R73). -/
  | leaveGroup (k : Slot)
  /-- DEFINE_CLOCK (R15 to R17). -/
  | defineClock (k : Slot) (localNo : Byte) (body : ClockBody)
  /-- DELETE_CLOCK (R18). -/
  | deleteClock (k : Slot) (localNo : Byte)
  /-- ENABLE_CLOCK (R19 to R21). -/
  | enableClock (k : Slot) (localNo : Byte)
  /-- DISABLE_CLOCK (R22). -/
  | disableClock (k : Slot) (localNo : Byte)
  /-- GATE_CLOCK (R23). -/
  | gateClock (k : Slot) (localNo : Byte)
  /-- UNGATE_CLOCK (R24). -/
  | ungateClock (k : Slot) (localNo : Byte)
  /-- RETIME_CLOCK (R25, R26): the two values, 3 bytes each (R212). -/
  | retimeClock (k : Slot) (localNo : Byte) (first second : BitVec 24)
  /-- READ_CLOCK (R27). -/
  | readClock (k : Slot) (localNo : Byte)
  /-- TIME_RESET (R28, R29). -/
  | timeReset (k : Slot)
  /-- SETUP_RUN (R75): the mode byte and the 6-byte argument (R212). -/
  | setupRun (k : Slot) (mode : Byte) (argument : BitVec 48)
  /-- RUN (R76 to R78). -/
  | run (k : Slot)
  /-- GROUP_RUN (R79, R80). -/
  | groupRun (k : Slot)
  /-- PAUSE (R81). -/
  | pause (k : Slot)
  /-- RESUME (R83). -/
  | resume (k : Slot)
  /-- STOP (R87). -/
  | stop (k : Slot)
  /-- RECOVER (R102, R103). -/
  | recover (k : Slot)
  /-- CLEAR_ERRORS (R104). -/
  | clearErrors (k : Slot)
  /-- SET_FILTER (R168). -/
  | setFilter (k : Slot) (mode : Byte) (count : BitVec 16) (logUnmatched : Byte)
  /-- SET_MATCH (R169). -/
  | setMatch (k : Slot) (index : Byte) (id care : BitVec 16) (enable : Byte)
  /-- SET_HASH with operation KEEP (R170). -/
  | setHashKeep (k : Slot) (enable : Byte)
  /-- SET_HASH with operation REPLACE (R170): `table` holds index n in bit n (R212). -/
  | setHashReplace (k : Slot) (enable : Byte) (table : BitVec 64)
  /-- SET_HASH with operation ADD_IDS (R170): the count byte and, for a count of 1 to 8, that many IDs. -/
  | setHashAddIds (k : Slot) (enable count : Byte) (ids : List TriggerId)
  /-- SET_HASH with operation CLEAR (R170). -/
  | setHashClear (k : Slot) (enable : Byte)
  /-- READ_EVENTS (R179). -/
  | readEvents (k : Slot) (count : Byte)
  /-- STORE_READ (R208, R209). -/
  | storeRead (k : Slot) (address : BitVec 16) (length : Byte)
  /-- STORE_READ_COMPLETE (R209): the memory completes the read. -/
  | storeReadComplete
  /-- STORE_WRITE (R208, R210): for a length of 1 to 16, `data` holds that many bytes. -/
  | storeWrite (k : Slot) (address : BitVec 16) (length : Byte) (data : List Byte)
  /-- STORE_WRITE_COMPLETE (R210): the memory first acknowledges again after storing the page. -/
  | storeWriteComplete
  /-- COMPUTATION_END (R47): the engine's computation ends. -/
  | computationEnd
  /-- GROUP_STOP_TAKEN (R94): member `k` takes the oldest group stop offered to it. -/
  | groupStopTaken (k : Slot)
  /-- SETTLE_GAP_EXPIRY (R112). -/
  | settleGapExpiry (k : Slot)
  /-- FRAME_SEND (R135): the link controller begins sending the next frame of its transmit order. -/
  | frameSend (b : Board)
  /-- RECEIVE_ERROR (R131, R132): `samples` are the levels of the upstream line in successive bit times, up to the end
  of the character that makes the error; the line begins at the level it last had. -/
  | receiveError (b : Board) (samples : List Bool)
  /-- ARM_ACK received (R138). -/
  | armAck (b : Board) (tag : Tag)
  /-- ARM_NAK received (R141), with any cause byte (R213). -/
  | armNak (b : Board) (tag : Tag) (cause : Byte)
  /-- DONE received (R139), with the trigger ID and the board stamp when it carries them. -/
  | boardDone (b : Board) (tag : Tag) (trigger : Option TriggerId) (stamp : Option (BitVec 32))
  /-- FLUSH_ACK received (R122, R139). -/
  | flushAck (b : Board) (tag : Tag)
  /-- SYNC_ACK received (R127, R139). -/
  | syncAck (b : Board) (tag : Tag)
  /-- STATUS received (R145, R146), with the tag and ID of a trigger when it carries one. -/
  | boardStatus (b : Board) (armedThrough doneThrough : Tag) (trigger : Option (Tag × TriggerId))
  /-- PROBE_REPLY received (R137). -/
  | probeReply (b : Board) (id : BitVec 16) (depth : Byte)
  /-- BREAK_END (R136): the 320 ns break ends. -/
  | breakEnd (b : Board)
  /-- BREAK_RECOVERY_END (R136): the 120 ns recovery after a break ends. -/
  | breakRecoveryEnd (b : Board)
  /-- RESPONSE_TIMEOUT (R144): the response timer of the board's link expires. -/
  | responseTimeout (b : Board)
  /-- BACKOFF_END (R142). -/
  | backoffEnd (b : Board)
  /-- RESET_ASSERTED (R201): the reset pin is asserted, or the supply is lost. -/
  | resetAsserted
  /-- STROBE_FALL (R115): 20 ns after a fire, the partition's strobes fall. -/
  | strobeFall (k : Slot)
  /-- FRAME_TRANSMISSION_END (R136): the frame in transmission on the downstream line finishes. -/
  | frameTransmissionEnd (b : Board)
  /-- SELECT_FALL (R183, R195): the select line of port `k` falls. -/
  | selectFall (k : Slot)
  /-- SELECT_RISE (R192): select rises and ends a transaction other than a WRITE_REQUEST taken in IDLE. -/
  | selectRise (k : Slot)
  deriving DecidableEq, Repr

end Sys2Proof
end

