-- ==== Sys2Proof/WellFormed.lean ====
section
/-! DEFINITION. Which commands can occur: the checks on operands that their types do not already make. A command that
fails its check has no effect (assumption 2). -/

namespace Sys2Proof

/-- The operands of a command are ones the manual lets occur: a start-up read of 1 to 16 bytes (R203), a transaction
byte that is none of the three (R183, R212), a kind byte that codes no kind (R211), as many trigger IDs and data bytes
as R187 gives. -/
def Instr.wellFormed : Instr → Bool
  | .loadReadComplete n => decide (1 ≤ n ∧ n ≤ 16)
  | .unknownTransaction _ b _ => decide (b ≠ 0x5A#8 ∧ b ≠ 0xA5#8 ∧ b ≠ 0x3C#8)
  | .defineClock _ _ (.unknownKind kind) => decide (1 < kind.toNat)
  | .setHashAddIds _ _ count ids =>
    decide (ids.length = if 1 ≤ count.toNat ∧ count.toNat ≤ 8 then count.toNat else 0)
  | .storeWrite _ _ length data =>
    decide (data.length = if 1 ≤ length.toNat ∧ length.toNat ≤ 16 then length.toNat else 0)
  | _ => true

end Sys2Proof
end

