-- ==== Sys2Proof/Decode.lean ====
section
/-! DEFINITION. The host's word decoder. spec/opcode_table.json gives bits to none of its rows (no row has "fixed" or
"fields"), so no word spells a command. Request frames and link frames are decoded in Machine/Operands.lean and
Machine/Frames.lean. -/

namespace Sys2Proof

/-- The command a word of `nbits` bits spells by the table's bits: none, for the table gives bits to no row. -/
def decodeTableWord (_nbits _w : Nat) : Option Instr := none

end Sys2Proof
end

