-- ==== Sys2Proof/Machine/State.lean ====
section
/-! DEFINITION. The state of the FTG-2448 as plain data, and the state right after device reset (R201).
Each structure names the rule that gives it. Where the manual keeps one fact under two names it is stored once: the owned
boards of a partition are the boards whose record names it, the members of a group are the partitions whose group field
names it, the frontier is the youngest pipe entry's, and the attention line follows the queue (see Machine/Ops.lean). -/

namespace Sys2Proof.Machine

/-! ## Design clocks (chapter 1) -/

/-- The kind of a clock, with the parent of a DIVIDED clock (R3). -/
inductive ClockKind where
  | periodic
  | divided (parent : LocalNo)
  deriving DecidableEq, Repr

/-- The static part of an owned clock record (R3). A FREE record has no contents. -/
structure PoolRecord where
  owner   : Slot
  localNo : LocalNo
  kind    : ClockKind
  deriving DecidableEq, Repr

/-- The clock states (R6). -/
inductive ClockState where
  | off | active | gatePending | gated | ungatePending | offPending
  deriving DecidableEq, Repr

/-- The polarity of a periodic clock's next edge (R6). -/
inductive Polarity where
  | rising | falling
  deriving DecidableEq, Repr

/-- The working parameters and the waveform position of a PERIODIC clock (R4, R6): P, H, O, NE and its polarity, and
the pending retime (P′, H′). -/
structure PeriodicWave where
  period   : Nat
  high     : Nat
  phase    : Nat
  next     : Nat
  polarity : Polarity
  retime   : Option (Nat × Nat)
  deriving DecidableEq, Repr

/-- The working parameters and the waveform position of a DIVIDED clock (R5, R6): N, K, C, and the pending retime
(N′, K′). -/
structure DividedWave where
  divisor : Nat
  high    : Nat
  count   : Nat
  retime  : Option (Nat × Nat)
  deriving DecidableEq, Repr

/-- The timing part of a clock, by its kind. -/
inductive Wave where
  | periodic (w : PeriodicWave)
  | divided (w : DividedWave)
  deriving DecidableEq, Repr

/-- A clock's entry in a copy of the clock state (R2, R6). -/
structure ClockEntry where
  localNo : LocalNo
  state   : ClockState
  level   : Bool
  wave    : Wave
  deriving DecidableEq, Repr

/-- One copy of a partition's clock state (R2). -/
abbrev Snapshot := List ClockEntry

/-! ## Run control (chapter 4) -/

/-- The states of a partition (R74). -/
inductive PartState where
  | closed | stopped | running | paused | stopping | faulted
  deriving DecidableEq, Repr

/-- The run modes (R75). -/
inductive RunMode where
  | free | count | until
  deriving DecidableEq, Repr

/-- The causes of a board fault (R96). -/
inductive FaultCause where
  | timeout | retries | sequence
  deriving DecidableEq, Repr

/-- The names of the stop reasons (R84). -/
inductive Reason where
  | controller | trigger | group | count | time | noEdges | limit | fault
  deriving DecidableEq, Repr

/-- A stop reason with the details kept for it while it is primary (R84). -/
inductive StopReason where
  | controller
  | trigger (board : Board) (id : TriggerId)
  | group
  | count
  | time
  | noEdges
  | limit
  | fault (board : Board) (cause : FaultCause)
  deriving DecidableEq, Repr

/-- A stop point with its primary reason (R84). -/
structure StopPoint where
  step    : Nat
  primary : StopReason
  deriving DecidableEq, Repr

/-- A set of stop reason names (R84). -/
structure ReasonSet where
  controller : Bool := false
  trigger    : Bool := false
  group      : Bool := false
  count      : Bool := false
  time       : Bool := false
  noEdges    : Bool := false
  limit      : Bool := false
  fault      : Bool := false
  deriving DecidableEq, Repr

/-- The sticky errors (R101). -/
structure StickyErrors where
  linkFault : Bool := false
  sequence  : Bool := false
  overflow  : Bool := false
  deriving DecidableEq, Repr

/-! ## Settings (chapter 3) -/

/-- The seven settings of a partition (R53). -/
structure Settings where
  window       : Nat
  horizon      : Nat
  gapCode      : Nat
  retryLimit   : Nat
  backoffLimit : Nat
  timeoutCode  : Nat
  attention    : Bool
  deriving DecidableEq, Repr

/-- The built-in defaults (R203). -/
def Settings.builtIn : Settings where
  window := 4
  horizon := 8
  gapCode := 24
  retryLimit := 7
  backoffLimit := 5
  timeoutCode := 15
  attention := true

/-! ## The step pipe and the strobe unit (chapter 5) -/

/-- How far a step has come (R105). -/
inductive EntryStage where
  | arming | armed | fired
  deriving DecidableEq, Repr

/-- An entry of a step pipe: the step record of R40 and the flags of R105. -/
structure PipeEntry where
  number  : Nat
  time    : Nat
  changed : ClockMask
  level   : ClockMask
  post    : Snapshot
  stage   : EntryStage
  acked   : BoardMask
  doneBy  : BoardMask
  deriving DecidableEq, Repr

/-- The settle-gap timer: elapsed, or running with the duration in ns it was started with (R112). -/
inductive SettleGap where
  | elapsed
  | running (ns : Nat)
  deriving DecidableEq, Repr

/-! ## The trigger filter (chapter 7) -/

/-- The filter modes (R156). -/
inductive FilterMode where
  | off | normal | inverse | any
  deriving DecidableEq, Repr

/-- A match entry (R156). -/
structure MatchEntry where
  id      : BitVec 16
  care    : BitVec 16
  enabled : Bool
  deriving DecidableEq, Repr

/-- A trigger filter (R156). The hash table holds index n in bit n. -/
structure Filter where
  mode         : FilterMode
  entries      : Vector MatchEntry 8
  hashEnabled  : Bool
  hashTable    : BitVec 64
  setting      : Nat
  counter      : Nat
  logUnmatched : Bool
  deriving DecidableEq, Repr

/-- The filter after device reset and after OPEN (R57, R156). -/
def Filter.reset : Filter where
  mode := .off
  entries := Vector.replicate 8 ⟨0, 0, false⟩
  hashEnabled := false
  hashTable := 0
  setting := 1
  counter := 1
  logUnmatched := false

/-! ## The event queue (chapter 8) -/

/-- The kinds of receive error (R131). -/
inductive RxError where
  | parity | framing | orphan | length | check
  deriving DecidableEq, Repr

/-- The link kinds with their details (R174). -/
inductive LinkEvent where
  | frameError (kind : RxError)
  | pollRecovered
  | fault (cause : FaultCause)
  deriving DecidableEq, Repr

/-- An event record (R173, R174). -/
inductive EventRecord where
  | stop (step vt : Nat) (primary : StopReason) (also : ReasonSet)
  | trigger (step vt : Nat) (board : Board) (id : TriggerId) (qualified : Bool) (stamp : Option (BitVec 32))
  | link (board : Board) (frontier : Nat) (event : LinkEvent)
  deriving DecidableEq, Repr

/-- An event queue, oldest record first (R172). -/
structure EventQueue where
  records  : List EventRecord
  drops    : Nat
  overflow : Bool
  deriving DecidableEq, Repr

/-! ## The partition slot -/

/-- A partition slot: its record (R52), the state the step pipe keeps with it (R1, R105), its strobe unit (R112), its
trigger filter and event queue, and the group stops offered to it and not yet taken, oldest first, each by the slot that
offers it (R93). -/
structure Partition where
  state         : PartState
  settings      : Settings
  weff          : Nat
  heff          : Nat
  runMode       : RunMode
  runArgument   : Nat
  runLimit      : Nat
  limitClamped  : Bool
  firedFrontier : Nat
  vt            : Nat
  fired         : Snapshot
  stop          : Option StopPoint
  also          : ReasonSet
  sticky        : StickyErrors
  group         : Option Group
  syncPending   : Bool
  limitFound    : Bool
  pipe          : List PipeEntry
  gap           : SettleGap
  lastFire      : Bool
  filter        : Filter
  queue         : EventQueue
  groupStops    : List Slot
  deriving DecidableEq, Repr

/-- A partition slot after device reset (R52, R105, R112, R156, R172). -/
def Partition.reset : Partition where
  state := .closed
  settings := Settings.builtIn
  weff := 4
  heff := 8
  runMode := .free
  runArgument := 0
  runLimit := Config.maxStep
  limitClamped := false
  firedFrontier := 0
  vt := 0
  fired := []
  stop := none
  also := {}
  sticky := {}
  group := none
  syncPending := false
  limitFound := false
  pipe := []
  gap := .elapsed
  lastFire := false
  filter := Filter.reset
  queue := ⟨[], 0, false⟩
  groupStops := []

/-! ## Boards and board links (chapters 3 and 6) -/

/-- The link states of a board (R62). -/
inductive LinkState where
  | absent | probing | idle | syncing | bound | failed
  deriving DecidableEq, Repr

/-- The five receive error counters, each 0 to 255 (R62, R132). -/
structure RxCounters where
  parity  : Nat := 0
  framing : Nat := 0
  orphan  : Nat := 0
  length  : Nat := 0
  check   : Nat := 0
  deriving DecidableEq, Repr

/-- A board record (R62). -/
structure BoardRecord where
  link     : LinkState
  owner    : Option Slot
  id       : BitVec 16
  depth    : Nat
  counters : RxCounters
  cause    : Option FaultCause
  deriving DecidableEq, Repr

/-- A board record after device reset (R62). -/
def BoardRecord.reset : BoardRecord where
  link := .absent
  owner := none
  id := 0
  depth := 0
  counters := {}
  cause := none

/-- A frame waiting in a transmit order (R135). An ARM carries its step number and masks; the tag of a POLL is settled
when it is sent (R145). -/
inductive TxItem where
  | arm (step : Nat) (changed level : ClockMask)
  | flush (keep : Nat)
  | sync (next : Nat) (level : ClockMask)
  | poll
  | probe
  deriving DecidableEq, Repr

/-- A frame as it goes down the link, with its tags (R213). -/
inductive DownFrame where
  | arm (tag : Tag) (changed level : ClockMask)
  | flush (keep : Tag)
  | sync (next : Tag) (level : ClockMask)
  | poll (last : Tag)
  | probe
  deriving DecidableEq, Repr

/-- The response timer (R134); when running, with the duration in ns it was started with (R143). -/
inductive ResponseTimer where
  | stopped
  | running (ns : Nat)
  | suspended
  deriving DecidableEq, Repr

/-- The backoff timer (R134); when running, with its wait in ns (R142). -/
inductive Backoff where
  | idle
  | running (ns : Nat)
  deriving DecidableEq, Repr

/-- The receive assembly (R131): HUNT, OPEN with the bytes so far and the frame's length, or DISCARD. -/
inductive RxAssembly where
  | hunt
  | collecting (bytes : List Byte) (length : Nat)
  | discard
  deriving DecidableEq, Repr

/-- The phases of a break that the controller passes on its own (R136). After `recovery` comes the PROBE. -/
inductive BreakPhase where
  | none
  | waitingForFrame
  | low
  | recovery
  deriving DecidableEq, Repr

/-- A board link controller (R134), with the discarded range and flush-pending flag the step pipe keeps for the board
(R121), its muted flag (R149), the phase of a break (R136) and the lines it drives or samples. The three fields marked
MODEL hold what rules ask of the past: `sentThrough` is the highest step of which an ARM counts as sent (R121, R134),
`flushSent` that the FLUSH pending has been sent and `pollAfterFlush` that the POLL outstanding was sent after it
(R122). -/
structure Link where
  order          : List TxItem
  sending        : Option DownFrame
  nextAck        : Option Nat
  nextDone       : Option Nat
  armsOut        : Nat
  donesOut       : Nat
  pollMark       : Option Nat
  pollOut        : Bool
  expiry         : Bool
  loss           : Bool
  timer          : ResponseTimer
  retries        : Nat
  backoff        : Backoff
  rx             : RxAssembly
  muted          : Bool
  discarded      : Option (Nat × Nat)
  flushPending   : Bool
  breakPhase     : BreakPhase
  strobe         : Bool
  upHigh         : Bool
  sentThrough    : Nat
  flushSent      : Bool
  pollAfterFlush : Bool
  deriving DecidableEq, Repr

/-- A link controller after device reset (R134, R150). The upstream line counts as high before (assumption 41). -/
def Link.reset : Link where
  order := []
  sending := none
  nextAck := none
  nextDone := none
  armsOut := 0
  donesOut := 0
  pollMark := none
  pollOut := false
  expiry := false
  loss := false
  timer := .stopped
  retries := 0
  backoff := .idle
  rx := .hunt
  muted := false
  discarded := none
  flushPending := false
  breakPhase := .none
  strobe := false
  upHigh := true
  sentThrough := 0
  flushSent := false
  pollAfterFlush := false

/-! ## The step engine (chapter 2) -/

/-- A work item of the step engine (R30, R34): the slot served, the working copy of its frontier snapshot with the
parents of its divided clocks (child, parent), the frontier step number, the target time in mode UNTIL, and the void
marker. -/
structure WorkItem where
  slot     : Slot
  copy     : Snapshot
  parents  : List (LocalNo × LocalNo)
  frontier : Nat
  target   : Option Nat
  void     : Bool
  deriving DecidableEq, Repr

/-- The step engine (R30). -/
structure Engine where
  item       : Option WorkItem
  lastServed : Slot
  deriving DecidableEq, Repr

/-! ## Start-up and the configuration store (chapter 10) -/

/-- The parameters of a preset, its absent fields filled in (R205). -/
inductive PresetBody where
  | periodic (period high phase : Nat)
  | divided (parent divisor high : Nat)
  deriving DecidableEq, Repr

/-- An entry of the loaded preset table (R205). -/
structure Preset where
  slot    : Slot
  localNo : LocalNo
  body    : PresetBody
  enable  : Bool
  deriving DecidableEq, Repr

/-- The start-up phases (R202). -/
inductive Phase where
  | loading | probing | ready
  deriving DecidableEq, Repr

/-- The store status, once set (R203). -/
inductive StoreStatus where
  | loaded | defaulted
  deriving DecidableEq, Repr

/-- What has been read while LOADING (R203 to R206): the header bytes so far; or, the header judged valid, what it gives,
the entries kept and skipped so far, and the bytes read from address `base` on that no entry has used. -/
inductive LoadWork where
  | header (bytes : List Byte)
  | table (settings : Settings) (mask : BoardMask) (kept : List Preset) (skipped : Nat) (base : Nat) (bytes : List Byte)
  deriving DecidableEq, Repr

/-- The operation in progress on the memory for a store request (R208). -/
inductive StoreOp where
  | read (port : Slot) (address length : Nat)
  | write (port : Slot) (address : Nat) (data : List Byte)
  deriving DecidableEq, Repr

/-- The store loader (R202, R203, R208). `status` is none until LOADING ends. -/
structure Loader where
  phase     : Phase
  load      : LoadWork
  status    : Option StoreStatus
  skipped   : Nat
  defaults  : Settings
  probeMask : BoardMask
  presets   : List Preset
  op        : Option StoreOp
  deriving DecidableEq, Repr

/-- The store loader after device reset (R201). Until LOADING ends the skipped count, defaults, mask and table have no
value of the manual's; the model's are 0 and the built-in values (assumption 42). -/
def Loader.reset : Loader where
  phase := .loading
  load := .header []
  status := none
  skipped := 0
  defaults := Settings.builtIn
  probeMask := 0xFFFFFF#24
  presets := []
  op := none

/-! ## Controller ports (chapter 9) -/

/-- The port states (R184). -/
inductive PortState where
  | idle | receiving | processing | responseReady
  deriving DecidableEq, Repr

/-- The transaction at a port (R183). `none`: select is high. `begun`: no transaction byte yet. `ignored`: select is
low, and every byte is ignored until it rises (R184, R195). -/
inductive Transaction where
  | none
  | begun
  | writing
  | overrun
  | reading
  | readingEmpty
  | status
  | unknown
  | ignored
  deriving DecidableEq, Repr

/-- How far the request in PROCESSING has come. `handed`: not yet taken by its block. The others are the requests that
are answered only when their work ends (R190), with what their response will tell. -/
inductive Work where
  | handed
  | opening (todo : List Preset) (applied notEnabled skipped : Nat) (clamped : List Preset)
  | claiming (fresh already failed : BoardMask)
  | timeReset (failed : BoardMask)
  | recovering (replied : BoardMask)
  | reprobing (set found absent : BoardMask)
  | storing
  deriving DecidableEq, Repr

/-- A controller port (R184). `overlong`: the transaction received more than 64 bytes (R185). `dataOut`: the bits
shifted out in the latest transaction, one for each clock period (R183). -/
structure Port where
  state        : PortState
  request      : List Byte
  overlong     : Bool
  response     : List Byte
  readPosition : Nat
  overrun      : Bool
  inactivity   : Bool
  transaction  : Transaction
  dataOut      : List Bool
  work         : Option Work
  deriving DecidableEq, Repr

/-- A controller port after device reset, select high (R184). -/
def Port.reset : Port where
  state := .idle
  request := []
  overlong := false
  response := []
  readPosition := 0
  overrun := false
  inactivity := false
  transaction := .none
  dataOut := []
  work := none

/-! ## The machine -/

/-- The state of the sequencer with the configuration memory beside it, and the commands waiting, first in first out.
`store` lists the bytes of the configuration memory that differ from what an unlisted address reads as (see
Machine/Store.lean). `freeCount` is the MODEL's own: the number of free values used so far. -/
structure State where
  parts     : Vector Partition 4
  boards    : Vector BoardRecord 24
  links     : Vector Link 24
  pool      : Vector (Option PoolRecord) 48
  ports     : Vector Port 4
  engine    : Engine
  loader    : Loader
  store     : List Host.Cell
  resetHeld : Bool
  freeCount : Nat
  pending   : List Instr
  deriving DecidableEq, Repr

/-- The machine right after device reset (R201), with no command waiting. -/
def State.reset : State where
  parts := Vector.replicate 4 Partition.reset
  boards := Vector.replicate 24 BoardRecord.reset
  links := Vector.replicate 24 Link.reset
  pool := Vector.replicate 48 none
  ports := Vector.replicate 4 Port.reset
  engine := ⟨none, 3⟩
  loader := Loader.reset
  store := []
  resetHeld := false
  freeCount := 0
  pending := []

/-- Why a command stops with a fault. The manual gives every command an effect and names no event that stops the
sequencer, so there is no such reason and no command faults. -/
inductive Fault where
  deriving DecidableEq, Repr

/-- Why a command is refused by the model. -/
inductive Refusal where
  /-- The command with this mnemonic has no meaning yet. Raised by `exec` alone; safe, for it ends the run. -/
  | notModelled (mnemonic : String)
  deriving DecidableEq, Repr

end Sys2Proof.Machine
end

