-- ==== Sys2Proof/Machine/Bytes.lean ====
section
/-! DEFINITION. Byte order, check bytes, tags and board masks: the helpers every layout of R211 to R214 uses. -/

namespace Sys2Proof.Machine

/-- A value in `width` bytes, least significant byte first (R211). -/
def leBytes : Nat → Nat → List Byte
  | 0, _ => []
  | width + 1, x => BitVec.ofNat 8 x :: leBytes width (x / 256)

/-- The value of bytes that stand least significant first (R211). -/
def leNat : List Byte → Nat
  | [] => 0
  | b :: bs => b.toNat + 256 * leNat bs

/-- The sum of bytes modulo 256 (R130, R186). -/
def sumBytes : List Byte → Byte
  | [] => 0
  | b :: bs => b + sumBytes bs

/-- The check byte of a frame: with it the sum of all bytes is 0 modulo 256 (R130, R191). -/
def checkByte (bs : List Byte) : Byte := - sumBytes bs

/-- A frame's bytes with its check byte at the end (R130, R191). -/
def sealBytes (bs : List Byte) : List Byte := bs ++ [checkByte bs]

/-- The tag of a step number: its low 16 bits (R108, R130). -/
def tagOf (n : Nat) : Tag := BitVec.ofNat 16 n

/-- The step number from `lo` to `hi` whose low 16 bits are `tag`, if there is one; the lowest when there are more
(R130, R145). -/
def expandTag (tag : Tag) (lo hi : Nat) : Option Nat :=
  let n := lo + (tag - tagOf lo).toNat
  if n ≤ hi then some n else none

/-- Every board, in ascending number. -/
def allBoards : List Board := List.finRange 24

/-- Every slot, in ascending number. -/
def allSlots : List Slot := [0, 1, 2, 3]

/-- Whether a board stands in a mask (R211). -/
def maskHas (m : BoardMask) (b : Board) : Bool := m.getLsbD b.val

/-- The mask with one board alone (R211). -/
def maskOne (b : Board) : BoardMask := BitVec.twoPow 24 b.val

/-- A mask with a board added. -/
def maskAdd (m : BoardMask) (b : Board) : BoardMask := m ||| maskOne b

/-- The mask of the boards of a list that satisfy a test. -/
def maskFrom (f : Board → Bool) : List Board → BoardMask
  | [] => 0
  | b :: bs => if f b then maskAdd (maskFrom f bs) b else maskFrom f bs

/-- The mask of all boards that satisfy a test. -/
def maskWhere (f : Board → Bool) : BoardMask := maskFrom f allBoards

/-- The boards of a mask, in ascending number. -/
def maskBoards (m : BoardMask) : List Board := allBoards.filter (maskHas m)

/-- The 4-bit member mask of the slots that satisfy a test: bit k stands for slot k, in one byte (R211). -/
def memberMask (f : Slot → Bool) : Byte :=
  BitVec.ofNat 8 ((if f 0 then 1 else 0) + (if f 1 then 2 else 0) + (if f 2 then 4 else 0) + (if f 3 then 8 else 0))

end Sys2Proof.Machine
end

