-- ==== Sys2Proof/Machine/Flags.lean ====
section
/-! DEFINITION. The codes of enumerations, sets, flags and status values (R211, R212), and the operations on the sets of
stop reasons and sticky errors. -/

namespace Sys2Proof.Machine

/-- A flag or off/on setting as a byte (R211). -/
def flagByte (b : Bool) : Byte := if b then 1 else 0

/-- An off/on byte of a request: any non-zero byte is set (R211). -/
def flagOf (b : Byte) : Bool := b ≠ 0

/-- The code of a partition state (R211). -/
def PartState.code : PartState → Byte
  | .closed => 0 | .stopped => 1 | .running => 2 | .paused => 3 | .stopping => 4 | .faulted => 5

/-- The code of a clock kind (R211). -/
def ClockKind.code : ClockKind → Byte
  | .periodic => 0 | .divided _ => 1

/-- The code of a clock state (R211). -/
def ClockState.code : ClockState → Byte
  | .off => 0 | .active => 1 | .gatePending => 2 | .gated => 3 | .ungatePending => 4 | .offPending => 5

/-- The code of an edge polarity (R211). -/
def Polarity.code : Polarity → Byte
  | .rising => 0 | .falling => 1

/-- The code of a link state (R211). -/
def LinkState.code : LinkState → Byte
  | .absent => 0 | .probing => 1 | .idle => 2 | .syncing => 3 | .bound => 4 | .failed => 5

/-- The code of a run mode (R211). -/
def RunMode.code : RunMode → Byte
  | .free => 0 | .count => 1 | .until => 2

/-- The run mode a byte codes (R211). -/
def RunMode.ofByte (b : Byte) : Option RunMode :=
  if b = 0 then some .free else if b = 1 then some .count else if b = 2 then some .until else none

/-- The code of a filter mode (R211). -/
def FilterMode.code : FilterMode → Byte
  | .off => 0 | .normal => 1 | .inverse => 2 | .any => 3

/-- The filter mode a byte codes (R211). -/
def FilterMode.ofByte (b : Byte) : Option FilterMode :=
  if b = 0 then some .off else if b = 1 then some .normal else if b = 2 then some .inverse
  else if b = 3 then some .any else none

/-- The code of a stop reason (R211). -/
def Reason.code : Reason → Byte
  | .controller => 1 | .trigger => 2 | .group => 3 | .count => 4 | .time => 5 | .noEdges => 6 | .limit => 7 | .fault => 8

/-- The name of a stop reason, without its details (R84). -/
def StopReason.name : StopReason → Reason
  | .controller => .controller
  | .trigger _ _ => .trigger
  | .group => .group
  | .count => .count
  | .time => .time
  | .noEdges => .noEdges
  | .limit => .limit
  | .fault _ _ => .fault

/-- The code of a fault cause; none is 00h (R211). -/
def faultCode : Option FaultCause → Byte
  | none => 0 | some .timeout => 1 | some .retries => 2 | some .sequence => 3

/-- The code of a receive error kind (R211). -/
def RxError.code : RxError → Byte
  | .parity => 1 | .framing => 2 | .orphan => 3 | .length => 4 | .check => 5

/-- The code of the store status (R211); not set reads 00h, but no request is taken before it is set. -/
def statusCode : Option StoreStatus → Byte
  | none => 0 | some .loaded => 1 | some .defaulted => 2

/-- An owner, group or slot field, FFh for none (R211). -/
def ownerByte {n : Nat} : Option (Fin n) → Byte
  | none => 0xFF#8
  | some k => BitVec.ofNat 8 k.val

/-- A reason added to a set; a name stands in it at most once (R84). -/
def ReasonSet.add (set : ReasonSet) : Reason → ReasonSet
  | .controller => { set with controller := true }
  | .trigger => { set with trigger := true }
  | .group => { set with group := true }
  | .count => { set with count := true }
  | .time => { set with time := true }
  | .noEdges => { set with noEdges := true }
  | .limit => { set with limit := true }
  | .fault => { set with fault := true }

/-- Whether a reason stands in a set. -/
def ReasonSet.has (set : ReasonSet) : Reason → Bool
  | .controller => set.controller
  | .trigger => set.trigger
  | .group => set.group
  | .count => set.count
  | .time => set.time
  | .noEdges => set.noEdges
  | .limit => set.limit
  | .fault => set.fault

/-- An also-reasons set as a byte: the reason with code r is bit r − 1 (R211). -/
def ReasonSet.byte (set : ReasonSet) : Byte :=
  BitVec.ofNat 8 ((if set.controller then 1 else 0) + (if set.trigger then 2 else 0) + (if set.group then 4 else 0)
    + (if set.count then 8 else 0) + (if set.time then 16 else 0) + (if set.noEdges then 32 else 0)
    + (if set.limit then 64 else 0) + (if set.fault then 128 else 0))

/-- The sticky error of a fault cause: SEQUENCE for SEQUENCE, LINK_FAULT for TIMEOUT and RETRIES (R97). -/
def StickyErrors.addCause (e : StickyErrors) : FaultCause → StickyErrors
  | .sequence => { e with sequence := true }
  | .timeout => { e with linkFault := true }
  | .retries => { e with linkFault := true }

/-- A sticky-error set as a byte (R211). -/
def StickyErrors.byte (e : StickyErrors) : Byte :=
  BitVec.ofNat 8 ((if e.linkFault then 1 else 0) + (if e.sequence then 2 else 0) + (if e.overflow then 4 else 0))

/-- The status codes of a response (R198). -/
inductive Status where
  | ok | badFrame | unknownRequest | badValue | notOpen | alreadyOpen | wrongState | wrongClockState | noSuchClock
  | localInUse | poolEmpty | parentInvalid | parentOff | dependentClocks | boardTaken | boardAbsent | boardBusy
  | noBoards | errorPending | queueFull | alreadyPaused | notPaused | groupMismatch | groupNotReady | storeBusy
  | storeAbsent | starting
  deriving DecidableEq, Repr

/-- The values of the status codes (R212). -/
def Status.code : Status → Byte
  | .ok => 0x00#8 | .badFrame => 0x01#8 | .unknownRequest => 0x02#8 | .badValue => 0x03#8 | .notOpen => 0x04#8
  | .alreadyOpen => 0x05#8 | .wrongState => 0x06#8 | .wrongClockState => 0x07#8 | .noSuchClock => 0x08#8
  | .localInUse => 0x09#8 | .poolEmpty => 0x0A#8 | .parentInvalid => 0x0B#8 | .parentOff => 0x0C#8
  | .dependentClocks => 0x0D#8 | .boardTaken => 0x0E#8 | .boardAbsent => 0x0F#8 | .boardBusy => 0x10#8
  | .noBoards => 0x11#8 | .errorPending => 0x12#8 | .queueFull => 0x13#8 | .alreadyPaused => 0x15#8
  | .notPaused => 0x16#8 | .groupMismatch => 0x17#8 | .groupNotReady => 0x18#8 | .storeBusy => 0x19#8
  | .storeAbsent => 0x1A#8 | .starting => 0x1B#8

/-- The empty indication (R192, R212). -/
def emptyIndication : Byte := 0xFF#8

/-- The request code a response carries: 00h stands in place of FFh (R186 to R188). -/
def echoCode (b : Byte) : Byte := if b = emptyIndication then 0 else b

/-- A response frame (R191, R212): request code, sequence tag, status code, flags with CLAMPED in bit 0, body length,
body, check byte. -/
def responseFrame (code seqTag : Byte) (status : Status) (clamped : Bool) (body : List Byte) : List Byte :=
  sealBytes ([echoCode code, seqTag, status.code, flagByte clamped, BitVec.ofNat 8 body.length] ++ body)

/-- The port status byte (R194, R212). -/
def portStatusByte (ready inProgress overrun attention : Bool) : Byte :=
  BitVec.ofNat 8 ((if ready then 1 else 0) + (if inProgress then 2 else 0) + (if overrun then 4 else 0)
    + (if attention then 8 else 0))

end Sys2Proof.Machine
end

