-- ==== Sys2Proof/Machine/Ops.lean ====
section
/-! DEFINITION. The named operations over the state: one accessor and one update for each table, and the operations that
several rules share (responses, event records, settings, timers, marking the engine's work item void). -/

namespace Sys2Proof.Machine

/-- What one command answers. -/
abbrev Result := Host.Outcome State Fault Refusal

/-! ## The tables -/

/-- Partition slot `k`. -/
def State.part (s : State) (k : Slot) : Partition := s.parts[k]

/-- Slot `k` replaced. -/
def State.setPart (s : State) (k : Slot) (p : Partition) : State := { s with parts := s.parts.set k p }

/-- Slot `k` changed. -/
def State.updPart (s : State) (k : Slot) (f : Partition → Partition) : State := s.setPart k (f (s.part k))

/-- Every slot changed. -/
def State.mapParts (s : State) (f : Slot → Partition → Partition) : State :=
  { s with parts := Vector.ofFn fun k => f k (s.part k) }

/-- The record of board `b`. -/
def State.board (s : State) (b : Board) : BoardRecord := s.boards[b]

/-- The record of board `b` replaced. -/
def State.setBoard (s : State) (b : Board) (r : BoardRecord) : State := { s with boards := s.boards.set b r }

/-- The record of board `b` changed. -/
def State.updBoard (s : State) (b : Board) (f : BoardRecord → BoardRecord) : State := s.setBoard b (f (s.board b))

/-- Every board record changed. -/
def State.mapBoards (s : State) (f : Board → BoardRecord → BoardRecord) : State :=
  { s with boards := Vector.ofFn fun b => f b (s.board b) }

/-- The link controller of board `b`. -/
def State.link (s : State) (b : Board) : Link := s.links[b]

/-- The link controller of board `b` replaced. -/
def State.setLink (s : State) (b : Board) (l : Link) : State := { s with links := s.links.set b l }

/-- The link controller of board `b` changed. -/
def State.updLink (s : State) (b : Board) (f : Link → Link) : State := s.setLink b (f (s.link b))

/-- Every link controller changed. -/
def State.mapLinks (s : State) (f : Board → Link → Link) : State :=
  { s with links := Vector.ofFn fun b => f b (s.link b) }

/-- Controller port `k`. -/
def State.port (s : State) (k : Slot) : Port := s.ports[k]

/-- Controller port `k` replaced. -/
def State.setPort (s : State) (k : Slot) (p : Port) : State := { s with ports := s.ports.set k p }

/-- Controller port `k` changed. -/
def State.updPort (s : State) (k : Slot) (f : Port → Port) : State := s.setPort k (f (s.port k))

/-- Clock record `i` of the pool; none when it is FREE. -/
def State.record (s : State) (i : Fin 48) : Option PoolRecord := s.pool[i]

/-- Clock record `i` replaced. -/
def State.setRecord (s : State) (i : Fin 48) (r : Option PoolRecord) : State := { s with pool := s.pool.set i r }

/-- Every clock record changed. -/
def State.mapRecords (s : State) (f : Option PoolRecord → Option PoolRecord) : State :=
  { s with pool := Vector.ofFn fun i => f (s.record i) }

/-- What a command does while the sequencer is not held in reset; while it is, nothing happens (R201). -/
def act (f : State → State) (s : State) : Result := .next (if s.resetHeld then s else f s)

/-! ## Views of a partition -/

/-- The run states RUNNING, PAUSED and STOPPING (R74). -/
def PartState.isRun : PartState → Bool
  | .running | .paused | .stopping => true
  | .closed | .stopped | .faulted => false

/-- The frontier step number: the youngest pipe entry's, or the fired frontier when the pipe is empty (R105, R106). -/
def Partition.frontier (p : Partition) : Nat :=
  match p.pipe.getLast? with
  | some e => e.number
  | none => p.firedFrontier

/-- The frontier snapshot (R2). -/
def Partition.frontierSnapshot (p : Partition) : Snapshot :=
  match p.pipe.getLast? with
  | some e => e.post
  | none => p.fired

/-- The step number of the stop point, when one is set. -/
def Partition.stopStep (p : Partition) : Option Nat := p.stop.map StopPoint.step

/-- Whether partition `k` owns board `b` (R52, R62). -/
def State.owns (s : State) (k : Slot) (b : Board) : Bool := (s.board b).owner = some k

/-- The boards of partition `k`, in ascending number (R52, R107). -/
def State.ownedBoards (s : State) (k : Slot) : List Board := allBoards.filter (s.owns k)

/-- The owned-board set of partition `k` as a mask. -/
def State.ownedMask (s : State) (k : Slot) : BoardMask := maskWhere (s.owns k)

/-- The members of the group of partition `k`, itself included, in ascending slot (R72). -/
def State.members (s : State) (k : Slot) : List Slot :=
  match (s.part k).group with
  | none => []
  | some g => allSlots.filter fun j => (s.part j).group = some g

/-- The attention line of port `k`: asserted while slot `k` is open, its queue holds a record and attention enable is on,
and low in every other case (R181, R196); low while held in reset (R201). -/
def State.attention (s : State) (k : Slot) : Bool :=
  !s.resetHeld && (s.part k).state != .closed && (s.part k).settings.attention && !(s.part k).queue.records.isEmpty

/-- The level mask of a copy of the clock state (R7): one bit per local number, 0 for an OFF clock or none. -/
def levelMask : Snapshot → ClockMask
  | [] => 0
  | e :: es => (if e.level && e.state != .off then BitVec.twoPow 16 e.localNo.val else 0) ||| levelMask es

/-! ## Settings and windows -/

/-- Weff from a window setting and the depths of the owned boards (R55). -/
def weffOf (window : Nat) (depths : List Nat) : Nat := depths.foldl min window

/-- Weff and Heff of partition `k` recomputed (R55). -/
def recompute (k : Slot) (s : State) : State :=
  let weff := weffOf (s.part k).settings.window ((s.ownedBoards k).map fun b => (s.board b).depth)
  s.updPart k fun p => { p with weff := weff, heff := max p.settings.horizon weff }

/-- The settle gap in ns of a gap code (R53, R112). -/
def gapNs (g : Nat) : Nat := (g + 1) * 40

/-- The response timeout in ns of a timeout code (R143). -/
def timeoutNs (t : Nat) : Nat := (t + 1) * 16000

/-- The backoff wait in ns after the `n`-th refusal with backoff limit `limit` (R142). -/
def backoffNs (n limit : Nat) : Nat := 2 ^ min n limit * 640

/-- The response timeout of a board: by the timeout code of its owner, or of the loaded defaults (R53, R143). -/
def State.responseNs (s : State) (b : Board) : Nat :=
  match (s.board b).owner with
  | some k => timeoutNs (s.part k).settings.timeoutCode
  | none => timeoutNs s.loader.defaults.timeoutCode

/-! ## Link controllers -/

/-- Whether something is outstanding on a BOUND link (R143). -/
def Link.waiting (l : Link) : Bool := 0 < l.armsOut || 0 < l.donesOut || l.flushPending || l.pollOut

/-- The response timer started, when it is STOPPED (R143). -/
def Link.startTimer (ns : Nat) (l : Link) : Link :=
  match l.timer with
  | .stopped => { l with timer := .running ns }
  | .running _ | .suspended => l

/-- The response timer restarted, unless SUSPENDED (R143). -/
def Link.restartTimer (ns : Nat) (l : Link) : Link :=
  match l.timer with
  | .suspended => l
  | .stopped | .running _ => { l with timer := .running ns }

/-- The response timer stopped when nothing is outstanding; a SUSPENDED timer waits for its backoff (R142, R143). -/
def Link.stopIfIdle (l : Link) : Link :=
  match l.timer, l.waiting with
  | .running _, false => { l with timer := .stopped }
  | .running _, true | .stopped, _ | .suspended, _ => l

/-- The reset values of R134, and with them no discarded range and no flush-pending flag (R126). The frame in
transmission is still completed (R135); the muted flag, the phase of a break and the lines stay. -/
def Link.cleared (l : Link) : Link :=
  { Link.reset with sending := l.sending, muted := l.muted, breakPhase := l.breakPhase, strobe := l.strobe,
                    upHigh := l.upHigh }

/-- A break begun (R131, R136): the reset values, the receive assembly in DISCARD, muting ended (R149), the strobe low
(R150), the line low once the frame in transmission has ended. -/
def Link.beginBreak (l : Link) : Link :=
  { l.cleared with rx := .discard, muted := false, strobe := false,
                   breakPhase := if l.sending.isSome then .waitingForFrame else .low }

/-- A SYNC put in the transmit order (R127, R134, R135): the expected numbers set to its next step, the counts, marks,
markers, retry counter, discarded range and flush-pending flag cleared. -/
def Link.queueSync (next : Nat) (level : ClockMask) (l : Link) : Link :=
  { l with order := l.order ++ [.sync next level], nextAck := some next, nextDone := some next, armsOut := 0,
           donesOut := 0, pollMark := none, pollOut := false, expiry := false, loss := false, retries := 0,
           discarded := none, flushPending := false, sentThrough := next - 1, flushSent := false,
           pollAfterFlush := false }

/-- Board `b` set to PROBING with fault cause none, and broken (R69, R102, R136, R207). -/
def breakBoard (b : Board) (s : State) : State :=
  (s.updBoard b fun r => { r with link := .probing, cause := none }).updLink b Link.beginBreak

/-- Board `b` set to SYNCING and sent a SYNC (R66, R127). -/
def syncBoard (b : Board) (next : Nat) (level : ClockMask) (s : State) : State :=
  (s.updBoard b fun r => { r with link := .syncing }).updLink b (Link.queueSync next level)

/-- An operation applied to each board of a list in turn. -/
def forBoards (op : Board → State → State) : List Board → State → State
  | [], s => s
  | b :: bs, s => forBoards op bs (op b s)

/-! ## Event records -/

/-- How many entries a record needs free to be stored (R175). -/
def EventRecord.needs : EventRecord → Nat
  | .stop .. => 1
  | .trigger .. | .link .. => 2

/-- A record offered to a partition's queue: stored, or dropped and counted (R175, R176). -/
def Partition.offer (r : EventRecord) (p : Partition) : Partition :=
  if p.queue.records.length + r.needs ≤ Config.queueEntries then
    { p with queue := { p.queue with records := p.queue.records ++ [r] } }
  else
    { p with queue := { p.queue with drops := min (p.queue.drops + 1) Config.maxDrops, overflow := true },
             sticky := { p.sticky with overflow := true } }

/-- A record offered to the queue of partition `k`. -/
def offerRecord (k : Slot) (r : EventRecord) (s : State) : State := s.updPart k (Partition.offer r)

/-- A LINK record of board `b` offered to its owner's queue, with the fired frontier as it stands (R174). -/
def offerLink (k : Slot) (b : Board) (e : LinkEvent) (s : State) : State :=
  offerRecord k (.link b (s.part k).firedFrontier e) s

/-! ## The step engine's work item -/

/-- Any work item for partition `k` marked void (R49). -/
def voidWork (k : Slot) (s : State) : State :=
  { s with engine := { s.engine with
      item := s.engine.item.map fun w => if w.slot = k then { w with void := true } else w } }

/-! ## Responses -/

/-- A response built in port `k`, which enters RESPONSE_READY: the code and sequence tag are those of its request, 00h in
place of either that was not received (R186, R191). -/
def respond (k : Slot) (status : Status) (clamped : Bool) (body : List Byte) (s : State) : State :=
  s.updPort k fun p =>
    { p with state := .responseReady, work := none, request := [], overlong := false, readPosition := 0,
             response := responseFrame (p.request.getD 0 0) (p.request.getD 1 0) status clamped body }

/-- A refusal with an empty body and CLAMPED clear (R191, R199). -/
def refuse (k : Slot) (status : Status) (s : State) : State := respond k status false [] s

/-- An operation that needs slot `k` open (R189). -/
def whenOpen (k : Slot) (f : State → State) (s : State) : State :=
  if (s.part k).state = .closed then refuse k .notOpen s else f s

/-- An operation that needs partition `k` STOPPED: NOT_OPEN, then WRONG_STATE (R14, R54, R68, R72, R75). -/
def whenStopped (k : Slot) (f : State → State) (s : State) : State :=
  whenOpen k (fun s => if (s.part k).state = .stopped then f s else refuse k .wrongState s) s

end Sys2Proof.Machine
end

