-- ==== Sys2Proof/Machine/Operands.lean ====
section
/-! DEFINITION. The requests with their fields as their frames carry them (R212): decoding a request frame, encoding one,
and bringing values into range (R16, R54, R75, R168, R179). -/

namespace Sys2Proof.Machine

/-- A request with its fields (R187, R212). `setHashOther` is a SET_HASH whose operation byte codes none. -/
inductive Request where
  | openSlot
  | closeSlot
  | setPartition (window horizon gap retry backoff timeout attention : Byte)
  | readPartition
  | claimBoards (set : BoardMask)
  | releaseBoards (set : BoardMask)
  | reprobe (set : BoardMask)
  | readBoard (board : Byte)
  | readCabinet
  | joinGroup (group : Byte)
  | leaveGroup
  | defineClock (localNo : Byte) (body : ClockBody)
  | deleteClock (localNo : Byte)
  | enableClock (localNo : Byte)
  | disableClock (localNo : Byte)
  | gateClock (localNo : Byte)
  | ungateClock (localNo : Byte)
  | readClock (localNo : Byte)
  | retimeClock (localNo : Byte) (first second : BitVec 24)
  | timeReset
  | setupRun (mode : Byte) (argument : BitVec 48)
  | run
  | groupRun
  | pause
  | resume
  | stop
  | recover
  | clearErrors
  | setFilter (mode : Byte) (count : BitVec 16) (logUnmatched : Byte)
  | setMatch (index : Byte) (id care : BitVec 16) (enable : Byte)
  | setHashKeep (enable : Byte)
  | setHashReplace (enable : Byte) (table : BitVec 64)
  | setHashAddIds (enable count : Byte) (ids : List TriggerId)
  | setHashClear (enable : Byte)
  | setHashOther (enable operation : Byte)
  | readEvents (count : Byte)
  | storeRead (address : BitVec 16) (length : Byte)
  | storeWrite (address : BitVec 16) (length : Byte) (data : List Byte)
  deriving DecidableEq, Repr

/-! ## Fields of a body -/

/-- The byte at an offset of a body. -/
def byteAt (body : List Byte) (at' : Nat) : Byte := body.getD at' 0

/-- The value of a field at an offset of a body, least significant byte first (R211). -/
def fieldAt (body : List Byte) (at' width : Nat) : Nat := leNat ((body.drop at').take width)

/-- Values of 2 bytes each, one after another. -/
def wordsOf : List Byte → List TriggerId
  | lo :: hi :: rest => BitVec.ofNat 16 (leNat [lo, hi]) :: wordsOf rest
  | _ => []

/-- The bytes of values of 2 bytes each. -/
def wordBytes : List TriggerId → List Byte
  | [] => []
  | w :: ws => leBytes 2 w.toNat ++ wordBytes ws

/-- The fields a body holds, when it holds as many bytes as they take (R187). -/
def takeFields (body : List Byte) (width : Nat) (r : Request) : Option Request :=
  if width ≤ body.length then some r else none

/-- The kind and parameter area of a DEFINE_CLOCK body, from offset 1 on (R212). -/
def decodeClockBody (body : List Byte) : ClockBody :=
  if byteAt body 1 = 0 then
    .periodic (BitVec.ofNat 24 (fieldAt body 2 3)) (BitVec.ofNat 24 (fieldAt body 5 3))
      (BitVec.ofNat 24 (fieldAt body 8 3))
  else if byteAt body 1 = 1 then
    .divided (byteAt body 2) (BitVec.ofNat 16 (fieldAt body 3 2)) (BitVec.ofNat 16 (fieldAt body 5 2))
  else .unknownKind (byteAt body 1)

/-- The operation and operands of a SET_HASH body (R170, R187, R212). -/
def decodeHash (body : List Byte) : Option Request :=
  let enable := byteAt body 0
  let count := byteAt body 2
  if byteAt body 1 = 0 then takeFields body 11 (.setHashKeep enable)
  else if byteAt body 1 = 1 then takeFields body 11 (.setHashReplace enable (BitVec.ofNat 64 (fieldAt body 3 8)))
  else if byteAt body 1 = 2 then
    if 1 ≤ count.toNat ∧ count.toNat ≤ 8 then
      takeFields body (11 + 2 * count.toNat)
        (.setHashAddIds enable count (wordsOf ((body.drop 11).take (2 * count.toNat))))
    else takeFields body 11 (.setHashAddIds enable count [])
  else if byteAt body 1 = 3 then takeFields body 11 (.setHashClear enable)
  else takeFields body 11 (.setHashOther enable (byteAt body 1))

/-- The fields of a STORE_WRITE body (R187, R212). -/
def decodeStoreWrite (body : List Byte) : Option Request :=
  let address := BitVec.ofNat 16 (fieldAt body 0 2)
  let length := byteAt body 2
  if 1 ≤ length.toNat ∧ length.toNat ≤ 16 then
    takeFields body (3 + length.toNat) (.storeWrite address length ((body.drop 3).take length.toNat))
  else takeFields body 3 (.storeWrite address length [])

/-- Whether a request code names a request of the catalogue (R212). -/
def knownCode (code : Byte) : Bool := 0x01 ≤ code.toNat && code.toNat ≤ 0x22

/-- The request a code and a body give, when the code is known and the body holds every field (R187, R212). -/
def decodeBody (code : Byte) (body : List Byte) : Option Request :=
  match code.toNat with
  | 0x01 => some .openSlot
  | 0x02 => some .closeSlot
  | 0x03 => takeFields body 7 (.setPartition (byteAt body 0) (byteAt body 1) (byteAt body 2) (byteAt body 3)
      (byteAt body 4) (byteAt body 5) (byteAt body 6))
  | 0x04 => some .readPartition
  | 0x05 => takeFields body 3 (.claimBoards (BitVec.ofNat 24 (fieldAt body 0 3)))
  | 0x06 => takeFields body 3 (.releaseBoards (BitVec.ofNat 24 (fieldAt body 0 3)))
  | 0x07 => takeFields body 3 (.reprobe (BitVec.ofNat 24 (fieldAt body 0 3)))
  | 0x08 => takeFields body 1 (.readBoard (byteAt body 0))
  | 0x09 => some .readCabinet
  | 0x0A => takeFields body 1 (.joinGroup (byteAt body 0))
  | 0x0B => some .leaveGroup
  | 0x0C => takeFields body 11 (.defineClock (byteAt body 0) (decodeClockBody body))
  | 0x0D => takeFields body 1 (.deleteClock (byteAt body 0))
  | 0x0E => takeFields body 1 (.enableClock (byteAt body 0))
  | 0x0F => takeFields body 1 (.disableClock (byteAt body 0))
  | 0x10 => takeFields body 1 (.gateClock (byteAt body 0))
  | 0x11 => takeFields body 1 (.ungateClock (byteAt body 0))
  | 0x12 => takeFields body 1 (.readClock (byteAt body 0))
  | 0x13 => takeFields body 7 (.retimeClock (byteAt body 0) (BitVec.ofNat 24 (fieldAt body 1 3))
      (BitVec.ofNat 24 (fieldAt body 4 3)))
  | 0x14 => some .timeReset
  | 0x15 => takeFields body 7 (.setupRun (byteAt body 0) (BitVec.ofNat 48 (fieldAt body 1 6)))
  | 0x16 => some .run
  | 0x17 => some .groupRun
  | 0x18 => some .pause
  | 0x19 => some .resume
  | 0x1A => some .stop
  | 0x1B => some .recover
  | 0x1C => some .clearErrors
  | 0x1D => takeFields body 4 (.setFilter (byteAt body 0) (BitVec.ofNat 16 (fieldAt body 1 2)) (byteAt body 3))
  | 0x1E => takeFields body 6 (.setMatch (byteAt body 0) (BitVec.ofNat 16 (fieldAt body 1 2))
      (BitVec.ofNat 16 (fieldAt body 3 2)) (byteAt body 5))
  | 0x1F => decodeHash body
  | 0x20 => takeFields body 1 (.readEvents (byteAt body 0))
  | 0x21 => takeFields body 3 (.storeRead (BitVec.ofNat 16 (fieldAt body 0 2)) (byteAt body 2))
  | 0x22 => decodeStoreWrite body
  | _ => none

/-- Whether a request frame is malformed, by the five conditions of R186. `overlong`: more than 64 bytes came. -/
def malformed (frame : List Byte) (overlong : Bool) : Bool :=
  decide (frame.length < 4) || overlong || decide (60 < (byteAt frame 2).toNat)
    || decide (frame.length ≠ (byteAt frame 2).toNat + 4) || decide (sumBytes frame ≠ 0)

/-- The request a well-formed frame holds (R187): its code, and the body between the length and the check byte. -/
def decodeRequest (frame : List Byte) : Option Request :=
  decodeBody (byteAt frame 0) ((frame.drop 3).take (byteAt frame 2).toNat)

/-! ## Encoding -/

/-- The request code (R212). -/
def Request.code : Request → Byte
  | .openSlot => 0x01#8 | .closeSlot => 0x02#8 | .setPartition .. => 0x03#8 | .readPartition => 0x04#8
  | .claimBoards _ => 0x05#8 | .releaseBoards _ => 0x06#8 | .reprobe _ => 0x07#8 | .readBoard _ => 0x08#8
  | .readCabinet => 0x09#8 | .joinGroup _ => 0x0A#8 | .leaveGroup => 0x0B#8 | .defineClock .. => 0x0C#8
  | .deleteClock _ => 0x0D#8 | .enableClock _ => 0x0E#8 | .disableClock _ => 0x0F#8 | .gateClock _ => 0x10#8
  | .ungateClock _ => 0x11#8 | .readClock _ => 0x12#8 | .retimeClock .. => 0x13#8 | .timeReset => 0x14#8
  | .setupRun .. => 0x15#8 | .run => 0x16#8 | .groupRun => 0x17#8 | .pause => 0x18#8 | .resume => 0x19#8
  | .stop => 0x1A#8 | .recover => 0x1B#8 | .clearErrors => 0x1C#8 | .setFilter .. => 0x1D#8
  | .setMatch .. => 0x1E#8 | .setHashKeep _ => 0x1F#8 | .setHashReplace .. => 0x1F#8 | .setHashAddIds .. => 0x1F#8
  | .setHashClear _ => 0x1F#8 | .setHashOther .. => 0x1F#8 | .readEvents _ => 0x20#8 | .storeRead .. => 0x21#8
  | .storeWrite .. => 0x22#8

/-- The kind byte and the parameter area of a DEFINE_CLOCK; bytes that are ignored are sent as 0 (R212). -/
def encodeClockBody : ClockBody → List Byte
  | .periodic period high phase => 0 :: (leBytes 3 period.toNat ++ leBytes 3 high.toNat ++ leBytes 3 phase.toNat)
  | .divided parent divisor high =>
    1 :: parent :: (leBytes 2 divisor.toNat ++ leBytes 2 high.toNat ++ leBytes 4 0)
  | .unknownKind kind => kind :: leBytes 9 0

/-- The body of a request; bytes that are ignored are sent as 0 (R212). -/
def Request.body : Request → List Byte
  | .setPartition window horizon gap retry backoff timeout attention =>
    [window, horizon, gap, retry, backoff, timeout, attention]
  | .claimBoards set => leBytes 3 set.toNat
  | .releaseBoards set => leBytes 3 set.toNat
  | .reprobe set => leBytes 3 set.toNat
  | .readBoard board => [board]
  | .joinGroup group => [group]
  | .defineClock localNo body => localNo :: encodeClockBody body
  | .deleteClock localNo => [localNo]
  | .enableClock localNo => [localNo]
  | .disableClock localNo => [localNo]
  | .gateClock localNo => [localNo]
  | .ungateClock localNo => [localNo]
  | .readClock localNo => [localNo]
  | .retimeClock localNo first second => localNo :: (leBytes 3 first.toNat ++ leBytes 3 second.toNat)
  | .setupRun mode argument => mode :: leBytes 6 argument.toNat
  | .setFilter mode count logUnmatched => mode :: (leBytes 2 count.toNat ++ [logUnmatched])
  | .setMatch index id care enable => index :: (leBytes 2 id.toNat ++ leBytes 2 care.toNat ++ [enable])
  | .setHashKeep enable => enable :: 0 :: 0 :: leBytes 8 0
  | .setHashReplace enable table => enable :: 1 :: 0 :: leBytes 8 table.toNat
  | .setHashAddIds enable count ids => enable :: 2 :: count :: (leBytes 8 0 ++ wordBytes ids)
  | .setHashClear enable => enable :: 3 :: 0 :: leBytes 8 0
  | .setHashOther enable operation => enable :: operation :: 0 :: leBytes 8 0
  | .readEvents count => [count]
  | .storeRead address length => leBytes 2 address.toNat ++ [length]
  | .storeWrite address length data => leBytes 2 address.toNat ++ length :: data
  | .openSlot | .closeSlot | .readPartition | .readCabinet | .leaveGroup | .timeReset | .run | .groupRun | .pause
  | .resume | .stop | .recover | .clearErrors => []

/-- The frame of a request with a sequence tag (R212). -/
def requestFrame (seqTag : Byte) (r : Request) : List Byte :=
  sealBytes (r.code :: seqTag :: BitVec.ofNat 8 r.body.length :: r.body)

/-- The requests a frame can hold: an unknown kind or operation is none of the known ones, and lists have the lengths
R187 gives. -/
def Request.wellFormed : Request → Bool
  | .defineClock _ (.unknownKind kind) => decide (1 < kind.toNat)
  | .setHashAddIds _ count ids =>
    decide (ids.length = if 1 ≤ count.toNat ∧ count.toNat ≤ 8 then count.toNat else 0)
  | .setHashOther _ operation => decide (3 < operation.toNat)
  | .storeWrite _ length data =>
    decide (data.length = if 1 ≤ length.toNat ∧ length.toNat ≤ 16 then length.toNat else 0)
  | _ => true

/-! ## Values brought into range -/

/-- A value raised to `lo` and lowered to `hi`. -/
def clampTo (lo hi n : Nat) : Nat := max lo (min hi n)

/-- The settings SET_PARTITION keeps for the values received (R54). -/
def keptSettings (window horizon gap retry backoff timeout attention : Byte) : Settings where
  window := clampTo 1 8 window.toNat
  horizon := clampTo 1 15 horizon.toNat
  gapCode := gap.toNat
  retryLimit := clampTo 1 15 retry.toNat
  backoffLimit := clampTo 0 7 backoff.toNat
  timeoutCode := clampTo 0 63 timeout.toNat
  attention := flagOf attention

/-- Whether a clamp of R54 changes one of the values received. The reading of attention enable is no clamp. -/
def settingsClamped (window horizon retry backoff timeout : Byte) : Bool :=
  clampTo 1 8 window.toNat != window.toNat || clampTo 1 15 horizon.toNat != horizon.toNat
    || clampTo 1 15 retry.toNat != retry.toNat || clampTo 0 7 backoff.toNat != backoff.toNat
    || clampTo 0 63 timeout.toNat != timeout.toNat

/-- A high time or high count brought into 1 to `total` − 1 (R16, R25). -/
def keptHigh (total high : Nat) : Nat := clampTo 1 (total - 1) high

/-- The seven settings as bytes, in the order of the request (R212). -/
def Settings.bytes (st : Settings) : List Byte :=
  [BitVec.ofNat 8 st.window, BitVec.ofNat 8 st.horizon, BitVec.ofNat 8 st.gapCode, BitVec.ofNat 8 st.retryLimit,
   BitVec.ofNat 8 st.backoffLimit, BitVec.ofNat 8 st.timeoutCode, flagByte st.attention]

/-! ## The request a port holds -/

/-- The request port `k` has handed over and its block has not taken yet (R189). -/
def State.handed (s : State) (k : Slot) : Option Request :=
  if (s.port k).state = .processing ∧ (s.port k).work = some .handed then decodeRequest (s.port k).request else none

/-- Request `r` of port `k` taken by its block, which acts as `f`. Where the port holds no such request there is none to
take, and nothing happens (assumption 2). -/
def take (k : Slot) (r : Request) (f : State → State) (s : State) : Result :=
  act (fun s => if s.handed k = some r then f s else s) s

end Sys2Proof.Machine
end

