-- ==== Sys2Proof/Machine/Clocks.lean ====
section
/-! DEFINITION. The arithmetic of clock edges (R8 to R13), the start of a clock on its grid (R19, R20, R28), and the
lookups of a partition's clocks in the pool and in the fired state (R2, R3, R61). -/

namespace Sys2Proof.Machine

/-! ## Entering OFF, and retimes -/

/-- A pending retime of a periodic clock applied with the new phase `phase` (R11, R13). -/
def PeriodicWave.applyRetime (phase : Nat → Nat) (w : PeriodicWave) : PeriodicWave :=
  match w.retime with
  | some (period, high) => { w with period := period, high := high, phase := phase period, retime := none }
  | none => w

/-- A pending retime of a divided clock applied (R12, R13). -/
def DividedWave.applyRetime (w : DividedWave) : DividedWave :=
  match w.retime with
  | some (divisor, high) => { w with divisor := divisor, high := high, retime := none }
  | none => w

/-- A pending retime applied as a clock enters OFF, or at a time reset: O becomes O mod P′ (R13, R28). -/
def Wave.settleRetime : Wave → Wave
  | .periodic w => .periodic (w.applyRetime fun period => w.phase % period)
  | .divided w => .divided w.applyRetime

/-- The placeholders of OFF: NE 0 with polarity RISING, C 0 (R6). -/
def Wave.atRest : Wave → Wave
  | .periodic w => .periodic { w with next := 0, polarity := .rising, retime := none }
  | .divided w => .divided { w with count := 0, retime := none }

/-- A clock that enters OFF: its pending retime applied, then the OFF values (R6, R13). -/
def ClockEntry.enterOff (e : ClockEntry) : ClockEntry :=
  { e with state := .off, level := false, wave := e.wave.settleRetime.atRest }

/-! ## Edges -/

/-- An issued edge of a clock, or none (R9). -/
inductive Edge where
  | none | rise | fall
  deriving DecidableEq, Repr

/-- The state after an issued rising edge, by the table of R9; none when the edge is suppressed, cannot occur, or is not
taken (OFF). -/
def ClockState.onRising : ClockState → Option ClockState
  | .active | .ungatePending => some .active
  | .gated | .gatePending | .offPending | .off => Option.none

/-- The state after an issued falling edge, by the table of R9; none when the edge is suppressed or not taken (OFF). -/
def ClockState.onFalling : ClockState → Option ClockState
  | .active => some .active
  | .gatePending => some .gated
  | .offPending => some .off
  | .gated | .ungatePending | .off => Option.none

/-- A rising edge of a clock whose wave has become `wave` by it (R9). -/
def ClockEntry.rise (e : ClockEntry) (wave : Wave) : ClockEntry × Edge :=
  match e.state.onRising with
  | some st => ({ e with state := st, level := true, wave := wave }, .rise)
  | Option.none => ({ e with wave := wave }, .none)

/-- A falling edge of a clock whose wave has become `wave` by it; a clock that reaches OFF takes the OFF values
(R9). -/
def ClockEntry.fall (e : ClockEntry) (wave : Wave) : ClockEntry × Edge :=
  match e.state.onFalling with
  | some .off => (({ e with wave := wave } : ClockEntry).enterOff, .fall)
  | some st => ({ e with state := st, level := false, wave := wave }, .fall)
  | Option.none => ({ e with wave := wave }, .none)

/-- NE and polarity after a rising edge at `t`, with a pending retime applied first (R8, R11). -/
def PeriodicWave.afterRise (t : Nat) (w : PeriodicWave) : PeriodicWave :=
  let w := w.applyRetime fun period => t % period
  { w with next := t + w.high, polarity := .falling }

/-- NE and polarity after a falling edge at `t` (R8). -/
def PeriodicWave.afterFall (t : Nat) (w : PeriodicWave) : PeriodicWave :=
  { w with next := t + (w.period - w.high), polarity := .rising }

/-- A clock at instant `t`: a periodic clock that is not OFF and whose NE is `t` has its edge handled (R37); any other is
left as it is. -/
def ClockEntry.atInstant (t : Nat) (e : ClockEntry) : ClockEntry × Edge :=
  match e.wave with
  | .periodic w =>
    if e.state ≠ .off ∧ w.next = t then
      match w.polarity with
      | .rising => e.rise (.periodic (w.afterRise t))
      | .falling => e.fall (.periodic (w.afterFall t))
    else (e, .none)
  | .divided _ => (e, .none)

/-- A divided clock at an issued rise of its parent: C advances, and the clock has a rising edge when C reaches 0, with
a pending retime applied, or a falling edge when C reaches K (R10, R12). -/
def ClockEntry.atParentRise (e : ClockEntry) : ClockEntry × Edge :=
  match e.wave with
  | .periodic _ => (e, .none)
  | .divided w =>
    if e.state = .off then (e, .none)
    else
      let c := (w.count + 1) % w.divisor
      if c = 0 then e.rise (.divided ({ w with count := 0 } : DividedWave).applyRetime)
      else if c = w.high then e.fall (.divided { w with count := c })
      else ({ e with wave := .divided { w with count := c } }, .none)

/-! ## Starting on the grid -/

/-- The first rising edge of a periodic clock's grid strictly after `v` (R19). -/
def PeriodicWave.firstRise (v : Nat) (w : PeriodicWave) : Nat :=
  if v < w.phase then w.phase else v + (w.period - (v - w.phase) % w.period)

/-- A clock's wave started after time `v`: NE by the grid, or C = N − 1 (R19, R20, R28). -/
def Wave.started (v : Nat) : Wave → Wave
  | .periodic w => .periodic { w with next := w.firstRise v, polarity := .rising }
  | .divided w => .divided { w with count := w.divisor - 1 }

/-- A clock re-established at time 0 by TIME_RESET (R28). -/
def ClockEntry.timeReset (e : ClockEntry) : ClockEntry :=
  match e.state with
  | .off => e
  | .offPending => e.enterOff
  | .gatePending => { e with state := .gated, level := false, wave := e.wave.settleRetime.started 0 }
  | .active | .gated | .ungatePending => { e with level := false, wave := e.wave.settleRetime.started 0 }

/-! ## The clocks of a partition -/

/-- Every pool index, ascending. -/
def allRecords : List (Fin 48) := List.finRange 48

/-- The clock of a snapshot with a local number. -/
def findClock (snap : Snapshot) (n : LocalNo) : Option ClockEntry := snap.find? fun e => e.localNo = n

/-- A snapshot with the clock of a local number changed. -/
def updateClock (n : LocalNo) (f : ClockEntry → ClockEntry) (snap : Snapshot) : Snapshot :=
  snap.map fun e => if e.localNo = n then f e else e

/-- Whether pool record `i` holds the clock of partition `k` with a local number (R3). -/
def State.holdsClock (s : State) (k : Slot) (n : LocalNo) (i : Fin 48) : Bool :=
  match s.record i with
  | some r => r.owner = k && r.localNo = n
  | none => false

/-- The pool index of a partition's clock. -/
def State.clockIndex (s : State) (k : Slot) (n : LocalNo) : Option (Fin 48) := allRecords.find? (s.holdsClock k n)

/-- The kind of a partition's clock, from its pool record (R3). -/
def State.clockKind (s : State) (k : Slot) (n : LocalNo) : Option ClockKind :=
  (s.clockIndex k n).bind fun i => (s.record i).map PoolRecord.kind

/-- The FREE record with the lowest pool index (R61). -/
def State.freeRecord (s : State) : Option (Fin 48) := allRecords.find? fun i => (s.record i).isNone

/-- The number of FREE records (R61). -/
def State.freeRecords (s : State) : Nat := (allRecords.filter fun i => (s.record i).isNone).length

/-- The divided clocks of partition `k` with their parents (R3). -/
def State.parentsOf (s : State) (k : Slot) : List (LocalNo × LocalNo) :=
  allRecords.filterMap fun i =>
    match s.record i with
    | some ⟨owner, n, .divided parent⟩ => if owner = k then some (n, parent) else none
    | some ⟨_, _, .periodic⟩ => none
    | none => none

/-- Whether any divided clock of partition `k` names clock `n` as parent (R18). -/
def State.hasChild (s : State) (k : Slot) (n : LocalNo) : Bool := (s.parentsOf k).any fun c => c.2 = n

/-- Whether clock `n` of partition `k` is the parent of a divided clock that is not OFF (R22). -/
def State.hasLiveChild (s : State) (k : Slot) (n : LocalNo) : Bool :=
  (s.parentsOf k).any fun c =>
    c.2 = n && match findClock (s.part k).fired c.1 with
      | some e => e.state != .off
      | none => false

/-- The clock state of partition `k` changed (R2): in STOPPED the fired state is the frontier snapshot too. -/
def State.updFired (s : State) (k : Slot) (f : Snapshot → Snapshot) : State :=
  s.updPart k fun p => { p with fired := f p.fired }

end Sys2Proof.Machine
end

