-- ==== Sys2Proof/Machine/Engine.lean ====
section
/-! DEFINITION. The step engine: computing a step or a finding from a snapshot (R36 to R44), and selecting a partition to
serve (R31 to R35). -/

namespace Sys2Proof.Machine

/-! ## Computing a step -/

/-- Whether a clock is a periodic clock bound to issue an edge (R44). -/
def ClockEntry.canIssue (e : ClockEntry) : Bool :=
  match e.wave, e.state with
  | .periodic _, .active | .periodic _, .gatePending | .periodic _, .ungatePending | .periodic _, .offPending => true
  | .periodic _, .off | .periodic _, .gated => false
  | .divided _, _ => false

/-- NE of a periodic clock that is not OFF (R36). -/
def ClockEntry.nextEdge (e : ClockEntry) : Option Nat :=
  match e.wave with
  | .periodic w => if e.state = .off then none else some w.next
  | .divided _ => none

/-- The smallest NE among the periodic clocks that are not OFF (R36). -/
def earliest : Snapshot → Option Nat
  | [] => none
  | e :: es =>
    match e.nextEdge, earliest es with
    | some a, some b => some (min a b)
    | some a, none => some a
    | none, r => r

/-- The local numbers of the clocks that issued a rising edge. -/
def rises : List (ClockEntry × Edge) → List LocalNo
  | [] => []
  | (e, .rise) :: es => e.localNo :: rises es
  | (_, .none) :: es => rises es
  | (_, .fall) :: es => rises es

/-- Whether the parent of clock `n` is among the clocks that issued a rising edge (R38). -/
def parentRose (parents : List (LocalNo × LocalNo)) (rose : List LocalNo) (n : LocalNo) : Bool :=
  parents.any fun c => c.1 = n && rose.contains c.2

/-- One instant (R37, R38): first every periodic clock whose NE is `t`, then the divided clocks whose parent issued a
rising edge. -/
def handleInstant (parents : List (LocalNo × LocalNo)) (t : Nat) (snap : Snapshot) : List (ClockEntry × Edge) :=
  let first := snap.map (ClockEntry.atInstant t)
  let rose := rises first
  first.map fun (e, edge) =>
    match e.wave with
    | .periodic _ => (e, edge)
    | .divided _ => if parentRose parents rose e.localNo then e.atParentRise else (e, edge)

/-- The changed mask of an instant: one bit per clock that issued an edge (R40). -/
def changedMask : List (ClockEntry × Edge) → ClockMask
  | [] => 0
  | (_, .none) :: es => changedMask es
  | (e, .rise) :: es => BitVec.twoPow 16 e.localNo.val ||| changedMask es
  | (e, .fall) :: es => BitVec.twoPow 16 e.localNo.val ||| changedMask es

/-- Whether an instant issued an edge (R39). -/
def anyIssued (edges : List (ClockEntry × Edge)) : Bool := edges.any fun c => c.2 != .none

/-- What a computation ends with (R39, R42 to R44). -/
inductive Computed where
  | step (time : Nat) (changed level : ClockMask) (post : Snapshot)
  | noEdges
  | time
  | limit
  deriving DecidableEq, Repr

/-- Whether an instant lies beyond the target time of mode UNTIL (R43). -/
def beyond (target : Option Nat) (t : Nat) : Bool :=
  match target with
  | some T => decide (T < t)
  | none => false

/-- A computation (R36 to R44): instant after instant, until one issues an edge or a finding ends it. `fuel` bounds the
instants crossed; every instant is later than the one before it and none beyond 2^48 − 1 is handled, so the fuel
`compute` gives never ends a computation of clocks that meet R4 and R6. -/
def computeFrom (parents : List (LocalNo × LocalNo)) (target : Option Nat) : Nat → Snapshot → Computed
  | 0, _ => .limit
  | fuel + 1, snap =>
    if snap.any ClockEntry.canIssue then
      match earliest snap with
      | none => .noEdges
      | some t =>
        if beyond target t then .time
        else if Config.maxTime < t then .limit
        else
          let edges := handleInstant parents t snap
          if anyIssued edges then
            .step t (changedMask edges) (levelMask (edges.map Prod.fst)) (edges.map Prod.fst)
          else computeFrom parents target fuel (edges.map Prod.fst)
    else .noEdges

/-- The computation of a work item. -/
def WorkItem.compute (w : WorkItem) : Computed := computeFrom w.parents w.target (Config.maxTime + 2) w.copy

/-! ## Selecting a partition -/

/-- Whether a partition requests engine service (R31). -/
def Partition.requests (p : Partition) : Bool :=
  p.state.isRun && decide (p.pipe.length < p.weff)
    && (match p.stopStep with
        | some n => decide (p.frontier < n)
        | none => true)
    && decide (p.frontier < p.runLimit) && !p.limitFound

/-- The order in which partitions are considered: from the one after the last served, wrapping from 3 to 0 (R33). -/
def roundRobin (last : Slot) : List Slot := [last + 1, last + 2, last + 3, last]

/-- The work item begun for partition `k` (R34). -/
def workItemFor (k : Slot) (s : State) : WorkItem where
  slot := k
  copy := (s.part k).frontierSnapshot
  parents := s.parentsOf k
  frontier := (s.part k).frontier
  target := if (s.part k).runMode = .until then some (s.part k).runArgument else none
  void := false

/-- A work item begun for partition `k`, which the round-robin position then names (R34). -/
def beginWork (k : Slot) (s : State) : State := { s with engine := ⟨some (workItemFor k s), k⟩ }

/-- The engine selects, when it is idle and a partition requests service (R33). -/
def engineSelect (s : State) : State :=
  match s.engine.item with
  | some _ => s
  | none =>
    match (roundRobin s.engine.lastServed).find? fun k => (s.part k).requests with
    | some k => beginWork k s
    | none => s

/-- The engine selects in an event in which several partitions may have begun to request service: any one of them may be
seen first (R33), so a free value says which (assumption 7). -/
def engineSelectFree (s : State) : State :=
  match s.engine.item with
  | some _ => s
  | none =>
    match (roundRobin s.engine.lastServed).filter fun k => (s.part k).requests with
    | [] => s
    | [k] => beginWork k s
    | k :: ks =>
      beginWork ((k :: ks).getD (Config.freePick s.freeCount % (k :: ks).length) k)
        { s with freeCount := s.freeCount + 1 }

end Sys2Proof.Machine
end

