-- ==== Sys2Proof/Machine/Pipe.lean ====
section
/-! DEFINITION. The step pipe and the strobe unit: appending and arming (R108 to R110), firing (R112 to R115), retirement
(R119), rewind (R120, R121) and stop completion (R90, R124). -/

namespace Sys2Proof.Machine

/-! ## Appending -/

/-- A computed step appended to the pipe of partition `k` as an ARMING entry, its ARM frame placed at the end of the
transmit order of every board of the board set (R47, R108). -/
def appendStep (k : Slot) (number time : Nat) (changed level : ClockMask) (post : Snapshot) (s : State) : State :=
  (s.updPart k fun p => { p with pipe := p.pipe ++ [⟨number, time, changed, level, post, .arming, 0, 0⟩] }).mapLinks
    fun b l => if s.owns k b then { l with order := l.order ++ [.arm number changed level] } else l

/-! ## Firing -/

/-- The oldest entry of a pipe that is not FIRED (R113). -/
def oldestUnfired (pipe : List PipeEntry) : Option PipeEntry := pipe.find? fun e => e.stage != .fired

/-- Whether step `n` is within the stop point (R84, R113). -/
def Partition.withinStop (p : Partition) (n : Nat) : Bool :=
  match p.stopStep with
  | some stop => decide (n ≤ stop)
  | none => true

/-- The entry the strobe unit fires now, when every condition of R113 holds. -/
def Partition.fireable (p : Partition) : Option PipeEntry :=
  match oldestUnfired p.pipe with
  | none => none
  | some e =>
    if e.stage = .armed ∧ (p.state = .running ∨ p.state = .stopping) ∧ p.withinStop e.number = true
        ∧ (p.lastFire = false ∨ p.gap = .elapsed) then some e
    else none

/-- An entry of a pipe changed. -/
def updateEntry (n : Nat) (f : PipeEntry → PipeEntry) (pipe : List PipeEntry) : List PipeEntry :=
  pipe.map fun e => if e.number = n then f e else e

/-- The fire of an entry (R114): the strobes of every board of the set rise, the entry becomes FIRED, the fired frontier,
VT and fired state advance, the settle gap starts, and each board's link awaits one more DONE (R139, R143). -/
def fire (k : Slot) (e : PipeEntry) (s : State) : State :=
  (s.updPart k fun p =>
    { p with pipe := updateEntry e.number (fun e => { e with stage := .fired }) p.pipe, firedFrontier := e.number,
             vt := e.time, fired := e.post, lastFire := true, gap := .running (gapNs p.settings.gapCode) }).mapLinks
    fun b l =>
      if s.owns k b then Link.startTimer (s.responseNs b) { l with strobe := true, donesOut := l.donesOut + 1 } else l

/-- The fire conditions evaluated: at most one entry is fired (R113). -/
def tryFire (k : Slot) (s : State) : State :=
  match (s.part k).fireable with
  | some e => fire k e s
  | none => s

/-! ## Stop completion -/

/-- The stop completion condition (R124). -/
def stopComplete (k : Slot) (s : State) : Bool :=
  (s.part k).state == .stopping && (s.part k).stopStep == some (s.part k).firedFrontier
    && (s.part k).pipe.all (fun e => e.stage != .fired)
    && (s.ownedBoards k).all fun b => !(s.link b).flushPending

/-- A link when its owner enters STOPPED: the timer stopped, POLL outstanding and both markers cleared, a POLL not yet
sent removed, the discarded range cleared (R122, R143). A backoff that still runs then runs on (assumption 45). -/
def Link.rest (l : Link) : Link :=
  { l with timer := .stopped, pollOut := false, expiry := false, loss := false,
           order := l.order.filter (fun i => i != .poll), discarded := none }

/-- The links of a partition's boards as it enters STOPPED, on stop completion or at the end of a RECOVER (R122,
R143). -/
def restLinks (k : Slot) (s : State) : State := s.mapLinks fun b l => if s.owns k b then l.rest else l

/-- The STOP record of a run (R91). -/
def Partition.stopRecord (p : Partition) : Option EventRecord :=
  p.stop.map fun point => .stop point.step p.vt point.primary p.also

/-- The STOP record offered (R90, R98). -/
def offerStop (k : Slot) (s : State) : State :=
  match (s.part k).stopRecord with
  | some r => offerRecord k r s
  | none => s

/-- Entry to STOPPED on stop completion (R90). -/
def enterStopped (k : Slot) (s : State) : State :=
  offerStop k (restLinks k ((voidWork k s).updPart k fun p => { p with state := .stopped }))

/-- The stop completion condition evaluated (R89, R124). -/
def checkStop (k : Slot) (s : State) : State := if stopComplete k s then enterStopped k s else s

/-- The fire conditions evaluated, and then the stop completion condition (R113, R124). -/
def advance (k : Slot) (s : State) : State := checkStop k (tryFire k s)

/-! ## Acknowledgement, completion and retirement -/

/-- Whether every board of a set has its flag set. -/
def allFlagged (set : List Board) (m : BoardMask) : Bool := set.all (maskHas m)

/-- An entry with board `b`'s arm acknowledged flag set: ARMED once every board of the set has acknowledged it
(R109). -/
def PipeEntry.ack (set : List Board) (b : Board) (e : PipeEntry) : PipeEntry :=
  let acked := maskAdd e.acked b
  { e with acked := acked, stage := if e.stage = .arming ∧ allFlagged set acked = true then .armed else e.stage }

/-- Board `b`'s arm acknowledged flag set on step `n`: the entry becomes ARMED when every board of the set has
acknowledged it, and the fire conditions are evaluated (R109). -/
def markAcked (k : Slot) (b : Board) (n : Nat) (s : State) : State :=
  let set := s.ownedBoards k
  tryFire k (s.updPart k fun p => { p with pipe := updateEntry n (PipeEntry.ack set b) p.pipe })

/-- Board `b`'s done received flag set on step `n` (R117). -/
def markDone (k : Slot) (b : Board) (n : Nat) (s : State) : State :=
  s.updPart k fun p => { p with pipe := updateEntry n (fun e => { e with doneBy := maskAdd e.doneBy b }) p.pipe }

/-- A pipe with its oldest entries retired: those FIRED and reported done by every board of the set (R119). -/
def retired (set : List Board) : List PipeEntry → List PipeEntry
  | [] => []
  | e :: es => if e.stage = .fired ∧ allFlagged set e.doneBy = true then retired set es else e :: es

/-- Retirement checked (R119). -/
def retire (k : Slot) (s : State) : State :=
  let set := s.ownedBoards k
  s.updPart k fun p => { p with pipe := retired set p.pipe }

/-! ## Rewind -/

/-- Whether a waiting frame is an ARM of a step above `n`. -/
def TxItem.armAbove (n : Nat) : TxItem → Bool
  | .arm step _ _ => decide (n < step)
  | .flush _ | .sync _ _ | .poll | .probe => false

/-- A link at a rewind to stop point `n` (R121): the ARMs of discarded steps leave the transmit order, A and the count
are set, and when an ARM of a discarded step had been sent a FLUSH is queued and the discarded range recorded. -/
def Link.rewind (n : Nat) (l : Link) : Link :=
  let order := l.order.filter fun i => !i.armAbove n
  let cut := { l with order := order, nextAck := some (n + 1), armsOut := 0, sentThrough := min n l.sentThrough }
  (if n < l.sentThrough then
    { cut with order := order ++ [.flush n], flushPending := true, discarded := some (n + 1, l.sentThrough),
               flushSent := false, pollAfterFlush := false }
  else cut).stopIfIdle

/-- A rewind of partition `k` to stop point `n` (R120). -/
def rewind (k : Slot) (n : Nat) (s : State) : State :=
  (voidWork k (s.updPart k fun p =>
    { p with pipe := p.pipe.filter fun e => e.stage == .fired || decide (e.number ≤ n) })).mapLinks
    fun b l => if s.owns k b then l.rewind n else l

end Sys2Proof.Machine
end

