-- ==== Sys2Proof/Machine/RunControl.lean ====
section
/-! DEFINITION. Run control: stop candidates and groups (R85, R86, R93, R94), the start of a run (R77, R78, R45), board
faults and their effect on the owner (R96 to R100, R148, R149). -/

namespace Sys2Proof.Machine

/-! ## Stop groups and candidates -/

/-- A group stop offered by partition `k` to every other member of its group (R93). It waits at each as long as that
partition stays in the group (assumption 9). -/
def offerGroupStop (k : Slot) (s : State) : State :=
  match (s.part k).group with
  | none => s
  | some g =>
    s.mapParts fun j p => if j ≠ k ∧ p.group = some g then { p with groupStops := p.groupStops ++ [k] } else p

/-- A stop point set or lowered to step `n` (R85, R86): the previous primary reason joins the also-reasons, RUNNING
becomes STOPPING, the pipe rewinds when the point is below the frontier, and the first stop point of the run, but for
reason GROUP, is offered to the group. -/
def setStopPoint (k : Slot) (n : Nat) (r : StopReason) (s : State) : State :=
  let before := (s.part k).stop
  let below := decide (n < (s.part k).frontier)
  let s := s.updPart k fun p =>
    { p with stop := some ⟨n, r⟩,
             also := (match p.stop with
               | some point => p.also.add point.primary.name
               | none => p.also),
             state := if p.state = .running then .stopping else p.state }
  let s := if below then rewind k n s else s
  if before.isNone && r.name != .group then offerGroupStop k s else s

/-- A stop candidate combined (R85): in a run state it becomes the stop point when none is set or it is lower, and its
reason joins the also-reasons otherwise; in any other state it has no effect. -/
def candidate (k : Slot) (n : Nat) (r : StopReason) (s : State) : State :=
  if (s.part k).state.isRun then
    match (s.part k).stop with
    | none => setStopPoint k n r s
    | some point =>
      if n < point.step then setStopPoint k n r s
      else s.updPart k fun p => { p with also := p.also.add r.name }
  else s

/-- A group stop taken by partition `k`, by its state (R94). -/
def takeGroupStop (k : Slot) (s : State) : State :=
  match (s.part k).state with
  | .running | .paused => advance k (candidate k (s.part k).firedFrontier .group s)
  | .stopping => s.updPart k fun p => { p with also := p.also.add .group }
  | .stopped | .faulted | .closed => s

/-! ## Findings and the start of a run -/

/-- A finding offered: the stop candidate, and the limit-found marker (R32, R46). -/
def offerFinding (k : Slot) (n : Nat) (r : StopReason) (s : State) : State :=
  candidate k n r (s.updPart k fun p => { p with limitFound := true })

/-- The run-limit finding, when its conditions hold (R45). -/
def runLimitFinding (k : Slot) (s : State) : State :=
  let p := s.part k
  if p.state.isRun && !p.limitFound && p.frontier == p.runLimit then
    offerFinding k p.runLimit (if p.runMode = .count ∧ p.limitClamped = false then .count else .limit) s
  else s

/-- The run limit a run of partition `p` starts with (R77). -/
def Partition.newLimit (p : Partition) : Nat :=
  if p.runMode = .count then min (p.firedFrontier + p.runArgument) Config.maxStep else Config.maxStep

/-- Whether that limit is clamped (R77). -/
def Partition.newLimitClamped (p : Partition) : Bool :=
  p.runMode == .count && decide (Config.maxStep < p.firedFrontier + p.runArgument)

/-- Steps 1 to 5 of the start of a run (R77). -/
def startRun (k : Slot) (s : State) : State :=
  s.updPart k fun p =>
    { p with runLimit := p.newLimit, limitClamped := p.newLimitClamped, stop := none, also := {}, limitFound := false,
             filter := { p.filter with counter := p.filter.setting }, state := .running }

/-- A run that ends at its start (R78): a target time at or below VT, then a fired frontier at the run limit. -/
def endAtStart (k : Slot) (s : State) : State :=
  let p := s.part k
  let s := if p.runMode = .until ∧ p.runArgument ≤ p.vt then candidate k p.firedFrontier .time s else s
  advance k (runLimitFinding k s)

/-- The status with which a partition fails checks 3 to 5 of the RUN conditions, if it does (R76). -/
def runRefusal (k : Slot) (s : State) : Option Status :=
  if (s.part k).sticky.linkFault || (s.part k).sticky.sequence then some .errorPending
  else if (s.ownedBoards k).isEmpty then some .noBoards
  else if Config.queueEntries ≤ (s.part k).queue.records.length then some .queueFull
  else none

/-- Whether a member passes the checks of GROUP_RUN: STOPPED, checks 3 to 5, and its sync-pending flag clear (R79). -/
def memberReady (k : Slot) (s : State) : Bool :=
  (s.part k).state == .stopped && (runRefusal k s).isNone && !(s.part k).syncPending

/-! ## Faults -/

/-- A board entered into FAILED with a cause; its link takes the reset values (R148). -/
def failBoard (b : Board) (cause : FaultCause) (s : State) : State :=
  (s.updBoard b fun r => { r with link := .failed, cause := some cause }).updLink b Link.cleared

/-- Whether board `b` is one that a claim being worked at port `k` has newly claimed (R66). -/
def freshClaim (k : Slot) (b : Board) (s : State) : Bool :=
  match (s.port k).work with
  | some (.claiming fresh _ _) => maskHas fresh b
  | _ => false

/-- Whether a RECOVER is being worked at port `k` (R102). -/
def isRecovering (k : Slot) (s : State) : Bool :=
  match (s.port k).work with
  | some (.recovering _) => true
  | _ => false

/-- Board `b` noted as one whose SYNC failed, in the claim being worked at port `k` (R66). -/
def noteClaimFailed (k : Slot) (b : Board) (s : State) : State :=
  s.updPort k fun p =>
    { p with work := match p.work with
        | some (.claiming fresh already failed) => some (.claiming fresh already (maskAdd failed b))
        | w => w }

/-- Board `b` noted as one that faulted in the TIME_RESET being worked at port `k`, whether it had answered its SYNC or
not (R29, R99). -/
def noteResetFailed (k : Slot) (b : Board) (s : State) : State :=
  s.updPort k fun p =>
    { p with work := match p.work with
        | some (.timeReset failed) => some (.timeReset (maskAdd failed b))
        | w => w }

/-- A newly claimed board whose SYNC failed dropped from the partition (R67). -/
def dropClaimed (k : Slot) (b : Board) (cause : FaultCause) (s : State) : State :=
  let s := (s.updBoard b fun r => { r with owner := none }).updLink b fun l => { l with strobe := false }
  offerLink k b (.fault cause) (recompute k (noteClaimFailed k b s))

/-- A SYNC in progress ended unanswered by muting: the board fails with cause TIMEOUT and the sticky error of that cause is
set (R100), with the outcome of its occasion, the partition staying FAULTED (R128, R149). A newly claimed board is dropped
and its LINK record offered as R67 gives (assumption 44). -/
def endSync (k : Slot) (b : Board) (s : State) : State :=
  if s.owns k b && (s.board b).link == .syncing then
    let s := (failBoard b .timeout s).updPart k fun p => { p with sticky := p.sticky.addCause .timeout }
    if freshClaim k b s then dropClaimed k b .timeout s else noteResetFailed k b s
  else s

/-- The links of a partition's boards muted (R149). -/
def muteBoards (k : Slot) (s : State) : State :=
  s.mapLinks fun b l => if s.owns k b then { l.cleared with muted := true } else l

/-- The part of the entry to FAULTED that every fault of an owned board makes (R97, R99): the state, the sticky error and
the void marker. -/
def enterFaulted (k : Slot) (cause : FaultCause) (s : State) : State :=
  voidWork k (s.updPart k fun p => { p with state := .faulted, sticky := p.sticky.addCause cause })

/-- Muting on entry to FAULTED: SYNCs in progress end, then the links of the boards that stay owned are muted
(R149). The SYNCs end in ascending board number, so their LINK records stand in that order (assumption 39). -/
def muteOnFault (k : Slot) (s : State) : State := muteBoards k (forBoards (endSync k) allBoards s)

/-- A fault of an owned board taken in a run state (R97, R98, R126). -/
def faultInRun (k : Slot) (b : Board) (cause : FaultCause) (s : State) : State :=
  let s := enterFaulted k cause (s.updPart k fun p =>
    { p with pipe := [], stop := some ⟨p.firedFrontier, .fault b cause⟩,
             also := match p.stop with
               | some point => p.also.add point.primary.name
               | none => p.also })
  muteOnFault k (offerGroupStop k (offerStop k s))

/-- A fault of an owned board taken in STOPPED, outside a claim SYNC (R99). A TIME_RESET in progress lists the board. -/
def faultInStopped (k : Slot) (b : Board) (cause : FaultCause) (s : State) : State :=
  muteOnFault k (offerGroupStop k (offerLink k b (.fault cause) (enterFaulted k cause (noteResetFailed k b s))))

/-- A board fault (R96, R148): the board fails, and its owner, if it has one, takes the fault by its state. -/
def boardFault (b : Board) (cause : FaultCause) (s : State) : State :=
  let exchange := (s.board b).link
  let s := failBoard b cause s
  match (s.board b).owner with
  | none => s
  | some k =>
    match (s.part k).state with
    | .running | .paused | .stopping => faultInRun k b cause s
    | .stopped =>
      if exchange = .syncing ∧ freshClaim k b s = true then dropClaimed k b cause s else faultInStopped k b cause s
    | .faulted =>
      if isRecovering k s && (exchange == .syncing || exchange == .probing) then s
      else s.updPart k fun p => { p with sticky := p.sticky.addCause cause }
    | .closed => s

end Sys2Proof.Machine
end

