-- ==== Sys2Proof/Machine/Filter.lean ====
section
/-! DEFINITION. The trigger filter: matching, qualification, counting, the trigger stop and the TRIGGER record (R153 to
R167), and the changes of the filter's settings (R168 to R170). -/

namespace Sys2Proof.Machine

/-- A trigger report as the pipe hands it over (R153). -/
structure TriggerReport where
  step  : Nat
  time  : Nat
  board : Board
  id    : TriggerId
  stamp : Option (BitVec 32)
  deriving DecidableEq, Repr

/-- Whether a match entry recognises a trigger ID (R157). -/
def MatchEntry.recognises (e : MatchEntry) (id : TriggerId) : Bool := e.enabled && (id &&& e.care) == (e.id &&& e.care)

/-- The hash index of a trigger ID: bits 5 to 0, bits 11 to 6 and bits 15 to 12, exclusive-or (R158). -/
def hashIndex (id : TriggerId) : Nat :=
  (id.extractLsb' 0 6 ^^^ id.extractLsb' 6 6 ^^^ (id.extractLsb' 12 4).setWidth 6).toNat

/-- Whether the hash table recognises a trigger ID (R158). -/
def Filter.hashRecognises (f : Filter) (id : TriggerId) : Bool := f.hashEnabled && f.hashTable.getLsbD (hashIndex id)

/-- Whether a report with this ID matches (R157 to R159). -/
def Filter.recognises (f : Filter) (id : TriggerId) : Bool :=
  f.entries.toList.any (fun e => e.recognises id) || f.hashRecognises id

/-- Whether a report qualifies, by the mode and whether it matches (R160). -/
def FilterMode.qualifies : FilterMode → Bool → Bool
  | .off, _ => false
  | .normal, found => found
  | .inverse, found => !found
  | .any, _ => true

/-- Whether the filter qualifies a report with this ID (R160). -/
def Filter.qualifies (f : Filter) (id : TriggerId) : Bool := f.mode.qualifies (f.recognises id)

/-- The step a trigger stop for a report at step `n` is offered at: n + Heff, and at most the largest step number (R163,
R165). -/
def Partition.triggerStop (p : Partition) (n : Nat) : Nat := min (n + p.heff) Config.maxStep

/-- A qualifying report counted (R161), and the stop it requests when the counter reaches or stands at 0 (R162). -/
def countReport (k : Slot) (r : TriggerReport) (s : State) : State :=
  let counter := (s.part k).filter.counter - 1
  let s := s.updPart k fun p => { p with filter := { p.filter with counter := counter } }
  if counter = 0 then candidate k ((s.part k).triggerStop r.step) (.trigger r.board r.id) s else s

/-- A trigger report taken by the filter of partition `k`, in the order of R159. -/
def takeReport (k : Slot) (r : TriggerReport) (s : State) : State :=
  let q := (s.part k).filter.qualifies r.id
  let s := if q then countReport k r s else s
  if q || (s.part k).filter.logUnmatched then
    offerRecord k (.trigger r.step r.time r.board r.id q r.stamp) s
  else s

/-! ## Changing the filter -/

/-- The table with the entry at the hash index of each ID set (R170). -/
def addIds (table : BitVec 64) : List TriggerId → BitVec 64
  | [] => table
  | id :: ids => addIds (table ||| BitVec.twoPow 64 (hashIndex id)) ids

/-- The filter with the hash enable and the table replaced (R170). -/
def Filter.setHash (enable : Byte) (table : BitVec 64) (f : Filter) : Filter :=
  { f with hashEnabled := flagOf enable, hashTable := table }

/-- The eight match entries as bytes: ID, care mask and enable of each (R169, R212). -/
def matchBytes : List MatchEntry → List Byte
  | [] => []
  | e :: es => leBytes 2 e.id.toNat ++ leBytes 2 e.care.toNat ++ [flagByte e.enabled] ++ matchBytes es

/-- The hash enable and the 64 entries as bytes (R170, R212). -/
def Filter.hashBytes (f : Filter) : List Byte := flagByte f.hashEnabled :: leBytes 8 f.hashTable.toNat

end Sys2Proof.Machine
end

