-- ==== Sys2Proof/Machine/Frames.lean ====
section
/-! DEFINITION. The line level of a board link (R129), its frames (R130, R213) and the receive assembly (R131). -/

namespace Sys2Proof.Machine

/-! ## Characters -/

/-- A character as it stands on the line between its start bit and the next: data, marker, parity and stop bit
(R129). -/
structure LineChar where
  data   : Byte
  marker : Bool
  parity : Bool
  stop   : Bool
  deriving DecidableEq, Repr

/-- The number of ones of a list of bits, modulo 2. -/
def oddOnes : List Bool → Bool
  | [] => false
  | b :: bs => b ^^ oddOnes bs

/-- The eight data bits of a character, least significant first (R129). -/
def dataBits (d : Byte) : List Bool :=
  [d.getLsbD 0, d.getLsbD 1, d.getLsbD 2, d.getLsbD 3, d.getLsbD 4, d.getLsbD 5, d.getLsbD 6, d.getLsbD 7]

/-- The byte whose data bits these are. -/
def bitsByte : List Bool → Byte
  | [] => 0
  | b :: bs => BitVec.ofNat 8 (b.toNat + 2 * (bitsByte bs).toNat)

/-- A character well sent: odd parity over the data bits and the marker (R129). -/
def goodChar (d : Byte) (marker : Bool) : LineChar := ⟨d, marker, !oddOnes (marker :: dataBits d), true⟩

/-- The twelve bits of a character, in order of transmission (R129, R213). -/
def LineChar.bits (c : LineChar) : List Bool := false :: (dataBits c.data ++ [c.marker, c.parity, c.stop])

/-- Whether the parity of a character is wrong (R129, R131). -/
def LineChar.badParity (c : LineChar) : Bool := !oddOnes (c.parity :: c.marker :: dataBits c.data)

/-- The characters of a frame: marker 1 on the first alone (R130). -/
def frameChars : List Byte → List LineChar
  | [] => []
  | b :: bs => goodChar b true :: bs.map fun b => goodChar b false

/-- The levels of a line that carries characters back to back (R129). -/
def lineBits : List LineChar → List Bool
  | [] => []
  | c :: cs => c.bits ++ lineBits cs

/-- The character whose eleven bits after the start bit these are. -/
def charOfBits (bits : List Bool) : LineChar :=
  ⟨bitsByte (bits.take 8), bits.getD 8 false, bits.getD 9 false, bits.getD 10 false⟩

/-- The characters recognised on a line, one level per bit time, and the level at the end (R129). `high` is the level
before, `open?` the bits of the character under way after its start bit. A start bit is recognised only at a fall, so a
line that stays low after a character yields none until it has returned high. -/
def scanLine : Bool → Option (List Bool) → List Bool → List LineChar × Bool
  | high, _, [] => ([], high)
  | high, none, b :: rest => if high && !b then scanLine b (some []) rest else scanLine b none rest
  | _, some bits, b :: rest =>
    let bits := bits ++ [b]
    if bits.length = 11 then
      let r := scanLine b none rest
      (charOfBits bits :: r.1, r.2)
    else scanLine b (some bits) rest

/-! ## Frames -/

/-- The frames the sequencer accepts from a board, with their fields (R130, R213). -/
inductive UpFrame where
  | armAck (tag : Tag)
  | armNak (tag : Tag) (cause : Byte)
  | done (tag : Tag) (trigger : Option TriggerId) (stamp : Option (BitVec 32))
  | flushAck (tag : Tag)
  | syncAck (tag : Tag)
  | status (armed finished : Tag) (trigger : Option (Tag × TriggerId))
  | probeReply (id : BitVec 16) (depth : Byte)
  deriving DecidableEq, Repr

/-- The length in characters that the kind byte of an upstream frame implies; none for an unknown kind (R131,
R213). -/
def upLength (kind : Byte) : Option Nat :=
  match kind.toNat with
  | 0x21 => some 4
  | 0x22 => some 5
  | 0x24 => some 4
  | 0x25 => some 4
  | 0x26 => some 5
  | 0x30 => some 4
  | 0x31 => some 6
  | 0x32 => some 8
  | 0x33 => some 10
  | 0x40 => some 6
  | 0x41 => some 10
  | _ => none

/-- A 2-byte field as it goes on the link (R211). -/
def tagBytes (t : BitVec 16) : List Byte := leBytes 2 t.toNat

/-- The bytes of an upstream frame with its check byte (R213). -/
def UpFrame.bytes : UpFrame → List Byte
  | .armAck tag => sealBytes (0x21#8 :: tagBytes tag)
  | .armNak tag cause => sealBytes (0x22#8 :: (tagBytes tag ++ [cause]))
  | .done tag none none => sealBytes (0x30#8 :: tagBytes tag)
  | .done tag (some id) none => sealBytes (0x31#8 :: (tagBytes tag ++ tagBytes id))
  | .done tag none (some stamp) => sealBytes (0x32#8 :: (tagBytes tag ++ leBytes 4 stamp.toNat))
  | .done tag (some id) (some stamp) => sealBytes (0x33#8 :: (tagBytes tag ++ tagBytes id ++ leBytes 4 stamp.toNat))
  | .flushAck tag => sealBytes (0x24#8 :: tagBytes tag)
  | .syncAck tag => sealBytes (0x25#8 :: tagBytes tag)
  | .status armed finished none => sealBytes (0x40#8 :: (tagBytes armed ++ tagBytes finished))
  | .status armed finished (some (tag, id)) =>
    sealBytes (0x41#8 :: (tagBytes armed ++ tagBytes finished ++ tagBytes tag ++ tagBytes id))
  | .probeReply id depth => sealBytes (0x26#8 :: (tagBytes id ++ [depth]))

/-- A 2-byte field of a frame at an offset. -/
def wordAt (bytes : List Byte) (at' : Nat) : BitVec 16 := BitVec.ofNat 16 (fieldAt bytes at' 2)

/-- The frame that the bytes of a well-formed frame hold (R213). -/
def decodeUp (bytes : List Byte) : Option UpFrame :=
  match (byteAt bytes 0).toNat with
  | 0x21 => some (.armAck (wordAt bytes 1))
  | 0x22 => some (.armNak (wordAt bytes 1) (byteAt bytes 3))
  | 0x24 => some (.flushAck (wordAt bytes 1))
  | 0x25 => some (.syncAck (wordAt bytes 1))
  | 0x26 => some (.probeReply (wordAt bytes 1) (byteAt bytes 3))
  | 0x30 => some (.done (wordAt bytes 1) none none)
  | 0x31 => some (.done (wordAt bytes 1) (some (wordAt bytes 3)) none)
  | 0x32 => some (.done (wordAt bytes 1) none (some (BitVec.ofNat 32 (fieldAt bytes 3 4))))
  | 0x33 => some (.done (wordAt bytes 1) (some (wordAt bytes 3)) (some (BitVec.ofNat 32 (fieldAt bytes 5 4))))
  | 0x40 => some (.status (wordAt bytes 1) (wordAt bytes 3) none)
  | 0x41 => some (.status (wordAt bytes 1) (wordAt bytes 3) (some (wordAt bytes 5, wordAt bytes 7)))
  | _ => none

/-- The bytes of a downstream frame with its check byte (R213). -/
def DownFrame.bytes : DownFrame → List Byte
  | .arm tag changed level => sealBytes (0x11#8 :: (tagBytes tag ++ tagBytes changed ++ tagBytes level))
  | .flush keep => sealBytes (0x12#8 :: tagBytes keep)
  | .sync next level => sealBytes (0x13#8 :: (tagBytes next ++ tagBytes level))
  | .poll last => sealBytes (0x14#8 :: tagBytes last)
  | .probe => sealBytes [0x15#8]

/-- The levels of the downstream line through the transmission of a frame, one a bit time: its characters back to back,
marker 1 on the first alone (R129, R130). -/
def DownFrame.levels (f : DownFrame) : List Bool := lineBits (frameChars f.bytes)

/-- The level of a board's downstream line (R129, R136): low in the low phase of a break and high at rest; through the
transmission of a frame, in its `bitTime`-th bit time counted from 0, that of its characters. How many bit times have
passed is no state of the model (assumption 4). -/
def State.downstreamLevel (s : State) (b : Board) (bitTime : Nat) : Bool :=
  match (s.link b).sending with
  | some f => f.levels.getD bitTime true
  | none => (s.link b).breakPhase != .low

/-- The frame that goes down the link for a waiting frame: tags are the low 16 bits of step numbers, and a POLL carries
that of D − 1 (R108, R121, R127, R145). -/
def TxItem.frame (nextDone : Option Nat) : TxItem → DownFrame
  | .arm step changed level => .arm (tagOf step) changed level
  | .flush keep => .flush (tagOf keep)
  | .sync next level => .sync (tagOf next) level
  | .poll => .poll (tagOf (nextDone.getD 0 - 1))
  | .probe => .probe

/-! ## The receive assembly -/

/-- What the receive assembly gives for a character (R131). -/
inductive RxEvent where
  | error (kind : RxError)
  | frame (bytes : List Byte)
  deriving DecidableEq, Repr

/-- A character with marker 1 taken as in HUNT (R131). -/
def openFrame (d : Byte) : RxAssembly × List RxEvent :=
  match upLength d with
  | some n => (.collecting [d] n, [])
  | none => (.discard, [.error .length])

/-- A character without error taken by the receive assembly, by its marker and the state (R131). -/
def assemble (rx : RxAssembly) (d : Byte) (marker : Bool) : RxAssembly × List RxEvent :=
  match rx, marker with
  | .hunt, true => openFrame d
  | .hunt, false => (.hunt, [.error .orphan])
  | .collecting _ _, true => ((openFrame d).1, .error .length :: (openFrame d).2)
  | .collecting bytes n, false =>
    if bytes.length + 1 = n then
      (.hunt, [if sumBytes (bytes ++ [d]) = 0 then .frame (bytes ++ [d]) else .error .check])
    else (.collecting (bytes ++ [d]) n, [])
  | .discard, true => openFrame d
  | .discard, false => (.discard, [])

/-- A character received (R131): a wrong stop bit or wrong parity drops any open frame and enters DISCARD. -/
def rxChar (rx : RxAssembly) (c : LineChar) : RxAssembly × List RxEvent :=
  if c.stop = false then (.discard, [.error .framing])
  else if c.badParity then (.discard, [.error .parity])
  else assemble rx c.data c.marker

end Sys2Proof.Machine
end

