-- ==== Sys2Proof/Machine/Exchanges.lean ====
section
/-! DEFINITION. The work of the requests that are answered later (R190): the ends of CLAIM_BOARDS (R66), TIME_RESET
(R29), RECOVER (R103) and REPROBE (R69), and the end of the start-up probing (R207). Each end is a standing condition
that `settleExchanges` evaluates after an event at a board. -/

namespace Sys2Proof.Machine

/-- A board mask as 3 bytes (R211). -/
def maskBytes (m : BoardMask) : List Byte := leBytes 3 m.toNat

/-- Weff and Heff as a response carries them, one byte each as the settings they come from (assumption 43). -/
def Partition.windowBytes (p : Partition) : List Byte := [BitVec.ofNat 8 p.weff, BitVec.ofNat 8 p.heff]

/-- A list over boards: each entry led by its board number (R212). -/
def boardList (f : Board → List Byte) : List Board → List Byte
  | [] => []
  | b :: bs => BitVec.ofNat 8 b.val :: f b ++ boardList f bs

/-- The boards of partition `k` in a link state. -/
def State.ownedIn (s : State) (k : Slot) (st : LinkState) : BoardMask :=
  maskWhere fun b => s.owns k b && (s.board b).link == st

/-- The ID and depth a board last reported, as a response carries them; their widths are those of a PROBE_REPLY (assumption 48). -/
def State.identityBytes (s : State) (b : Board) : List Byte :=
  leBytes 2 (s.board b).id.toNat ++ [BitVec.ofNat 8 (s.board b).depth]

/-! ## The ends -/

/-- The response body of a claim (R66). -/
def claimBody (k : Slot) (fresh already failed : BoardMask) (s : State) : List Byte :=
  maskBytes (fresh &&& s.ownedIn k .bound) ++ maskBytes already ++ maskBytes failed ++ (s.part k).windowBytes

/-- The end of a claim: every newly claimed board is BOUND or FAILED (R66). -/
def endClaim (k : Slot) (fresh already failed : BoardMask) (s : State) : State :=
  let s := s.updPart k fun p => { p with syncPending := false }
  respond k .ok false (claimBody k fresh already failed s) s

/-- The end of a TIME_RESET: every board has answered its SYNC or faulted; the body lists the boards that failed (R29).
It shows the partition FAULTED (R99) by naming any board, with no state byte of its own (assumption 37). -/
def endTimeReset (k : Slot) (failed : BoardMask) (s : State) : State :=
  respond k .ok false (boardList (fun _ => []) (maskBoards failed))
    (s.updPart k fun p => { p with syncPending := false })

/-- A board that failed in a RECOVER: its sticky error and its LINK record (R103). -/
def reportFailed (k : Slot) (b : Board) (s : State) : State :=
  match (s.board b).cause with
  | some cause =>
    offerLink k b (.fault cause) (s.updPart k fun p => { p with sticky := p.sticky.addCause cause })
  | none => s

/-- The response body of RECOVER (R103). -/
def recoverBody (k : Slot) (replied : BoardMask) (s : State) : List Byte :=
  let failed := s.ownedIn k .failed
  [(s.part k).state.code] ++ maskBytes (s.ownedIn k .bound) ++ maskBytes failed
    ++ boardList (fun b => [faultCode (s.board b).cause]) (maskBoards failed)
    ++ boardList s.identityBytes (maskBoards replied) ++ (s.part k).windowBytes

/-- The end of RECOVER: every owned board is BOUND or FAILED (R103). Entry to STOPPED puts the links at rest (R143). A
board that had become BOUND again and then faulted is one of the failing boards (assumption 46). -/
def endRecover (k : Slot) (replied : BoardMask) (s : State) : State :=
  let s := (recompute k s).updPart k fun p => { p with syncPending := false }
  let failed := s.ownedIn k .failed
  let s :=
    if failed = 0 then restLinks k (s.updPart k fun p => { p with state := .stopped })
    else muteBoards k (forBoards (reportFailed k) (maskBoards failed) s)
  respond k .ok false (recoverBody k replied s) s

/-- The end of REPROBE: every board of the set has left PROBING (R69). -/
def endReprobe (k : Slot) (found absent : BoardMask) (s : State) : State :=
  respond k .ok false (maskBytes found ++ boardList s.identityBytes (maskBoards found) ++ maskBytes absent) s

/-! ## Their conditions -/

/-- Whether every newly claimed board is BOUND or FAILED; a board dropped for a failed SYNC is one that FAILED (R66,
R67). -/
def claimEnded (fresh failed : BoardMask) (s : State) : Bool :=
  (maskBoards fresh).all fun b => maskHas failed b || (s.board b).link == .bound || (s.board b).link == .failed

/-- The work of port `k` ended when its condition holds. -/
def settlePort (k : Slot) (s : State) : State :=
  match (s.port k).work with
  | some (.claiming fresh already failed) =>
    if claimEnded fresh failed s then endClaim k fresh already failed s else s
  | some (.timeReset failed) =>
    if (s.ownedBoards k).all fun b => (s.board b).link != .syncing then endTimeReset k failed s else s
  | some (.recovering replied) =>
    if (s.ownedBoards k).all fun b => (s.board b).link == .bound || (s.board b).link == .failed then
      endRecover k replied s
    else s
  | some (.reprobing set found absent) => if set = found ||| absent then endReprobe k found absent s else s
  | some .handed | some (.opening ..) | some .storing | none => s

/-- The start-up probing ended when no board of the probe mask is PROBING (R202, R207). -/
def settleStartUp (s : State) : State :=
  if s.loader.phase = .probing ∧ (maskBoards s.loader.probeMask).all (fun b => (s.board b).link != .probing) = true then
    { s with loader := { s.loader with phase := .ready } }
  else s

/-- The work of every port, and the start-up, ended when their conditions hold. -/
def settleExchanges (s : State) : State :=
  settleStartUp (settlePort 3 (settlePort 2 (settlePort 1 (settlePort 0 s))))

/-- What follows an event at a board or in a run: exchanges that have ended are answered, and an idle engine selects
(R33, R190). -/
def settle (s : State) : State := engineSelect (settleExchanges s)

/-! ## What an exchange notes -/

/-- A probe of an unowned board ended: the REPROBE that named the board notes it as found or absent (R69). The first end
is kept when another port's request puts the board in PROBING again meanwhile (assumption 49). -/
def Work.noteProbe (b : Board) (answered : Bool) : Work → Work
  | .reprobing set found absent =>
    if maskHas set b && !maskHas found b && !maskHas absent b then
      if answered then .reprobing set (maskAdd found b) absent else .reprobing set found (maskAdd absent b)
    else .reprobing set found absent
  | w => w

/-- A probe of an unowned board ended, for every port. -/
def noteProbe (b : Board) (answered : Bool) (s : State) : State :=
  { s with ports := Vector.ofFn fun k =>
      { s.port k with work := (s.port k).work.map (Work.noteProbe b answered) } }

/-- A board noted as one that replied in the RECOVER of port `k` (R103). -/
def noteReplied (k : Slot) (b : Board) (s : State) : State :=
  s.updPort k fun p =>
    { p with work := match p.work with
        | some (.recovering replied) => some (.recovering (maskAdd replied b))
        | w => w }

end Sys2Proof.Machine
end

