-- ==== Sys2Proof/Machine/Links.lean ====
section
/-! DEFINITION. The board link controllers: what is done with a well-formed frame (R133, R137 to R142), with a receive
error (R132) and with a STATUS (R145, R146), and sending frames, breaks and timers (R135, R136, R142 to R144). -/

namespace Sys2Proof.Machine

/-! ## Effects shared by the frames -/

/-- An out-of-sequence frame: a sequence error, unless the loss marker is set (R140). -/
def outOfSequence (b : Board) (s : State) : State := if (s.link b).loss then s else boardFault b .sequence s

/-- Whether a tag expands into the board's discarded range (R121). -/
def Link.inDiscarded (l : Link) (tag : Tag) : Bool :=
  match l.discarded with
  | some (lo, hi) => (expandTag tag lo hi).isSome
  | none => false

/-- A frame taken that shows progress: the expiry marker cleared, the timer restarted, and stopped when nothing is
outstanding (R138, R139, R143). -/
def Link.progress (ns : Nat) (l : Link) : Link := Link.stopIfIdle (Link.restartTimer ns { l with expiry := false })

/-- A frame ignored in the discarded range restarts the timer (R121, R143). -/
def ignoreFrame (b : Board) (s : State) : State :=
  s.updLink b fun l => (l.restartTimer (s.responseNs b)).stopIfIdle

/-- The acknowledgement of step `a` counted on the link (R138). -/
def Link.ackStep (a : Nat) (l : Link) : Link :=
  { l with nextAck := some (a + 1), armsOut := l.armsOut - 1, retries := 0, sentThrough := max a l.sentThrough }

/-- The acknowledgement of step `a` marked in the owner's pipe (R109, R138). -/
def ackInPipe (b : Board) (a : Nat) (s : State) : State :=
  match (s.board b).owner with
  | some k => markAcked k b a s
  | none => s

/-- The completion of step `d` counted on the link (R139). -/
def Link.doneStep (d : Nat) (l : Link) : Link := { l with nextDone := some (d + 1), donesOut := l.donesOut - 1 }

/-- The completion of step `d` marked in the owner's pipe, its trigger report handed to the filter before the entry can
be retired, and retirement checked (R117 to R119). -/
def doneInPipe (b : Board) (d : Nat) (report : Option (TriggerId × Option (BitVec 32))) (s : State) : State :=
  match (s.board b).owner with
  | none => s
  | some k =>
    let s := markDone k b d s
    let time := (((s.part k).pipe.find? fun e => e.number == d).map PipeEntry.time).getD 0
    retire k (match report with
      | some (id, stamp) => takeReport k ⟨d, time, b, id, stamp⟩ s
      | none => s)

/-- The fire and stop completion conditions evaluated for the owner of a board (R113, R124). -/
def advanceOwner (b : Board) (s : State) : State :=
  match (s.board b).owner with
  | some k => advance k s
  | none => s

/-- The settings of a board's owner; of the loaded defaults for an unowned board. -/
def State.settingsFor (s : State) (b : Board) : Settings :=
  match (s.board b).owner with
  | some k => (s.part k).settings
  | none => s.loader.defaults

/-! ## Frames received in BOUND -/

/-- An ARM_ACK judged (R138). -/
def judgeArmAck (b : Board) (tag : Tag) (s : State) : State :=
  let l := s.link b
  match l.nextAck with
  | some a =>
    if 0 < l.armsOut ∧ tag = tagOf a then
      ackInPipe b a (s.updLink b fun l => (l.ackStep a).progress (s.responseNs b))
    else if l.inDiscarded tag then ignoreFrame b s
    else outOfSequence b s
  | none => if l.inDiscarded tag then ignoreFrame b s else outOfSequence b s

/-- An ARM_NAK taken on the link: the sent ARMs count as unsent, and the retry counter increases (R141). -/
def Link.refused (a : Nat) (l : Link) : Link :=
  { l with armsOut := 0, sentThrough := a - 1, retries := l.retries + 1 }

/-- The backoff that follows a refusal (R141, R142). -/
def Link.beginBackoff (limit : Nat) (l : Link) : Link :=
  { l with backoff := .running (backoffNs l.retries limit), timer := .suspended, expiry := false }

/-- An ARM_NAK judged (R141). -/
def judgeArmNak (b : Board) (tag : Tag) (s : State) : State :=
  let l := s.link b
  if l.inDiscarded tag then ignoreFrame b s
  else
    match l.nextAck with
    | some a =>
      if 0 < l.armsOut ∧ tag = tagOf a then
        let s := s.updLink b (Link.refused a)
        if (s.settingsFor b).retryLimit < (s.link b).retries then boardFault b .retries s
        else s.updLink b (Link.beginBackoff (s.settingsFor b).backoffLimit)
      else outOfSequence b s
    | none => outOfSequence b s

/-- A DONE judged (R139). -/
def judgeDone (b : Board) (tag : Tag) (trigger : Option TriggerId) (stamp : Option (BitVec 32)) (s : State) : State :=
  let l := s.link b
  match l.nextDone with
  | some d =>
    if 0 < l.donesOut ∧ tag = tagOf d then
      advanceOwner b (doneInPipe b d (trigger.map fun id => (id, stamp))
        (s.updLink b fun l => (l.doneStep d).progress (s.responseNs b)))
    else if l.inDiscarded tag then ignoreFrame b s
    else outOfSequence b s
  | none => if l.inDiscarded tag then ignoreFrame b s else outOfSequence b s

/-- Whether a FLUSH_ACK's tag is the keep-through tag of the FLUSH pending (R122, R139). -/
def Link.flushAnswered (l : Link) (tag : Tag) : Bool :=
  l.flushPending && match l.discarded with
    | some (lo, _) => tag == tagOf (lo - 1)
    | none => false

/-- A FLUSH_ACK judged (R122, R139). -/
def judgeFlushAck (b : Board) (tag : Tag) (s : State) : State :=
  if (s.link b).flushAnswered tag then
    advanceOwner b (s.updLink b fun l => Link.progress (s.responseNs b) { l with flushPending := false })
  else outOfSequence b s

/-! ## Resending -/

/-- A resent ARM placed at the head of a transmit order, in step order, behind a POLL already at the head (R135, R142,
R146). -/
def insertArm (step : Nat) (changed level : ClockMask) : List TxItem → List TxItem
  | [] => [.arm step changed level]
  | .poll :: rest => .poll :: insertArm step changed level rest
  | .arm n c v :: rest =>
    if n < step then .arm n c v :: insertArm step changed level rest
    else .arm step changed level :: .arm n c v :: rest
  | .flush n :: rest => .arm step changed level :: .flush n :: rest
  | .sync n v :: rest => .arm step changed level :: .sync n v :: rest
  | .probe :: rest => .arm step changed level :: .probe :: rest

/-- Whether a waiting frame is the ARM of step `n`. -/
def TxItem.isArm (n : Nat) : TxItem → Bool
  | .arm step _ _ => step == n
  | .flush _ | .sync _ _ | .poll | .probe => false

/-- The ARMs of the entries of a pipe from step `a` up to step `last` put back in a transmit order; a step whose ARM is in
the transmit order, wherever it stands there, is left out (R142, R146). -/
def resendArms (a last : Nat) : List PipeEntry → List TxItem → List TxItem
  | [], order => order
  | e :: es, order =>
    resendArms a last es
      (if a ≤ e.number ∧ e.number ≤ last ∧ order.any (TxItem.isArm e.number) = false then
        insertArm e.number e.changed e.level order
      else order)

/-- The pipe of a board's owner. -/
def State.pipeFor (s : State) (b : Board) : List PipeEntry :=
  match (s.board b).owner with
  | some k => (s.part k).pipe
  | none => []

/-! ## STATUS -/

/-- Steps acknowledged by a STATUS, oldest first: `n` steps from A on (R146). -/
def statusAcks (b : Board) : Nat → State → State
  | 0, s => s
  | n + 1, s =>
    match (s.link b).nextAck with
    | some a => statusAcks b n (ackInPipe b a (s.updLink b (Link.ackStep a)))
    | none => s

/-- Steps completed by a STATUS, oldest first: `n` steps from D on; the trigger is handed over with the step its tag
names (R146). -/
def statusDones (b : Board) (trigger : Option (Tag × TriggerId)) : Nat → State → State
  | 0, s => s
  | n + 1, s =>
    match (s.link b).nextDone with
    | some d =>
      let report := trigger.bind fun (tag, id) => if tag = tagOf d then some (id, none) else none
      statusDones b trigger n (doneInPipe b d report (s.updLink b (Link.doneStep d)))
    | none => s

/-- The FLUSH pending settled by the armed-through step (R122). A FLUSH that still waits to be sent stays in the transmit
order when the flag is cleared (assumption 38). -/
def Link.settleFlush (armed : Nat) (l : Link) : Link :=
  match l.flushPending, l.discarded with
  | true, some (lo, _) =>
    if armed < lo then { l with flushPending := false }
    else if l.pollAfterFlush then
      { l with order := l.order ++ [.flush (lo - 1)], flushSent := false, pollAfterFlush := false }
    else l
  | true, none => l
  | false, _ => l

/-- How many ARMs remain outstanding at or below the poll mark: of the steps A to A plus ARMs outstanding minus 1
(R146). -/
def Link.unanswered (l : Link) : Nat :=
  match l.nextAck, l.pollMark with
  | some a, some mark => min l.armsOut (mark + 1 - a)
  | _, _ => 0

/-- Step 5 of reconciliation on the link: the ARMs unanswered become unsent, and the retry counter increases (R146). -/
def Link.unsend (n : Nat) (l : Link) : Link :=
  { l with armsOut := l.armsOut - n, retries := l.retries + 1,
           sentThrough := if l.armsOut = n then l.nextAck.getD 0 - 1 else l.sentThrough }

/-- Steps 5 and 6 of reconciliation (R146): resends, or a fault beyond the retry limit; then the POLL_RECOVERED record,
the timer and the conditions of the owner. `progress`: a step before took or settled something. -/
def finishStatus (b : Board) (progress : Bool) (s : State) : State :=
  let n := (s.link b).unanswered
  let a := (s.link b).nextAck.getD 0
  let s := if n = 0 then s else s.updLink b fun l =>
    { l.unsend n with order := resendArms a (a + n - 1) (s.pipeFor b) l.order }
  if n ≠ 0 ∧ (s.settingsFor b).retryLimit < (s.link b).retries then boardFault b .retries s
  else
    let s := match (s.board b).owner with
      | some k => offerLink k b .pollRecovered s
      | none => s
    advanceOwner b (s.updLink b fun l => if progress then l.progress (s.responseNs b) else l.stopIfIdle)

/-- A STATUS whose tags are expanded reconciled (R146): `acks` steps acknowledged and `dones` steps completed. A POLL
that still waits to be sent stays in the transmit order (assumption 38). -/
def reconcile (b : Board) (armed acks dones : Nat) (trigger : Option (Tag × TriggerId)) (s : State) : State :=
  let s := s.updLink b fun l => { l with pollOut := false, loss := false }
  let s := statusDones b trigger dones (statusAcks b acks s)
  let before := (s.link b).flushPending
  let s := s.updLink b (Link.settleFlush armed)
  finishStatus b (decide (0 < acks) || decide (0 < dones) || (before && !(s.link b).flushPending)) s

/-- The greatest step an armed-through tag may name (R145). -/
def Link.armedTop (a : Nat) (l : Link) : Nat :=
  match l.discarded with
  | some (_, hi) => max (a - 1 + l.armsOut) hi
  | none => a - 1 + l.armsOut

/-- A STATUS judged (R139, R145). -/
def judgeStatus (b : Board) (armedTag doneTag : Tag) (trigger : Option (Tag × TriggerId)) (s : State) : State :=
  let l := s.link b
  if l.pollOut then
    match l.nextAck, l.nextDone with
    | some a, some d =>
      match expandTag armedTag (a - 1) (l.armedTop a), expandTag doneTag (d - 1) (d - 1 + l.donesOut) with
      | some armed, some done' =>
        reconcile b armed (min armed (a - 1 + l.armsOut) + 1 - a) (done' + 1 - d) trigger s
      | _, _ => boardFault b .sequence s
    | _, _ => boardFault b .sequence s
  else s

/-! ## SYNC_ACK and PROBE_REPLY -/

/-- A SYNC_ACK in SYNCING: with the next tag the board becomes BOUND; another tag is a sequence error (R127). -/
def judgeSyncAck (b : Board) (tag : Tag) (s : State) : State :=
  if (s.link b).nextAck.map tagOf = some tag then
    (s.updBoard b fun r => { r with link := .bound }).updLink b fun l => { l with timer := .stopped }
  else boardFault b .sequence s

/-- A PROBE_REPLY in PROBING (R137): the ID and depth written, the timer stopped; an unowned board becomes IDLE, an owned
one SYNCING with a SYNC to the owner's fired state (R102). -/
def takeProbeReply (b : Board) (id : BitVec 16) (depth : Byte) (s : State) : State :=
  let s := (s.updBoard b fun r => { r with id := id, depth := clampTo 1 8 depth.toNat }).updLink b fun l =>
    { l with timer := .stopped }
  match (s.board b).owner with
  | none => noteProbe b true (s.updBoard b fun r => { r with link := .idle })
  | some k => noteReplied k b (syncBoard b ((s.part k).firedFrontier + 1) (levelMask (s.part k).fired) s)

/-! ## Receiving -/

/-- What is done with a well-formed frame in BOUND (R138 to R146). -/
def judgeBound (b : Board) (f : UpFrame) (s : State) : State :=
  match f with
  | .armAck tag => judgeArmAck b tag s
  | .armNak tag _ => judgeArmNak b tag s
  | .done tag trigger stamp => judgeDone b tag trigger stamp s
  | .flushAck tag => judgeFlushAck b tag s
  | .syncAck _ => outOfSequence b s
  | .status armed finished trigger => judgeStatus b armed finished trigger s
  | .probeReply _ _ => s

/-- What is done with a well-formed frame, by the link state and whether the link is muted (R133). A FAILED board that is
owned and not muted, for which R133 has no row, is treated as an unowned one (assumption 47). -/
def judgeFrame (b : Board) (f : UpFrame) (s : State) : State :=
  if (s.link b).muted then s
  else
    match (s.board b).link, f with
    | .probing, .probeReply id depth => takeProbeReply b id depth s
    | .probing, _ => s
    | .syncing, .syncAck tag => judgeSyncAck b tag s
    | .syncing, _ => s
    | .bound, f => judgeBound b f s
    | .absent, _ | .idle, _ | .failed, _ => s

/-- A receive error counter increased, saturating at 255 (R132). -/
def RxCounters.bump (c : RxCounters) : RxError → RxCounters
  | .parity => { c with parity := min (c.parity + 1) 255 }
  | .framing => { c with framing := min (c.framing + 1) 255 }
  | .orphan => { c with orphan := min (c.orphan + 1) 255 }
  | .length => { c with length := min (c.length + 1) 255 }
  | .check => { c with check := min (c.check + 1) 255 }

/-- A receive error (R132): unless the link is muted it is counted; for an owned board a FRAME_ERROR record is offered,
and in BOUND the loss marker is set. A FAILED board that is owned and not muted has its errors counted too (assumption
47). -/
def receiveError (b : Board) (e : RxError) (s : State) : State :=
  if (s.link b).muted then s
  else
    let s := s.updBoard b fun r => { r with counters := r.counters.bump e }
    match (s.board b).owner with
    | none => s
    | some k =>
      let s := offerLink k b (.frameError e) s
      if (s.board b).link = .bound then s.updLink b fun l => { l with loss := true } else s

/-- What the receive assembly gives handed on: an error to R132, a well-formed frame to R133. -/
def handleRx (b : Board) : List RxEvent → State → State
  | [], s => s
  | .error e :: rest, s => handleRx b rest (receiveError b e s)
  | .frame bytes :: rest, s =>
    handleRx b rest (match decodeUp bytes with
      | some f => judgeFrame b f s
      | none => s)

/-- Characters received on a board's upstream line, one after another (R131). -/
def receiveChars (b : Board) : List LineChar → State → State
  | [], s => s
  | c :: cs, s =>
    let r := rxChar (s.link b).rx c
    receiveChars b cs (handleRx b r.2 (s.updLink b fun l => { l with rx := r.1 }))

/-- The levels of a board's upstream line in successive bit times received (R129, R131). -/
def receiveSamples (b : Board) (samples : List Bool) (s : State) : State :=
  let r := scanLine (s.link b).upHigh none samples
  receiveChars b r.1 (s.updLink b fun l => { l with upHigh := r.2 })

/-- A well-formed frame received: its first character drops a frame that was open, as a LENGTH error (R131), and the
frame is handed on (R133). -/
def receiveFrame (b : Board) (f : UpFrame) (s : State) : State :=
  let s := match (s.link b).rx with
    | .collecting _ _ => receiveError b .length s
    | .hunt | .discard => s
  judgeFrame b f (s.updLink b fun l => { l with rx := .hunt, upHigh := true })

/-! ## Sending -/

/-- Whether the link controller may begin a frame: the line is free, no break or backoff runs, and the link is not muted
(R135, R136, R142, R149). -/
def Link.canSend (l : Link) : Bool :=
  l.sending.isNone && l.breakPhase == .none && l.backoff == .idle && !l.muted

/-- The effects of a frame counted as sent (R135, R138, R143, R144); `syncing`: the board is SYNCING. A FLUSH or a POLL
that a STATUS has settled while it waited starts no timer when nothing is outstanding (assumption 38), and neither does a
SYNC whose SYNC_ACK has been taken already (assumption 15). -/
def Link.sent (syncing : Bool) (ns : Nat) (i : TxItem) (l : Link) : Link :=
  match i with
  | .arm n _ _ => Link.startTimer ns { l with armsOut := l.armsOut + 1, sentThrough := max n l.sentThrough }
  | .flush _ => Link.stopIfIdle (Link.startTimer ns { l with flushSent := true })
  | .sync _ _ => if syncing then l.startTimer ns else l
  | .probe => l.startTimer ns
  | .poll =>
    Link.stopIfIdle (Link.restartTimer ns
      { l with pollMark := some l.sentThrough, pollAfterFlush := l.flushPending && l.flushSent })

/-- The next frame of the transmit order begun (R135). -/
def Link.sendNext (syncing : Bool) (ns : Nat) (l : Link) : Link :=
  match l.order with
  | [] => l
  | i :: rest =>
    if l.canSend then Link.sent syncing ns i { l with order := rest, sending := some (i.frame l.nextDone) } else l

/-- The end of a frame in transmission; a break that waits for it drives the line low (R136). -/
def Link.endFrame (l : Link) : Link :=
  if l.sending.isSome then
    { l with sending := none, breakPhase := if l.breakPhase = .waitingForFrame then .low else l.breakPhase }
  else l

/-- The end of the low phase of a break (R136). -/
def Link.endBreak (l : Link) : Link := if l.breakPhase = .low then { l with breakPhase := .recovery } else l

/-- The end of the recovery after a break: the PROBE is sent, and the response timer started for a board that is still
PROBING (R136, R143; assumption 20). A muted link sends nothing (R149). -/
def Link.endRecovery (probing : Bool) (ns : Nat) (l : Link) : Link :=
  if l.breakPhase = .recovery then
    if l.muted then { l with breakPhase := .none }
    else { l with breakPhase := .none, sending := some .probe, timer := if probing then .running ns else l.timer }
  else l

/-- The end of a backoff (R142): the ARMs from A up to the youngest entry are put back, and the timer is started afresh
when anything is outstanding. -/
def Link.endBackoff (ns : Nat) (pipe : List PipeEntry) (l : Link) : Link :=
  match l.backoff with
  | .idle => l
  | .running _ =>
    let unfired := pipe.filter fun e => e.stage != .fired
    let order := match l.nextAck, unfired.getLast? with
      | some a, some youngest => resendArms a youngest.number unfired l.order
      | _, _ => l.order
    { l with backoff := .idle, order := order, timer := if l.waiting then .running ns else .stopped }

/-- The expiry of the response timer in BOUND with the expiry marker clear (R144): a POLL is placed at the head of the
transmit order, unless one is outstanding, in which case the timer is restarted. -/
def Link.firstExpiry (ns : Nat) (l : Link) : Link :=
  if l.pollOut then { l with expiry := true, timer := .running ns }
  else { l with expiry := true, pollOut := true, order := .poll :: l.order, timer := .stopped }

/-- The expiry of a board's response timer, by the link state (R137, R144). -/
def expire (b : Board) (s : State) : State :=
  match (s.board b).link with
  | .probing =>
    if (s.board b).owner.isNone then
      noteProbe b false ((s.updBoard b fun r => { r with link := .absent }).updLink b fun l =>
        { l with timer := .stopped })
    else boardFault b .timeout s
  | .syncing => boardFault b .timeout s
  | .bound =>
    if (s.link b).expiry then boardFault b .timeout s else s.updLink b (Link.firstExpiry (s.responseNs b))
  | .absent | .idle | .failed => s.updLink b fun l => { l with timer := .stopped }

end Sys2Proof.Machine
end

