-- ==== Sys2Proof/Machine/Store.lean ====
section
/-! DEFINITION. The configuration memory (chapter 10): its 2048 bytes as a list of (address, byte) cells in one canonical
form, reading and writing them, and what an unfinished write leaves (R201, R210). -/

namespace Sys2Proof.Machine

/-- What an unlisted address of the configuration memory reads as: FFh, an erased byte. The manual gives the memory no
contents (DESIGN CHOICE, unsafe, assumption 1). -/
def storeFill : Byte := 0xFF#8

/-- The byte at an address. -/
def readCell : List Host.Cell → Nat → Byte
  | [], _ => storeFill
  | (b, w) :: rest, a => if a = b then w else readCell rest a

/-- The byte at an address replaced, keeping the canonical form. -/
def writeCell (a : Nat) (v : Byte) : List Host.Cell → List Host.Cell
  | [] => if v = storeFill then [] else [(a, v)]
  | (b, w) :: rest =>
    if a < b then if v = storeFill then (b, w) :: rest else (a, v) :: (b, w) :: rest
    else if a = b then if v = storeFill then rest else (a, v) :: rest
    else (b, w) :: writeCell a v rest

/-- The `n` bytes from an address on. -/
def readCells (m : List Host.Cell) (a : Nat) : Nat → List Byte
  | 0 => []
  | n + 1 => readCell m a :: readCells m (a + 1) n

/-- Bytes written from an address on. -/
def writeCells (a : Nat) : List Byte → List Host.Cell → List Host.Cell
  | [], m => m
  | v :: vs, m => writeCells (a + 1) vs (writeCell a v m)

/-- The canonical form from address `lo` on: addresses rise strictly, none is at or beyond 2048, and no cell holds what
an unlisted address reads as. -/
def storeFrom (lo : Nat) : List Host.Cell → Bool
  | [] => true
  | (b, w) :: rest => decide (lo ≤ b) && decide (b < Config.storeBytes) && w != storeFill && storeFrom (b + 1) rest

/-- The configuration memory is in its canonical form. -/
def Memory.wf (m : List Host.Cell) : Bool := storeFrom 0 m

/-- A byte of which some bits have been changed and others not, as `free` says (assumption 6). -/
def mixByte (free old new : Byte) : Byte := (old &&& ~~~free) ||| (new &&& free)

/-- What the bytes of an unfinished write hold: free value number `n` and the ones after it say how much of each byte has
been changed. -/
def mixBytes (n : Nat) : List Byte → List Byte → List Byte
  | old :: olds, new :: news => mixByte (Config.freeByte n) old new :: mixBytes (n + 1) olds news
  | [], _ => []
  | _ :: _, [] => []

/-- The bytes of a write that does not end, left in the memory (R201, R210). -/
def leaveUnfinished (address : Nat) (data : List Byte) (s : State) : State :=
  { s with store := writeCells address (mixBytes s.freeCount (readCells s.store address data.length) data) s.store,
           freeCount := s.freeCount + data.length }

/-- Any write in progress abandoned by a reset (R201). -/
def abandonWrite (s : State) : State :=
  match s.loader.op with
  | some (.write _ address data) => leaveUnfinished address data s
  | some (.read ..) | none => s

/-- The store operation item made idle, with its request answered (R209, R210). -/
def endStoreOp (port : Slot) (status : Status) (body : List Byte) (s : State) : State :=
  respond port status false body { s with loader := { s.loader with op := none } }

/-- A store operation begun for port `k`, whose request is then worked until it ends (R190, R208). -/
def beginStoreOp (k : Slot) (op : StoreOp) (s : State) : State :=
  ({ s with loader := { s.loader with op := some op } } : State).updPort k fun p => { p with work := some .storing }

/-- A store request that passes the check of its fields, or not, and finds the item idle, or not (R208). -/
def storeRequest (k : Slot) (valid : Bool) (op : StoreOp) (s : State) : State :=
  if valid then if s.loader.op.isNone then beginStoreOp k op s else refuse k .storeBusy s
  else refuse k .badValue s

/-- Check 1 of R208 for STORE_READ. -/
def storeReadValid (address length : Nat) : Bool :=
  decide (1 ≤ length) && decide (length ≤ 16) && decide (address + length ≤ Config.storeBytes)

/-- Check 1 of R208 for STORE_WRITE, with the address in the memory (R208: 0 to 2047). -/
def storeWriteValid (address length : Nat) : Bool :=
  decide (1 ≤ length) && decide (length ≤ 16) && decide (address / 16 = (address + length - 1) / 16)
    && decide (address < Config.storeBytes)

end Sys2Proof.Machine
end

