-- ==== Sys2Proof/Machine/Loader.lean ====
section
/-! DEFINITION. The start-up load (R202 to R207): judging the header, sizing and reading preset entries, and the end of
LOADING with the probes it begins. -/

namespace Sys2Proof.Machine

/-- Where the preset table begins (R205). -/
def presetBase : Nat := 0x32

/-- The bytes of the header that the loader reads: offsets 0 to 0Eh (R214). -/
def headerBytes : Nat := 15

/-! ## Preset entries -/

/-- The size of a preset entry by its presence byte; none when it cannot be sized (R205, R214). -/
def entrySize (presence : Byte) : Option Nat :=
  let kind := presence &&& 3#8
  let bad := presence.getLsbD 6 || presence.getLsbD 7
  if kind = 1#8 ∧ bad = false then
    some (6 + (if presence.getLsbD 4 then 3 else 0) + (if presence.getLsbD 5 then 3 else 0))
  else if kind = 2#8 ∧ bad = false ∧ presence.getLsbD 5 = false then
    some (6 + (if presence.getLsbD 4 then 2 else 0))
  else none

/-- The value a high time or high count has when its field is absent: half, rounded down, and at least 1 (R205). -/
def halfOf (total : Nat) : Nat := max 1 (total / 2)

/-- The parameters of an entry, absent fields filled in (R205, R214). -/
def entryBody (bytes : List Byte) : PresetBody :=
  let presence := byteAt bytes 0
  if presence &&& 3#8 = 1#8 then
    let period := fieldAt bytes 3 3
    .periodic period
      (if presence.getLsbD 4 then fieldAt bytes 6 3 else halfOf period)
      (if presence.getLsbD 5 then fieldAt bytes (if presence.getLsbD 4 then 9 else 6) 3 else 0)
  else
    let divisor := fieldAt bytes 4 2
    .divided (byteAt bytes 3).toNat divisor (if presence.getLsbD 4 then fieldAt bytes 6 2 else halfOf divisor)

/-- Whether the parameters are in the ranges that do not depend on other entries (R206). -/
def PresetBody.inRange : PresetBody → Bool
  | .periodic period _ _ => decide (2 ≤ period)
  | .divided parent divisor _ => decide (parent ≤ 15) && decide (2 ≤ divisor) && decide (divisor ≤ 256)

/-- The preset an entry that can be sized and read whole gives; none when it is skipped (R206). -/
def entryPreset (bytes : List Byte) : Option Preset :=
  let slot := (byteAt bytes 1).toNat
  let localNo := (byteAt bytes 2).toNat
  if h : slot < 4 ∧ localNo < 16 then
    if (entryBody bytes).inRange then
      some ⟨⟨slot, h.1⟩, ⟨localNo, h.2⟩, entryBody bytes, (byteAt bytes 0).getLsbD 2⟩
    else none
  else none

/-- What the loader finds where a presence byte would begin (R205). -/
inductive EntryRead where
  | tableEnd
  | unreadable
  | more
  | entry (size : Nat)
  deriving DecidableEq, Repr

/-- The entry at address `base`, of which `bytes` have been read (R205). -/
def readEntry (base : Nat) (bytes : List Byte) : EntryRead :=
  match bytes with
  | [] => if Config.storeBytes ≤ base then .tableEnd else .more
  | presence :: _ =>
    if presence = 0 then .tableEnd
    else
      match entrySize presence with
      | none => .unreadable
      | some size =>
        if Config.storeBytes < base + size then .unreadable
        else if bytes.length < size then .more
        else .entry size

/-- The skipped count increased by 1; it stays at 255 (R206). -/
def bumpSkipped (n : Nat) : Nat := min (n + 1) 255

/-- The preset table as far as it has been read: the entries kept, the skipped count, where the next entry begins, the
bytes read of it, and whether the table has ended. -/
structure TableRead where
  kept    : List Preset
  skipped : Nat
  base    : Nat
  bytes   : List Byte
  ended   : Bool
  deriving DecidableEq, Repr

/-- Entry after entry read as far as the bytes go (R205, R206). Every entry takes bytes, so a fuel above the number of
bytes never ends the reading. -/
def readTable : Nat → TableRead → TableRead
  | 0, t => t
  | fuel + 1, t =>
    match readEntry t.base t.bytes with
    | .tableEnd => { t with ended := true }
    | .unreadable => { t with skipped := bumpSkipped t.skipped, ended := true }
    | .more => t
    | .entry size =>
      let rest : TableRead := { t with base := t.base + size, bytes := t.bytes.drop size }
      readTable fuel (match entryPreset (t.bytes.take size) with
        | some p => { rest with kept := rest.kept ++ [p] }
        | none => { rest with skipped := bumpSkipped rest.skipped })

/-! ## The end of LOADING -/

/-- LOADING ended: status, skipped count, defaults, probe mask and table are fixed, every board of the mask is broken and
probed, and with an empty mask the phase becomes READY at once (R202, R204, R207). -/
def endLoading (status : StoreStatus) (skipped : Nat) (defaults : Settings) (mask : BoardMask) (presets : List Preset)
    (s : State) : State :=
  settleStartUp (forBoards breakBoard (maskBoards mask)
    { s with loader := { s.loader with phase := .probing, load := .header [], status := some status,
                                       skipped := skipped, defaults := defaults, probeMask := mask,
                                       presets := presets } })

/-- LOADING ended by a failed read or a bad header: the built-in values take effect whole (R203). -/
def endDefaulted (s : State) : State := endLoading .defaulted 0 Settings.builtIn 0xFFFFFF#24 [] s

/-! ## Reading -/

/-- Whether a header carries the signature and format version 1 (R203, R214). -/
def headerValid (h : List Byte) : Bool := h.take 5 == [0x46#8, 0x54#8, 0x47#8, 0x43#8, 0x01#8]

/-- The defaults of a valid header, kept as SET_PARTITION would keep them (R204, R214). -/
def headerSettings (h : List Byte) : Settings :=
  keptSettings (byteAt h 8) (byteAt h 9) (byteAt h 10) (byteAt h 11) (byteAt h 12) (byteAt h 13) (byteAt h 14)

/-- The probe mask of a valid header (R204, R214). -/
def headerMask (h : List Byte) : BoardMask := BitVec.ofNat 24 (fieldAt h 5 3)

/-- The address of the next start-up read operation (R203, R205). -/
def LoadWork.next : LoadWork → Nat
  | .header bytes => bytes.length
  | .table _ _ _ _ base bytes => base + bytes.length

/-- How many bytes the loader still reads before it judges the header, or before the end of memory (R203, R214). -/
def LoadWork.room : LoadWork → Nat
  | .header bytes => headerBytes - bytes.length
  | .table _ _ _ _ base bytes => Config.storeBytes - (base + bytes.length)

/-- The bytes a start-up read operation brought taken in, and what they complete judged (R203 to R206). -/
def loadBytes (new : List Byte) (s : State) : State :=
  match s.loader.load with
  | .header bytes =>
    let h := bytes ++ new
    if h.length < headerBytes then { s with loader := { s.loader with load := .header h } }
    else if headerValid h then
      { s with loader := { s.loader with load := .table (headerSettings h) (headerMask h) [] 0 presetBase [] } }
    else endDefaulted s
  | .table settings mask kept skipped base bytes =>
    let t := readTable ((bytes ++ new).length + 1) ⟨kept, skipped, base, bytes ++ new, false⟩
    if t.ended then endLoading .loaded t.skipped settings mask t.kept s
    else { s with loader := { s.loader with load := .table settings mask t.kept t.skipped t.base t.bytes } }

/-- A start-up read operation of `n` bytes completed (R203). -/
def loadRead (n : Nat) (s : State) : State :=
  if s.loader.phase = .loading ∧ 1 ≤ n ∧ n ≤ 16 then
    loadBytes (readCells s.store s.loader.load.next (min n s.loader.load.room)) s
  else s

/-- The operation in progress on the memory failed (R203, R209, R210). -/
def failAccess (s : State) : State :=
  if s.loader.phase = .loading then endDefaulted s
  else
    match s.loader.op with
    | some (.read port _ _) => endStoreOp port .storeAbsent [] s
    | some (.write port address data) => endStoreOp port .storeAbsent [] (leaveUnfinished address data s)
    | none => s

end Sys2Proof.Machine
end

