-- ==== Sys2Proof/Machine/Ports.lean ====
section
/-! DEFINITION. The controller ports (chapter 9): transactions, judging a request frame (R186, R187), and what each
transaction shifts out. -/

namespace Sys2Proof.Machine

/-! ## Bits and bytes on a port -/

/-- A byte of its eight bits, most significant first (R183). -/
def byteOfBits (b7 b6 b5 b4 b3 b2 b1 b0 : Bool) : Byte :=
  BitVec.ofNat 8 (128 * b7.toNat + 64 * b6.toNat + 32 * b5.toNat + 16 * b4.toNat + 8 * b3.toNat + 4 * b2.toNat
    + 2 * b1.toNat + b0.toNat)

/-- The bits of a byte, most significant first (R183). -/
def bitsOfByte (b : Byte) : List Bool :=
  [b.getLsbD 7, b.getLsbD 6, b.getLsbD 5, b.getLsbD 4, b.getLsbD 3, b.getLsbD 2, b.getLsbD 1, b.getLsbD 0]

/-- The bytes received from the levels of data in at successive rising clock edges: eight to a byte, most significant
first; a byte left incomplete at the end is discarded and not counted (R183). -/
def receivedBytes : List Bool → List Byte
  | b7 :: b6 :: b5 :: b4 :: b3 :: b2 :: b1 :: b0 :: rest => byteOfBits b7 b6 b5 b4 b3 b2 b1 b0 :: receivedBytes rest
  | _ => []

/-- The levels of data out in the eight clock periods of the transaction byte and `n` clock periods after it: 0 during the
transaction byte, then the bits of `out`, then 0 (R183). -/
def shiftOut (out : List Byte) (n : Nat) : List Bool :=
  List.replicate 8 false ++ ((out.flatMap bitsOfByte).take n ++ List.replicate (n - 8 * out.length) false)

/-- Data out is driven only while select is low (R183). That it is not driven while the sequencer is held in reset, of which
R183 and R201 say nothing, is the model's choice (DESIGN CHOICE, assumption 51). -/
def State.drivesDataOut (s : State) (k : Slot) : Bool := !s.resetHeld && (s.port k).transaction != .none

/-! ## Transactions -/

/-- The three transactions (R183). -/
inductive TransactionKind where
  | writeRequest | readResponse | readPortStatus
  deriving DecidableEq, Repr

/-- The transaction bytes (R212). -/
def TransactionKind.byte : TransactionKind → Byte
  | .writeRequest => 0x5A#8
  | .readResponse => 0xA5#8
  | .readPortStatus => 0x3C#8

/-- The transaction that a transaction byte selects; none for an unknown one (R183, R212). -/
def transactionOf (b : Byte) : Option TransactionKind :=
  if b = TransactionKind.writeRequest.byte then some .writeRequest
  else if b = TransactionKind.readResponse.byte then some .readResponse
  else if b = TransactionKind.readPortStatus.byte then some .readPortStatus
  else none

/-- A WRITE_REQUEST with the data in after its transaction byte (R185, R193). -/
def Port.write (dataIn : List Bool) (p : Port) : Port :=
  match p.transaction, p.state with
  | .begun, .idle =>
    { p with state := .receiving, transaction := .writing, request := (receivedBytes dataIn).take Config.requestBytes,
             overlong := decide (Config.requestBytes < (receivedBytes dataIn).length),
             dataOut := shiftOut [] dataIn.length }
  | .begun, .processing | .begun, .responseReady =>
    { p with transaction := .overrun, overrun := true, dataOut := shiftOut [] dataIn.length }
  | _, _ => p

/-- A READ_RESPONSE with `n` clock periods after its transaction byte; a byte of the response counts as shifted out when
it is whole (R183, R192). -/
def Port.read (n : Nat) (p : Port) : Port :=
  match p.transaction, p.state with
  | .begun, .responseReady =>
    { p with transaction := .reading, readPosition := min (n / 8) p.response.length, dataOut := shiftOut p.response n }
  | .begun, .idle | .begun, .processing | .begun, .receiving =>
    { p with transaction := .readingEmpty, dataOut := shiftOut [emptyIndication] n }
  | _, _ => p

/-- A READ_PORT_STATUS with `n` clock periods after its transaction byte: the status byte is captured and the overrun flag
cleared (R194). -/
def Port.readStatus (attention : Bool) (n : Nat) (p : Port) : Port :=
  match p.transaction with
  | .begun =>
    { p with transaction := .status, overrun := false,
             dataOut := shiftOut [portStatusByte (p.state == .responseReady) (p.state == .processing) p.overrun
               attention] n }
  | _ => p

/-- An unknown transaction with `n` clock periods after its transaction byte (R183). -/
def Port.unknown (n : Nat) (p : Port) : Port :=
  match p.transaction with
  | .begun => { p with transaction := .unknown, dataOut := shiftOut [] n }
  | _ => p

/-- The transaction byte `b` received at port `k`, which selects the transaction, with the data in after it (R183). -/
def transact (k : Slot) (b : Byte) (dataIn : List Bool) (s : State) : State :=
  match transactionOf b with
  | some .writeRequest => s.updPort k (Port.write dataIn)
  | some .readResponse => s.updPort k (Port.read dataIn.length)
  | some .readPortStatus => s.updPort k (Port.readStatus (s.attention k) dataIn.length)
  | none => s.updPort k (Port.unknown dataIn.length)

/-- The end of a READ_RESPONSE: a response wholly shifted out is released, any other stays (R192, R195). -/
def Port.endRead (p : Port) : Port :=
  if p.readPosition = p.response.length then { p with state := .idle, response := [], readPosition := 0 }
  else { p with readPosition := 0 }

/-- The rise of select at the end of a transaction other than a WRITE_REQUEST taken in IDLE (R183, R192, R195). -/
def Port.rise (p : Port) : Port :=
  match p.transaction with
  | .none | .writing => p
  | .reading => { p.endRead with transaction := .none, inactivity := false }
  | .begun | .overrun | .readingEmpty | .status | .unknown | .ignored =>
    { p with transaction := .none, inactivity := false }

/-- The fall of select: a transaction begins (R183, R195). -/
def Port.fall (p : Port) : Port :=
  match p.transaction with
  | .none => { p with transaction := .begun, inactivity := true, dataOut := [] }
  | _ => p

/-- The inactivity timer's expiry: the transaction is abandoned, and bytes are ignored until select rises (R195). The
timer then stays idle until select falls again (assumption 40). -/
def Port.expire (p : Port) : Port :=
  if p.inactivity then
    let p := match p.transaction with
      | .writing => { p with state := .idle, request := [], overlong := false }
      | .reading => p.endRead
      | .none | .begun | .overrun | .readingEmpty | .status | .unknown | .ignored => p
    { p with transaction := .ignored, inactivity := false }
  else p

/-- The select line of a port that is held in reset falls: nothing is taken until it has risen (R184, R201). -/
def Port.fallHeld (p : Port) : Port :=
  match p.transaction with
  | .none => { p with transaction := .ignored }
  | _ => p

/-- A port after device reset: its reset values, with a select line found low ignored until it rises (R184, R201), and the
inactivity timer idle until select falls again (assumption 40). -/
def Port.afterReset (p : Port) : Port :=
  { Port.reset with transaction := if p.transaction = .none then .none else .ignored }

/-- A frame that passes R187 handed over: the port enters PROCESSING (R189). A SET_HASH whose operation is unknown, for
which the table of commands has no row, is answered here (R170). -/
def handOver (k : Slot) (r : Request) (s : State) : State :=
  let s := s.updPort k fun p => { p with state := .processing, work := some .handed }
  match r with
  | .setHashOther _ _ => whenOpen k (refuse k .badValue) s
  | _ => s

/-- The frame in port `k`'s request buffer judged (R186 to R188). -/
def judgeRequest (k : Slot) (s : State) : State :=
  let frame := (s.port k).request
  if malformed frame (s.port k).overlong then refuse k .badFrame s
  else if s.loader.phase ≠ .ready then refuse k .starting s
  else if knownCode (byteAt frame 0) then
    match decodeRequest frame with
    | some r => handOver k r s
    | none => refuse k .badFrame s
  else refuse k .unknownRequest s

/-- The rise of select that ends a WRITE_REQUEST taken in IDLE (R186). -/
def endRequestFrame (k : Slot) (s : State) : State :=
  match (s.port k).transaction with
  | .writing => judgeRequest k (s.updPort k fun p => { p with transaction := .none, inactivity := false })
  | _ => s

end Sys2Proof.Machine
end

