-- ==== Sys2Proof/Machine/ClockCommands.lean ====
section
/-! DEFINITION. The meanings of the clock requests (R14 to R29) and of the presets that OPEN applies (R58, R59). -/

namespace Sys2Proof.Machine

/-! ## Checks shared by the clock requests -/

/-- A local number in range (R14, check 3). -/
def localOf (b : Byte) : Option LocalNo := if h : b.toNat < 16 then some ⟨b.toNat, h⟩ else none

/-- Checks 3 and 4 of R14: the local number is in range, and the partition has the clock. -/
def withClock (k : Slot) (localNo : Byte) (f : LocalNo → ClockEntry → State → State) (s : State) : State :=
  match localOf localNo with
  | none => refuse k .badValue s
  | some n =>
    match findClock (s.part k).fired n with
    | none => refuse k .noSuchClock s
    | some e => f n e s

/-- A clock request that names a clock and is taken in STOPPED (R14). -/
def clockRequest (k : Slot) (localNo : Byte) (f : LocalNo → ClockEntry → State → State) (s : State) : State :=
  whenStopped k (withClock k localNo f) s

/-- The clock of a local number changed, and OK answered with an empty body. -/
def setClock (k : Slot) (n : LocalNo) (f : ClockEntry → ClockEntry) (s : State) : State :=
  respond k .ok false [] (s.updFired k (updateClock n f))

/-! ## Defining a clock -/

/-- The kind and working parameters a definition keeps, and whether a clamp of R16 changed one. -/
structure Definition where
  kind    : ClockKind
  wave    : Wave
  clamped : Bool
  deriving DecidableEq, Repr

/-- A periodic definition brought into range (R16), at the OFF values (R17). -/
def definePeriodic (period high phase : Nat) : Definition where
  kind := .periodic
  wave := .periodic ⟨period, keptHigh period high, phase % period, 0, .rising, none⟩
  clamped := keptHigh period high != high || phase % period != phase

/-- A divided definition brought into range (R16), at the OFF values (R17). -/
def defineDivided (parent : LocalNo) (divisor high : Nat) : Definition where
  kind := .divided parent
  wave := .divided ⟨divisor, keptHigh divisor high, 0, none⟩
  clamped := keptHigh divisor high != high

/-- Whether a clock of partition `k` has the local number and is PERIODIC (R15). -/
def State.periodicClock (s : State) (k : Slot) (n : LocalNo) : Bool :=
  match findClock (s.part k).fired n with
  | some ⟨_, _, _, .periodic _⟩ => true
  | some ⟨_, _, _, .divided _⟩ | none => false

/-- The request's own checks of DEFINE_CLOCK (R15): a refusal, or the FREE record with the lowest pool index (R61). -/
def definitionRecord (k : Slot) (n : LocalNo) (kind : ClockKind) (s : State) : Except Status (Fin 48) :=
  if (findClock (s.part k).fired n).isSome then .error .localInUse
  else if (match kind with
      | .periodic => false
      | .divided parent => !s.periodicClock k parent) then .error .parentInvalid
  else
    match s.freeRecord with
    | none => .error .poolEmpty
    | some i => .ok i

/-- A definition taken with pool record `i` (R17). -/
def placeClock (k : Slot) (n : LocalNo) (d : Definition) (i : Fin 48) (s : State) : State :=
  (s.setRecord i (some ⟨k, n, d.kind⟩)).updFired k fun snap => snap ++ [⟨n, .off, false, d.wave⟩]

/-- The definition a DEFINE_CLOCK carries; none when a field is out of range (R14, R15). -/
def definitionOf : ClockBody → Option Definition
  | .periodic period high phase =>
    if 2 ≤ period.toNat then some (definePeriodic period.toNat high.toNat phase.toNat) else none
  | .divided parent divisor high =>
    match localOf parent with
    | some p =>
      if 2 ≤ divisor.toNat ∧ divisor.toNat ≤ 256 then some (defineDivided p divisor.toNat high.toNat) else none
    | none => none
  | .unknownKind _ => none

/-- The parameters of a clock as kept, in the widths of a DEFINE_CLOCK's fields: P, H and O, or N and K (R199, R212;
assumption 36). -/
def Wave.keptBytes : Wave → List Byte
  | .periodic w => leBytes 3 w.period ++ leBytes 3 w.high ++ leBytes 3 w.phase
  | .divided w => leBytes 2 w.divisor ++ leBytes 2 w.high

/-- DEFINE_CLOCK with its fields in range (R15 to R17). The body is the pool index of R17 (assumption 48), then the values
kept (R199; assumption 36). -/
def defineClock (k : Slot) (n : LocalNo) (d : Definition) (s : State) : State :=
  match definitionRecord k n d.kind s with
  | .error status => refuse k status s
  | .ok i => respond k .ok d.clamped (BitVec.ofNat 8 i.val :: d.wave.keptBytes) (placeClock k n d i s)

/-- DEFINE_CLOCK (R15 to R17). -/
def execDefineClock (k : Slot) (localNo : Byte) (body : ClockBody) (s : State) : Result :=
  take k (.defineClock localNo body) (whenStopped k fun s =>
    match localOf localNo, definitionOf body with
    | some n, some d => defineClock k n d s
    | _, _ => refuse k .badValue s) s

/-- A clock deleted: its entry and its pool record (R18). -/
def removeClock (k : Slot) (n : LocalNo) (s : State) : State :=
  let s := match s.clockIndex k n with
    | some i => s.setRecord i none
    | none => s
  s.updFired k fun snap => snap.filter fun e => e.localNo ≠ n

/-- DELETE_CLOCK (R18). -/
def execDeleteClock (k : Slot) (localNo : Byte) (s : State) : Result :=
  take k (.deleteClock localNo) (clockRequest k localNo fun n e s =>
    if e.state ≠ .off then refuse k .wrongClockState s
    else if s.hasChild k n then refuse k .dependentClocks s
    else respond k .ok false [] (removeClock k n s)) s

/-! ## Enabling and disabling -/

/-- Whether the parent of clock `n` of partition `k` is OFF or OFF_PENDING (R20). -/
def State.parentOff (s : State) (k : Slot) (n : LocalNo) : Bool :=
  match s.clockKind k n with
  | some (.divided parent) =>
    match findClock (s.part k).fired parent with
    | some e => e.state == .off || e.state == .offPending
    | none => true
  | some .periodic | none => false

/-- Whether an ENABLE_CLOCK of a clock is refused with PARENT_OFF (R20). -/
def enableRefused (k : Slot) (n : LocalNo) (e : ClockEntry) (s : State) : Bool := e.state == .off && s.parentOff k n

/-- A clock enabled at time `v` (R19 to R21). -/
def ClockEntry.enable (v : Nat) (e : ClockEntry) : ClockEntry :=
  match e.state with
  | .off => { e with state := .active, level := false, wave := e.wave.started v }
  | .offPending => { e with state := .active }
  | .active | .gatePending | .gated | .ungatePending => e

/-- ENABLE_CLOCK (R19 to R21). -/
def execEnableClock (k : Slot) (localNo : Byte) (s : State) : Result :=
  take k (.enableClock localNo) (clockRequest k localNo fun n e s =>
    if enableRefused k n e s then refuse k .parentOff s
    else setClock k n (ClockEntry.enable (s.part k).vt) s) s

/-- A clock disabled, by its level (R22). -/
def ClockEntry.disable (e : ClockEntry) : ClockEntry :=
  match e.state with
  | .off | .offPending => e
  | .active | .gatePending | .gated | .ungatePending => if e.level then { e with state := .offPending } else e.enterOff

/-- DISABLE_CLOCK (R22). -/
def execDisableClock (k : Slot) (localNo : Byte) (s : State) : Result :=
  take k (.disableClock localNo) (clockRequest k localNo fun n e s =>
    if e.state ≠ .off ∧ e.state ≠ .offPending ∧ s.hasLiveChild k n = true then refuse k .dependentClocks s
    else setClock k n ClockEntry.disable s) s

/-! ## Gating -/

/-- A clock gated (R23). -/
def ClockEntry.gate (e : ClockEntry) : ClockEntry :=
  match e.state with
  | .active => { e with state := if e.level then .gatePending else .gated }
  | .ungatePending => { e with state := .gated }
  | .gatePending | .gated | .off | .offPending => e

/-- A clock ungated (R24). -/
def ClockEntry.ungate (e : ClockEntry) : ClockEntry :=
  match e.state with
  | .gated => { e with state := .ungatePending }
  | .gatePending => { e with state := .active }
  | .active | .ungatePending | .off | .offPending => e

/-- Whether a clock is in one of the two states in which GATE_CLOCK and UNGATE_CLOCK are refused (R23, R24). -/
def ClockEntry.offOrPending (e : ClockEntry) : Bool := e.state == .off || e.state == .offPending

/-- GATE_CLOCK (R23). -/
def execGateClock (k : Slot) (localNo : Byte) (s : State) : Result :=
  take k (.gateClock localNo) (clockRequest k localNo fun n e s =>
    if e.offOrPending then refuse k .wrongClockState s else setClock k n ClockEntry.gate s) s

/-- UNGATE_CLOCK (R24). -/
def execUngateClock (k : Slot) (localNo : Byte) (s : State) : Result :=
  take k (.ungateClock localNo) (clockRequest k localNo fun n e s =>
    if e.offOrPending then refuse k .wrongClockState s else setClock k n ClockEntry.ungate s) s

/-! ## Retiming -/

/-- A wave retimed with values in range: at once in OFF, as a pending retime in every other state (R26). -/
def Wave.retime (off : Bool) (first high : Nat) : Wave → Wave
  | .periodic w =>
    if off then .periodic { w with period := first, high := high, phase := w.phase % first }
    else .periodic { w with retime := some (first, high) }
  | .divided w =>
    if off then .divided { w with divisor := first, high := high } else .divided { w with retime := some (first, high) }

/-- The two values of a RETIME_CLOCK as the kind of the clock reads them; for a divided clock the top byte of each is
ignored (R25, R212). -/
def Wave.retimeValues (first second : BitVec 24) : Wave → Nat × Nat
  | .periodic _ => (first.toNat, second.toNat)
  | .divided _ => (first.toNat % 65536, second.toNat % 65536)

/-- Whether the first value of a retime is in range (R25). -/
def Wave.retimeValid (first : Nat) : Wave → Bool
  | .periodic _ => decide (2 ≤ first)
  | .divided _ => decide (2 ≤ first) && decide (first ≤ 256)

/-- Whether a retime at once changes the phase (R26). -/
def Wave.phaseMoves (off : Bool) (first : Nat) : Wave → Bool
  | .periodic w => off && w.phase % first != w.phase
  | .divided _ => false

/-- The values of a retime as kept, in the widths of the request's fields: P′, H′ and the phase as the request leaves it, or
N′ and K′ (R199, R212; assumption 36). -/
def Wave.retimeBytes (off : Bool) (first high : Nat) : Wave → List Byte
  | .periodic w => leBytes 3 first ++ leBytes 3 high ++ leBytes 3 (if off then w.phase % first else w.phase)
  | .divided _ => leBytes 3 first ++ leBytes 3 high

/-- RETIME_CLOCK (R25, R26). The body holds the values kept (R199; assumption 36). -/
def execRetimeClock (k : Slot) (localNo : Byte) (first second : BitVec 24) (s : State) : Result :=
  take k (.retimeClock localNo first second) (clockRequest k localNo fun n e s =>
    let v := e.wave.retimeValues first second
    let off := e.state == .off
    if e.wave.retimeValid v.1 then
      respond k .ok (keptHigh v.1 v.2 != v.2 || e.wave.phaseMoves off v.1)
        (e.wave.retimeBytes off v.1 (keptHigh v.1 v.2))
        (s.updFired k (updateClock n fun e => { e with wave := e.wave.retime off v.1 (keptHigh v.1 v.2) }))
    else refuse k .badValue s) s

/-! ## Reading a clock -/

/-- The parent byte of a clock record; 0 for a periodic clock (R214). -/
def ClockKind.parentByte : ClockKind → Byte
  | .periodic => 0
  | .divided parent => BitVec.ofNat 8 parent.val

/-- A pending retime as a clock record carries it (R214). -/
def retimeBytes : Option (Nat × Nat) → List Byte
  | some (first, high) => 1#8 :: (leBytes 3 first ++ leBytes 3 high)
  | none => leBytes 7 0

/-- The 42 bytes of a clock record (R27, R214). -/
def clockRecord (index : Nat) (kind : ClockKind) (e : ClockEntry) (vt fired : Nat) : List Byte :=
  let head := [BitVec.ofNat 8 index, BitVec.ofNat 8 e.localNo.val, kind.code, kind.parentByte]
  let state := [e.state.code, flagByte e.level]
  (match e.wave with
    | .periodic w =>
      head ++ leBytes 3 w.period ++ leBytes 3 w.high ++ leBytes 3 w.phase ++ state ++ leBytes 7 w.next
        ++ [w.polarity.code] ++ leBytes 2 0 ++ retimeBytes w.retime
    | .divided w =>
      head ++ leBytes 3 w.divisor ++ leBytes 3 w.high ++ leBytes 3 0 ++ state ++ leBytes 7 0
        ++ [0] ++ leBytes 2 w.count ++ retimeBytes w.retime)
    ++ leBytes 6 vt ++ leBytes 4 fired

/-- READ_CLOCK (R27). -/
def execReadClock (k : Slot) (localNo : Byte) (s : State) : Result :=
  take k (.readClock localNo) (whenOpen k (withClock k localNo fun n e s =>
    match s.clockIndex k n, s.clockKind k n with
    | some i, some kind => respond k .ok false (clockRecord i.val kind e (s.part k).vt (s.part k).firedFrontier) s
    | _, _ => refuse k .noSuchClock s)) s

/-! ## Time reset -/

/-- The time and clock effects of TIME_RESET (R28). -/
def resetTime (k : Slot) (s : State) : State :=
  s.updPart k fun p => { p with vt := 0, firedFrontier := 0, fired := p.fired.map ClockEntry.timeReset }

/-- TIME_RESET (R28, R29): every owned board is sent a SYNC with next tag 1 and level mask 0, and the response waits for
them; with no board it is given at once. -/
def execTimeReset (k : Slot) (s : State) : Result :=
  take k .timeReset (whenStopped k fun s =>
    let s := resetTime k s
    if (s.ownedBoards k).isEmpty then endTimeReset k 0 s
    else
      (forBoards (fun b => syncBoard b 1 0) (s.ownedBoards k)
        (s.updPart k fun p => { p with syncPending := true })).updPort k fun p => { p with work := some (.timeReset 0) }) s

/-! ## Presets -/

/-- The outcome of a preset (R58). -/
inductive PresetOutcome where
  | applied | notEnabled | skipped
  deriving DecidableEq, Repr

/-- The definition a preset stands for, with its clamps (R16, R58). -/
def PresetBody.definition : PresetBody → Definition
  | .periodic period high phase => definePeriodic period high phase
  | .divided parent divisor high => defineDivided (Fin.ofNat 16 parent) divisor high

/-- A preset of partition `k` applied: its definition, then its enable at v = 0 when it asks for one (R58). -/
def applyPreset (k : Slot) (p : Preset) (s : State) : State × PresetOutcome × Bool :=
  let d := p.body.definition
  match definitionRecord k p.localNo d.kind s with
  | .error _ => (s, .skipped, false)
  | .ok i =>
    let s := placeClock k p.localNo d i s
    if p.enable then
      if s.parentOff k p.localNo then (s, .notEnabled, d.clamped)
      else (s.updFired k (updateClock p.localNo (ClockEntry.enable 0)), .applied, d.clamped)
    else (s, .applied, d.clamped)

/-- A count of presets as a byte. The manual gives the count one byte and no value above 255; there the byte is a free
value (assumption 8). -/
def presetCount (free : Byte) (n : Nat) : Byte := if n ≤ 255 then BitVec.ofNat 8 n else free

/-- The values kept of the presets that were clamped, each led by its local number (R59, R199; assumption 36). -/
def clampedBytes : List Preset → List Byte
  | [] => []
  | p :: ps => BitVec.ofNat 8 p.localNo.val :: (p.body.definition.wave.keptBytes ++ clampedBytes ps)

/-- OPEN answered with its three counts (R59), then the values kept of each preset that was clamped (R199; assumption
36). -/
def endOpen (k : Slot) (applied notEnabled skipped : Nat) (clamped : List Preset) (s : State) : State :=
  respond k .ok (!clamped.isEmpty)
    (presetCount (Config.freeByte s.freeCount) applied :: presetCount (Config.freeByte (s.freeCount + 1)) notEnabled
      :: presetCount (Config.freeByte (s.freeCount + 2)) skipped :: clampedBytes clamped)
    { s with freeCount := if applied ≤ 255 ∧ notEnabled ≤ 255 ∧ skipped ≤ 255 then s.freeCount else s.freeCount + 3 }

/-- What is left of an OPEN: more presets, or its answer (R59). -/
def continueOpen (k : Slot) (todo : List Preset) (applied notEnabled skipped : Nat) (clamped : List Preset) (s : State) :
    State :=
  match todo with
  | [] => endOpen k applied notEnabled skipped clamped s
  | p :: rest =>
    s.updPort k fun port => { port with work := some (.opening (p :: rest) applied notEnabled skipped clamped) }

/-- The next preset of the slot being opened applied and counted (R58, R59). -/
def openNext (k : Slot) (s : State) : State :=
  match (s.port k).work with
  | some (.opening (p :: rest) applied notEnabled skipped clamped) =>
    let r := applyPreset k p s
    let clamped := if r.2.2 then clamped ++ [p] else clamped
    match r.2.1 with
    | .applied => continueOpen k rest (applied + 1) notEnabled skipped clamped r.1
    | .notEnabled => continueOpen k rest applied (notEnabled + 1) skipped clamped r.1
    | .skipped => continueOpen k rest applied notEnabled (skipped + 1) clamped r.1
  | _ => s

/-- PRESET_APPLY (R58, R59). -/
def execPresetApply (k : Slot) (s : State) : Result := act (openNext k) s

end Sys2Proof.Machine
end

