-- ==== Sys2Proof/Machine/PartitionCommands.lean ====
section
/-! DEFINITION. The meanings of the partition, board and group requests (R54 to R73). -/

namespace Sys2Proof.Machine

/-! ## Opening, closing and settings -/

/-- A partition record after OPEN, with the loaded defaults (R52, R57, R112, R156, R172). -/
def Partition.opened (defaults : Settings) : Partition :=
  { Partition.reset with state := .stopped, settings := defaults, weff := defaults.window,
                         heff := max defaults.horizon defaults.window }

/-- OPEN (R57 to R59). -/
def execOpenSlot (k : Slot) (s : State) : Result :=
  take k .openSlot (fun s =>
    if (s.part k).state = .closed then
      continueOpen k (s.loader.presets.filter fun p => p.slot = k) 0 0 0 []
        (s.setPart k (Partition.opened s.loader.defaults))
    else refuse k .alreadyOpen s) s

/-- Boards of a set made unowned: a BOUND board goes to IDLE, muting ends, the strobe is low and the transmit order empty
(R60, R68, R135, R149, R150). A backoff that still runs then runs on (assumption 45). -/
def releaseSet (set : BoardMask) (s : State) : State :=
  (s.mapBoards fun b r =>
    if maskHas set b then { r with owner := none, link := if r.link = .bound then .idle else r.link } else r).mapLinks
    fun b l => if maskHas set b then { l with muted := false, strobe := false, order := [] } else l

/-- A partition taken out of its group by LEAVE_GROUP or CLOSE (R60, R73). A group stop that it has not taken yet reaches
it no more, for a group stop is passed to members (R93; assumption 9). -/
def Partition.leaveGroup (p : Partition) : Partition := { p with group := none, groupStops := [] }

/-- A partition closed (R60): boards, clock records and group place given back, its queue emptied, any work item void. -/
def closePartition (k : Slot) (s : State) : State :=
  let s := recompute k (releaseSet (s.ownedMask k) (voidWork k s))
  let s := s.mapRecords fun
    | some r => if r.owner = k then none else some r
    | none => none
  s.updPart k fun p =>
    { p.leaveGroup with state := .closed, fired := [], queue := { p.queue with records := [] } }

/-- CLOSE (R60). -/
def execCloseSlot (k : Slot) (s : State) : Result :=
  take k .closeSlot (whenOpen k fun s =>
    if (s.part k).state = .stopped ∨ (s.part k).state = .faulted then respond k .ok false [] (closePartition k s)
    else refuse k .wrongState s) s

/-- SET_PARTITION (R54, R55). -/
def execSetPartition (k : Slot) (window horizon gap retry backoff timeout attention : Byte) (s : State) : Result :=
  take k (.setPartition window horizon gap retry backoff timeout attention) (whenStopped k fun s =>
    let kept := keptSettings window horizon gap retry backoff timeout attention
    let s := recompute k (s.updPart k fun p => { p with settings := kept })
    respond k .ok (settingsClamped window horizon retry backoff timeout) (kept.bytes ++ (s.part k).windowBytes) s) s

/-- An optional stop point with its reasons (R56, R87): presence, step, primary reason and also-reasons. -/
def Partition.stopBytes (p : Partition) : List Byte :=
  match p.stop with
  | some point => 1#8 :: (leBytes 4 point.step ++ [point.primary.name.code, p.also.byte])
  | none => 0#8 :: (leBytes 4 0 ++ [0#8, p.also.byte])

/-- The run setup as a response carries it (R75). -/
def Partition.setupBytes (p : Partition) : List Byte := p.runMode.code :: leBytes 6 p.runArgument

/-- The response body of READ_PARTITION (R56). -/
def partitionBody (k : Slot) (s : State) : List Byte :=
  let p := s.part k
  [p.state.code] ++ p.settings.bytes ++ p.windowBytes ++ p.setupBytes ++ leBytes 4 p.runLimit
    ++ leBytes 4 p.firedFrontier ++ leBytes 6 p.vt ++ p.stopBytes
    ++ [p.sticky.byte, ownerByte p.group, flagByte p.syncPending] ++ maskBytes (s.ownedMask k)
    ++ [BitVec.ofNat 8 p.fired.length, BitVec.ofNat 8 p.queue.records.length] ++ leBytes 2 p.queue.drops
    ++ [flagByte p.queue.overflow]

/-- READ_PARTITION (R56). -/
def execReadPartition (k : Slot) (s : State) : Result :=
  take k .readPartition (whenOpen k fun s => respond k .ok false (partitionBody k s) s) s

/-! ## Boards -/

/-- A refusal that carries a mask of boards (R65, R68, R69, R191). -/
def refuseMask (k : Slot) (status : Status) (m : BoardMask) (s : State) : State := respond k status false (maskBytes m) s

/-- The boards of a set that another partition owns (R65). -/
def takenBoards (k : Slot) (set : BoardMask) (s : State) : BoardMask :=
  maskWhere fun b => maskHas set b && (s.board b).owner.isSome && !s.owns k b

/-- The unowned boards of a set that are ABSENT or FAILED (R65). -/
def absentBoards (set : BoardMask) (s : State) : BoardMask :=
  maskWhere fun b => maskHas set b && (s.board b).owner.isNone
    && ((s.board b).link == .absent || (s.board b).link == .failed)

/-- The boards of a set that are PROBING (R65, R69). -/
def busyBoards (set : BoardMask) (s : State) : BoardMask :=
  maskWhere fun b => maskHas set b && (s.board b).link == .probing

/-- The boards of a set that some partition owns (R69). -/
def ownedOf (set : BoardMask) (s : State) : BoardMask := maskWhere fun b => maskHas set b && (s.board b).owner.isSome

/-- Boards newly claimed by partition `k`: owned, their counters 0, each SYNCING with a SYNC to the fired state, the
sync-pending flag set, and Weff and Heff recomputed (R66). -/
def claimFresh (k : Slot) (fresh : BoardMask) (s : State) : State :=
  let s := s.mapBoards fun b r => if maskHas fresh b then { r with owner := some k, counters := {} } else r
  let p := s.part k
  recompute k ((forBoards (fun b => syncBoard b (p.firedFrontier + 1) (levelMask p.fired)) (maskBoards fresh) s).updPart k
    fun p => { p with syncPending := true })

/-- A claim that passes R65: answered at once when it claims no new board, and otherwise when their SYNCs have ended
(R65, R66). -/
def takeClaim (k : Slot) (set : BoardMask) (s : State) : State :=
  let already := set &&& s.ownedMask k
  let fresh := set &&& ~~~(s.ownedMask k)
  if fresh = 0 then respond k .ok false (claimBody k 0 already 0 s) s
  else (claimFresh k fresh s).updPort k fun p => { p with work := some (.claiming fresh already 0) }

/-- CLAIM_BOARDS (R65, R66). -/
def execClaimBoards (k : Slot) (set : BoardMask) (s : State) : Result :=
  take k (.claimBoards set) (whenStopped k fun s =>
    if set = 0 then refuse k .badValue s
    else if takenBoards k set s ≠ 0 then refuseMask k .boardTaken (takenBoards k set s) s
    else if absentBoards set s ≠ 0 then refuseMask k .boardAbsent (absentBoards set s) s
    else if busyBoards set s ≠ 0 then refuseMask k .boardBusy (busyBoards set s) s
    else takeClaim k set s) s

/-- RELEASE_BOARDS in STOPPED or FAULTED (R68). -/
def takeRelease (k : Slot) (set : BoardMask) (s : State) : State :=
  let foreign := set &&& ~~~(s.ownedMask k)
  if set = 0 ∨ foreign ≠ 0 then refuseMask k .badValue foreign s
  else
    let s := recompute k (releaseSet set s)
    respond k .ok false (maskBytes (s.ownedMask k) ++ (s.part k).windowBytes) s

/-- RELEASE_BOARDS (R68). -/
def execReleaseBoards (k : Slot) (set : BoardMask) (s : State) : Result :=
  take k (.releaseBoards set) (whenOpen k fun s =>
    if (s.part k).state = .stopped ∨ (s.part k).state = .faulted then takeRelease k set s
    else refuse k .wrongState s) s

/-- REPROBE (R69): taken whether or not the slot is open. -/
def execReprobe (k : Slot) (set : BoardMask) (s : State) : Result :=
  take k (.reprobe set) (fun s =>
    if set = 0 then refuseMask k .badValue 0 s
    else if ownedOf set s ≠ 0 then refuseMask k .boardTaken (ownedOf set s) s
    else if busyBoards set s ≠ 0 then refuseMask k .boardBusy (busyBoards set s) s
    else
      (forBoards breakBoard (maskBoards set) s).updPort k fun p => { p with work := some (.reprobing set 0 0) }) s

/-- The five counters as bytes, in the order of R62, one byte each (assumption 48). -/
def RxCounters.bytes (c : RxCounters) : List Byte :=
  [BitVec.ofNat 8 c.parity, BitVec.ofNat 8 c.framing, BitVec.ofNat 8 c.orphan, BitVec.ofNat 8 c.length,
   BitVec.ofNat 8 c.check]

/-- A board record as READ_BOARD returns it (R62, R70). -/
def boardBody (b : Board) (s : State) : List Byte :=
  let r := s.board b
  [r.link.code, ownerByte r.owner] ++ s.identityBytes b ++ r.counters.bytes ++ [faultCode r.cause]

/-- READ_BOARD (R70). -/
def execReadBoard (k : Slot) (board : Byte) (s : State) : Result :=
  take k (.readBoard board) (whenOpen k fun s =>
    if h : board.toNat < 24 then respond k .ok false (boardBody ⟨board.toNat, h⟩ s) s else refuse k .badValue s) s

/-- The state and group of each slot (R71, R212). -/
def slotBytes (s : State) : List Slot → List Byte
  | [] => []
  | k :: ks => (s.part k).state.code :: ownerByte (s.part k).group :: slotBytes s ks

/-- The response body of READ_CABINET (R71, R212). -/
def cabinetBody (s : State) : List Byte :=
  [0x46#8, 0x48#8, 0x24#8, statusCode s.loader.status, BitVec.ofNat 8 s.loader.skipped]
    ++ boardList (fun b => [(s.board b).link.code, ownerByte (s.board b).owner]) allBoards ++ slotBytes s allSlots
    ++ [BitVec.ofNat 8 s.freeRecords]

/-- READ_CABINET (R71): taken whether or not the slot is open. -/
def execReadCabinet (k : Slot) (s : State) : Result :=
  take k .readCabinet (fun s => respond k .ok false (cabinetBody s) s) s

/-! ## Stop groups -/

/-- The membership of a group (R72, R211). -/
def groupMask (g : Group) (s : State) : Byte := memberMask fun j => (s.part j).group == some g

/-- JOIN_GROUP with a group number in range (R72). -/
def takeJoin (k : Slot) (g : Group) (s : State) : State :=
  if (s.part k).group.isSome ∧ (s.part k).group ≠ some g then refuse k .groupMismatch s
  else
    let s := s.updPart k fun p => { p with group := some g }
    respond k .ok false [groupMask g s] s

/-- JOIN_GROUP (R72). -/
def execJoinGroup (k : Slot) (group : Byte) (s : State) : Result :=
  take k (.joinGroup group) (whenStopped k fun s =>
    if h : group.toNat < 2 then takeJoin k ⟨group.toNat, h⟩ s else refuse k .badValue s) s

/-- LEAVE_GROUP (R73). In no group nothing changes. -/
def execLeaveGroup (k : Slot) (s : State) : Result :=
  take k .leaveGroup (whenStopped k fun s =>
    respond k .ok false [] (s.updPart k fun p => if p.group.isSome then p.leaveGroup else p)) s

end Sys2Proof.Machine
end

