-- ==== Sys2Proof/Machine/RunCommands.lean ====
section
/-! DEFINITION. The meanings of the run control requests (R75 to R104), of the end of a computation (R47, R48), of a
group stop taken (R94), and of the settle gap and strobe timers (R112, R115). -/

namespace Sys2Proof.Machine

/-! ## Setting up and starting a run -/

/-- The run argument a SETUP_RUN keeps for a mode (R75, R212): nothing for FREE, the low 4 bytes for COUNT and at least
1, all 6 bytes for UNTIL. -/
def keptArgument (mode : RunMode) (argument : BitVec 48) : Nat :=
  match mode with
  | .free => 0
  | .count => max 1 (argument.toNat % 4294967296)
  | .until => argument.toNat

/-- Whether the count of a SETUP_RUN is raised from 0 (R75). -/
def argumentClamped (mode : RunMode) (argument : BitVec 48) : Bool :=
  mode == .count && argument.toNat % 4294967296 == 0

/-- SETUP_RUN (R75). -/
def execSetupRun (k : Slot) (mode : Byte) (argument : BitVec 48) (s : State) : Result :=
  take k (.setupRun mode argument) (whenStopped k fun s =>
    match RunMode.ofByte mode with
    | none => refuse k .badValue s
    | some m =>
      let s := s.updPart k fun p => { p with runMode := m, runArgument := keptArgument m argument }
      respond k .ok (argumentClamped m argument) (s.part k).setupBytes s) s

/-- The fired frontier, VT and run limit at the start of a run (R77, R80). -/
def Partition.startBytes (p : Partition) : List Byte :=
  leBytes 4 p.firedFrontier ++ leBytes 6 p.vt ++ leBytes 4 p.runLimit

/-- A run of partition `k` started and answered; it may end at its start (R77, R78). -/
def takeRun (k : Slot) (s : State) : State :=
  let s := startRun k s
  engineSelect (endAtStart k (respond k .ok (s.part k).limitClamped (s.part k).startBytes s))

/-- RUN (R76 to R78). -/
def execRun (k : Slot) (s : State) : Result :=
  take k .run (whenStopped k fun s =>
    match runRefusal k s with
    | some status => refuse k status s
    | none => takeRun k s) s

/-- An operation applied to each slot of a list in turn. -/
def forSlots (op : Slot → State → State) : List Slot → State → State
  | [], s => s
  | k :: ks, s => forSlots op ks (op k s)

/-- The members of partition `k`'s group that satisfy a test, as a mask (R79, R80). -/
def memberBits (k : Slot) (f : Slot → Bool) (s : State) : Byte := memberMask fun j => (s.members k).contains j && f j

/-- A GROUP_RUN that every member passes (R80): every member is started, the requester is answered, and then the members
whose run ends at its start are given their candidates. -/
def takeGroupRun (k : Slot) (s : State) : State :=
  let members := s.members k
  let s := forSlots startRun members s
  let body := memberBits k (fun _ => true) s :: (s.part k).startBytes
  engineSelectFree (forSlots endAtStart members (respond k .ok (s.part k).limitClamped body s))

/-- GROUP_RUN (R79, R80). -/
def execGroupRun (k : Slot) (s : State) : Result :=
  take k .groupRun (whenOpen k fun s =>
    if (s.part k).group.isNone then refuse k .groupMismatch s
    else if (s.members k).all fun j => memberReady j s then takeGroupRun k s
    else respond k .groupNotReady false [memberBits k (fun j => !memberReady j s) s] s) s

/-! ## Pausing, resuming and stopping -/

/-- PAUSE (R81). -/
def execPause (k : Slot) (s : State) : Result :=
  take k .pause (whenOpen k fun s =>
    match (s.part k).state with
    | .running => respond k .ok false [] (s.updPart k fun p => { p with state := .paused })
    | .paused => refuse k .alreadyPaused s
    | .closed | .stopped | .stopping | .faulted => refuse k .wrongState s) s

/-- RESUME in PAUSED (R83): RUNNING, or STOPPING when a stop point is set, with the fire and stop completion conditions
evaluated in that state. -/
def takeResume (k : Slot) (s : State) : State :=
  let s := s.updPart k fun p => { p with state := if p.stop.isSome then .stopping else .running }
  engineSelect (advance k (respond k .ok false [(s.part k).state.code] s))

/-- RESUME (R83). -/
def execResume (k : Slot) (s : State) : Result :=
  take k .resume (whenOpen k fun s =>
    if (s.part k).state = .paused then takeResume k s else refuse k .notPaused s) s

/-- STOP in a run state (R87): a candidate at the fired frontier, and STOPPING from PAUSED. The response carries the stop
point and the reasons as they stand after the request. -/
def takeStop (k : Slot) (s : State) : State :=
  let s := candidate k (s.part k).firedFrontier .controller s
  let s := advance k (s.updPart k fun p => { p with state := if p.state = .paused then .stopping else p.state })
  engineSelect (respond k .ok false (s.part k).stopBytes s)

/-- STOP (R87). -/
def execStop (k : Slot) (s : State) : Result :=
  take k .stop (whenOpen k fun s =>
    match (s.part k).state with
    | .running | .paused | .stopping => takeStop k s
    | .stopped => respond k .ok false (s.part k).stopBytes s
    | .faulted | .closed => refuse k .wrongState s) s

/-! ## Recovery -/

/-- RECOVER in FAULTED (R102): the sync-pending flag set and every owned board broken and probed; with no board it ends
at once (R103). -/
def takeRecover (k : Slot) (s : State) : State :=
  let s := s.updPart k fun p => { p with syncPending := true }
  if (s.ownedBoards k).isEmpty then endRecover k 0 s
  else (forBoards breakBoard (s.ownedBoards k) s).updPort k fun p => { p with work := some (.recovering 0) }

/-- RECOVER (R102, R103). -/
def execRecover (k : Slot) (s : State) : Result :=
  take k .recover (whenOpen k fun s =>
    if (s.part k).state = .faulted then takeRecover k s else refuse k .wrongState s) s

/-- CLEAR_ERRORS (R104): the response carries the sticky errors and the drop count from before the clear. -/
def execClearErrors (k : Slot) (s : State) : Result :=
  take k .clearErrors (whenStopped k fun s =>
    let p := s.part k
    respond k .ok false (p.sticky.byte :: leBytes 2 p.queue.drops)
      (s.updPart k fun p => { p with sticky := {}, queue := { p.queue with drops := 0, overflow := false } })) s

/-! ## The engine, group stops and timers -/

/-- A work item's result judged (R47, R48): a step is appended or discarded, a finding is offered or discarded. -/
def judgeResult (w : WorkItem) (s : State) : State :=
  let k := w.slot
  if w.void = false ∧ (s.part k).state.isRun = true then
    match w.compute with
    | .step time changed level post =>
      if (s.part k).withinStop (w.frontier + 1) then
        advance k (runLimitFinding k (appendStep k (w.frontier + 1) time changed level post s))
      else s
    | .noEdges => advance k (offerFinding k w.frontier .noEdges s)
    | .time => advance k (offerFinding k w.frontier .time s)
    | .limit => advance k (offerFinding k w.frontier .limit s)
  else s

/-- The engine's computation ended: the slot is emptied, the result judged, and the engine selects again (R47, R48). -/
def endComputation (s : State) : State :=
  match s.engine.item with
  | none => s
  | some w => engineSelect (judgeResult w { s with engine := { s.engine with item := none } })

/-- COMPUTATION_END (R47, R48). -/
def execComputationEnd (s : State) : Result := act endComputation s

/-- The oldest group stop offered to partition `k` taken (R94). -/
def nextGroupStop (k : Slot) (s : State) : State :=
  match (s.part k).groupStops with
  | [] => s
  | _ :: rest => engineSelect (takeGroupStop k (s.updPart k fun p => { p with groupStops := rest }))

/-- GROUP_STOP_TAKEN (R94). -/
def execGroupStopTaken (k : Slot) (s : State) : Result := act (nextGroupStop k) s

/-- The settle gap of partition `k` elapsed, and the fire conditions evaluated (R112, R113). -/
def expireGap (k : Slot) (s : State) : State :=
  match (s.part k).gap with
  | .elapsed => s
  | .running _ => engineSelect (advance k (s.updPart k fun p => { p with gap := .elapsed }))

/-- SETTLE_GAP_EXPIRY (R112). -/
def execSettleGapExpiry (k : Slot) (s : State) : Result := act (expireGap k) s

/-- STROBE_FALL (R115): the strobes of the partition's boards fall together. -/
def execStrobeFall (k : Slot) (s : State) : Result :=
  act (fun s => s.mapLinks fun b l => if s.owns k b then { l with strobe := false } else l) s

end Sys2Proof.Machine
end

