-- ==== Sys2Proof/Machine/FilterCommands.lean ====
section
/-! DEFINITION. The meanings of the trigger filter requests (R168 to R170) and of READ_EVENTS (R179), with the bytes of an
event record (R214). -/

namespace Sys2Proof.Machine

/-! ## The filter -/

/-- The filter of partition `k` changed. -/
def State.updFilter (s : State) (k : Slot) (f : Filter → Filter) : State :=
  s.updPart k fun p => { p with filter := f p.filter }

/-- The values SET_FILTER returns (R168), the occurrence counter as wide as the count it is loaded from (assumption
48). -/
def Filter.bytes (f : Filter) : List Byte :=
  f.mode.code :: (leBytes 2 f.setting ++ leBytes 2 f.counter ++ [flagByte f.logUnmatched])

/-- SET_FILTER (R168). -/
def execSetFilter (k : Slot) (mode : Byte) (count : BitVec 16) (logUnmatched : Byte) (s : State) : Result :=
  take k (.setFilter mode count logUnmatched) (whenOpen k fun s =>
    match FilterMode.ofByte mode with
    | none => refuse k .badValue s
    | some m =>
      let setting := max 1 count.toNat
      let s := s.updFilter k fun f =>
        { f with mode := m, setting := setting, counter := setting, logUnmatched := flagOf logUnmatched }
      respond k .ok (count == 0) (s.part k).filter.bytes s) s

/-- SET_MATCH (R169). -/
def execSetMatch (k : Slot) (index : Byte) (id care : BitVec 16) (enable : Byte) (s : State) : Result :=
  take k (.setMatch index id care enable) (whenOpen k fun s =>
    if h : index.toNat < 8 then
      let s := s.updFilter k fun f => { f with entries := f.entries.set index.toNat ⟨id, care, flagOf enable⟩ h }
      respond k .ok false (matchBytes (s.part k).filter.entries.toList) s
    else refuse k .badValue s) s

/-- A SET_HASH with its operation's effect on the table (R170). -/
def takeHash (k : Slot) (enable : Byte) (change : BitVec 64 → BitVec 64) (s : State) : State :=
  let s := s.updFilter k fun f => f.setHash enable (change f.hashTable)
  respond k .ok false (s.part k).filter.hashBytes s

/-- SET_HASH with operation KEEP (R170). -/
def execSetHashKeep (k : Slot) (enable : Byte) (s : State) : Result :=
  take k (.setHashKeep enable) (whenOpen k (takeHash k enable fun table => table)) s

/-- SET_HASH with operation REPLACE (R170). -/
def execSetHashReplace (k : Slot) (enable : Byte) (table : BitVec 64) (s : State) : Result :=
  take k (.setHashReplace enable table) (whenOpen k (takeHash k enable fun _ => table)) s

/-- SET_HASH with operation ADD_IDS (R170). -/
def execSetHashAddIds (k : Slot) (enable count : Byte) (ids : List TriggerId) (s : State) : Result :=
  take k (.setHashAddIds enable count ids) (whenOpen k fun s =>
    if 1 ≤ count.toNat ∧ count.toNat ≤ 8 then takeHash k enable (fun table => addIds table ids) s
    else refuse k .badValue s) s

/-- SET_HASH with operation CLEAR (R170). -/
def execSetHashClear (k : Slot) (enable : Byte) (s : State) : Result :=
  take k (.setHashClear enable) (whenOpen k (takeHash k enable fun _ => 0)) s

/-! ## Reading events -/

/-- The details of a stop reason: presence byte, board, fault cause and trigger ID (R84, R214). -/
def StopReason.details : StopReason → Byte × Byte × Byte × List Byte
  | .trigger board id => (0x05#8, BitVec.ofNat 8 board.val, 0, leBytes 2 id.toNat)
  | .fault board cause => (0x03#8, BitVec.ofNat 8 board.val, faultCode (some cause), leBytes 2 0)
  | .controller | .group | .count | .time | .noEdges | .limit => (0, 0, 0, leBytes 2 0)

/-- The link kind and detail of a LINK record (R214). -/
def LinkEvent.bytes : LinkEvent → List Byte
  | .frameError kind => [1#8, kind.code]
  | .pollRecovered => [2#8, 0#8]
  | .fault cause => [3#8, faultCode (some cause)]

/-- The 20 bytes of an event record (R214). -/
def EventRecord.bytes : EventRecord → List Byte
  | .stop step vt primary also =>
    let d := primary.details
    [1#8, d.1] ++ leBytes 4 step ++ leBytes 6 vt ++ [primary.name.code, also.byte, d.2.1, d.2.2.1] ++ d.2.2.2
      ++ leBytes 2 0
  | .trigger step vt board id qualified stamp =>
    [2#8, if stamp.isSome then 0x0D#8 else 0x05#8] ++ leBytes 4 step ++ leBytes 6 vt
      ++ [BitVec.ofNat 8 board.val, flagByte qualified] ++ leBytes 2 id.toNat ++ leBytes 4 ((stamp.getD 0).toNat)
  | .link board frontier event =>
    [3#8, 1#8] ++ leBytes 4 frontier ++ leBytes 6 0 ++ [BitVec.ofNat 8 board.val] ++ event.bytes ++ leBytes 5 0

/-- The bytes of records, one after another. -/
def recordBytes : List EventRecord → List Byte
  | [] => []
  | r :: rs => r.bytes ++ recordBytes rs

/-- The number of records a READ_EVENTS asks for, brought into 1 to 4 (R179). -/
def eventCount (count : Byte) : Nat := clampTo 1 4 count.toNat

/-- READ_EVENTS taken (R179): the oldest records removed and returned. The body holds the items of R212 and no count as
kept (assumption 50). -/
def takeEvents (k : Slot) (count : Byte) (s : State) : State :=
  let out := (s.part k).queue.records.take (eventCount count)
  let s := s.updPart k fun p =>
    { p with queue := { p.queue with records := p.queue.records.drop (eventCount count) } }
  let q := (s.part k).queue
  respond k .ok (eventCount count != count.toNat)
    ([BitVec.ofNat 8 out.length, BitVec.ofNat 8 q.records.length] ++ leBytes 2 q.drops ++ [flagByte q.overflow]
      ++ recordBytes out) s

/-- READ_EVENTS (R179). -/
def execReadEvents (k : Slot) (count : Byte) (s : State) : Result :=
  take k (.readEvents count) (whenOpen k (takeEvents k count)) s

end Sys2Proof.Machine
end

