-- ==== Sys2Proof/Machine/LinkCommands.lean ====
section
/-! DEFINITION. The meanings of the events at a board link (R129 to R150): frames sent and received, receive errors, the
phases of a break, and the response and backoff timers. After an event at a board, exchanges that have ended are answered
and an idle engine selects (`settle`). -/

namespace Sys2Proof.Machine

/-- A well-formed frame received from board `b`. -/
def received (b : Board) (f : UpFrame) (s : State) : Result := act (fun s => settle (receiveFrame b f s)) s

/-- FRAME_SEND (R135). -/
def execFrameSend (b : Board) (s : State) : Result :=
  act (fun s => s.updLink b (Link.sendNext ((s.board b).link == .syncing) (s.responseNs b))) s

/-- RECEIVE_ERROR (R131, R132). -/
def execReceiveError (b : Board) (samples : List Bool) (s : State) : Result :=
  act (fun s => settle (receiveSamples b samples s)) s

/-- ARM_ACK received (R138). -/
def execArmAck (b : Board) (tag : Tag) (s : State) : Result := received b (.armAck tag) s

/-- ARM_NAK received (R141); every cause is handled alike. -/
def execArmNak (b : Board) (tag : Tag) (cause : Byte) (s : State) : Result := received b (.armNak tag cause) s

/-- DONE received (R139). -/
def execBoardDone (b : Board) (tag : Tag) (trigger : Option TriggerId) (stamp : Option (BitVec 32)) (s : State) :
    Result :=
  received b (.done tag trigger stamp) s

/-- FLUSH_ACK received (R122, R139). -/
def execFlushAck (b : Board) (tag : Tag) (s : State) : Result := received b (.flushAck tag) s

/-- SYNC_ACK received (R127, R139). -/
def execSyncAck (b : Board) (tag : Tag) (s : State) : Result := received b (.syncAck tag) s

/-- STATUS received (R145, R146). -/
def execBoardStatus (b : Board) (armedThrough doneThrough : Tag) (trigger : Option (Tag × TriggerId)) (s : State) :
    Result :=
  received b (.status armedThrough doneThrough trigger) s

/-- PROBE_REPLY received (R137). -/
def execProbeReply (b : Board) (id : BitVec 16) (depth : Byte) (s : State) : Result :=
  received b (.probeReply id depth) s

/-- BREAK_END (R136). -/
def execBreakEnd (b : Board) (s : State) : Result := act (fun s => s.updLink b Link.endBreak) s

/-- BREAK_RECOVERY_END (R136). -/
def execBreakRecoveryEnd (b : Board) (s : State) : Result :=
  act (fun s => s.updLink b (Link.endRecovery ((s.board b).link == .probing) (s.responseNs b))) s

/-- The response timer of board `b` expired, when it runs (R144). -/
def expireResponse (b : Board) (s : State) : State :=
  match (s.link b).timer with
  | .running _ => settle (expire b s)
  | .stopped | .suspended => s

/-- RESPONSE_TIMEOUT (R137, R144). -/
def execResponseTimeout (b : Board) (s : State) : Result := act (expireResponse b) s

/-- BACKOFF_END (R142). -/
def execBackoffEnd (b : Board) (s : State) : Result :=
  act (fun s => s.updLink b (Link.endBackoff (s.responseNs b) (s.pipeFor b))) s

/-- FRAME_TRANSMISSION_END (R135, R136). -/
def execFrameTransmissionEnd (b : Board) (s : State) : Result := act (fun s => s.updLink b Link.endFrame) s

end Sys2Proof.Machine
end

