-- ==== Sys2Proof/Machine/PortCommands.lean ====
section
/-! DEFINITION. The meanings of device reset, of the start-up load and the store operations, and of the transactions at a
controller port (R183 to R195, R201 to R210). -/

namespace Sys2Proof.Machine

/-! ## Device reset -/

/-- The state device reset leaves: every block at its reset values, the configuration memory as it stands with a write in
progress left unfinished, and a select line that is low ignored until it rises (R184, R201). The waiting commands and the
number of free values used are no part of the sequencer and stay. -/
def afterReset (held : Bool) (s : State) : State :=
  let s := abandonWrite s
  { State.reset with ports := Vector.ofFn fun k => (s.port k).afterReset, store := s.store, resetHeld := held,
                     freeCount := s.freeCount, pending := s.pending }

/-- DEVICE_RESET (R201). -/
def execDeviceReset (s : State) : Result := .next (afterReset false s)

/-- RESET_ASSERTED (R201). -/
def execResetAsserted (s : State) : Result := .next (afterReset true s)

/-! ## The start-up load and the configuration memory -/

/-- LOAD_READ_COMPLETE (R203 to R207). -/
def execLoadReadComplete (n : Nat) (s : State) : Result := act (loadRead n) s

/-- STORE_ADDRESS_NAK (R203, R209, R210). -/
def execStoreAddressNak (s : State) : Result := act failAccess s

/-- STORE_ACCESS_TIMEOUT (R203, R209, R210). -/
def execStoreAccessTimeout (s : State) : Result := act failAccess s

/-- STORE_READ (R208). -/
def execStoreRead (k : Slot) (address : BitVec 16) (length : Byte) (s : State) : Result :=
  take k (.storeRead address length)
    (storeRequest k (storeReadValid address.toNat length.toNat) (.read k address.toNat length.toNat)) s

/-- A completed store read answered with the address, the length and the bytes as they stand (R209). -/
def completeRead (s : State) : State :=
  match s.loader.op with
  | some (.read port address length) =>
    endStoreOp port .ok (leBytes 2 address ++ leBytes 1 length ++ readCells s.store address length) s
  | some (.write ..) | none => s

/-- STORE_READ_COMPLETE (R209). -/
def execStoreReadComplete (s : State) : Result := act completeRead s

/-- STORE_WRITE (R208). -/
def execStoreWrite (k : Slot) (address : BitVec 16) (length : Byte) (data : List Byte) (s : State) : Result :=
  take k (.storeWrite address length data)
    (storeRequest k (storeWriteValid address.toNat length.toNat) (.write k address.toNat data)) s

/-- A completed store write: the memory holds the new bytes, and the response carries the address and length (R210). -/
def completeWrite (s : State) : State :=
  match s.loader.op with
  | some (.write port address data) =>
    endStoreOp port .ok (leBytes 2 address ++ leBytes 1 data.length) { s with store := writeCells address data s.store }
  | some (.read ..) | none => s

/-- STORE_WRITE_COMPLETE (R210). -/
def execStoreWriteComplete (s : State) : Result := act completeWrite s

/-! ## Transactions -/

/-- SELECT_FALL (R183, R195). While the sequencer is held in reset no transaction begins (R201). -/
def execSelectFall (k : Slot) (s : State) : Result :=
  .next (s.updPort k (if s.resetHeld then Port.fallHeld else Port.fall))

/-- SELECT_RISE (R183, R192, R195). -/
def execSelectRise (k : Slot) (s : State) : Result := .next (s.updPort k Port.rise)

/-- WRITE_REQUEST (R183, R185, R193). -/
def execWriteRequest (k : Slot) (dataIn : List Bool) (s : State) : Result :=
  act (transact k TransactionKind.writeRequest.byte dataIn) s

/-- REQUEST_FRAME_END (R186 to R189). -/
def execRequestFrameEnd (k : Slot) (s : State) : Result := act (endRequestFrame k) s

/-- READ_RESPONSE (R183, R192). -/
def execReadResponse (k : Slot) (dataIn : List Bool) (s : State) : Result :=
  act (transact k TransactionKind.readResponse.byte dataIn) s

/-- READ_PORT_STATUS (R183, R194). -/
def execReadPortStatus (k : Slot) (dataIn : List Bool) (s : State) : Result :=
  act (transact k TransactionKind.readPortStatus.byte dataIn) s

/-- UNKNOWN_TRANSACTION (R183). A byte that is one of the three is no such transaction (assumption 2). -/
def execUnknownTransaction (k : Slot) (b : Byte) (dataIn : List Bool) (s : State) : Result :=
  act (fun s => if (transactionOf b).isSome then s else transact k b dataIn s) s

/-- INACTIVITY_TIMEOUT (R195). -/
def execInactivityTimeout (k : Slot) (s : State) : Result := act (fun s => s.updPort k Port.expire) s

end Sys2Proof.Machine
end

