-- ==== Sys2Proof/Machine/Dispatch.lean ====
section
/-! DEFINITION. The dispatch of a command to its meaning: one arm per command. -/

namespace Sys2Proof.Machine

/-- The effect of a command on everything but the waiting commands. -/
def exec (i : Instr) (s : State) : Host.Outcome State Fault Refusal :=
  match i with
  | .deviceReset => Sys2Proof.Machine.execDeviceReset s
  | .loadReadComplete n => Sys2Proof.Machine.execLoadReadComplete n s
  | .storeAddressNak => Sys2Proof.Machine.execStoreAddressNak s
  | .storeAccessTimeout => Sys2Proof.Machine.execStoreAccessTimeout s
  | .writeRequest k dataIn => Sys2Proof.Machine.execWriteRequest k dataIn s
  | .requestFrameEnd k => Sys2Proof.Machine.execRequestFrameEnd k s
  | .readResponse k dataIn => Sys2Proof.Machine.execReadResponse k dataIn s
  | .readPortStatus k dataIn => Sys2Proof.Machine.execReadPortStatus k dataIn s
  | .unknownTransaction k b dataIn => Sys2Proof.Machine.execUnknownTransaction k b dataIn s
  | .inactivityTimeout k => Sys2Proof.Machine.execInactivityTimeout k s
  | .openSlot k => Sys2Proof.Machine.execOpenSlot k s
  | .presetApply k => Sys2Proof.Machine.execPresetApply k s
  | .closeSlot k => Sys2Proof.Machine.execCloseSlot k s
  | .setPartition k window horizon gap retry backoff timeout attention => Sys2Proof.Machine.execSetPartition k window horizon gap retry backoff timeout attention s
  | .readPartition k => Sys2Proof.Machine.execReadPartition k s
  | .claimBoards k set => Sys2Proof.Machine.execClaimBoards k set s
  | .releaseBoards k set => Sys2Proof.Machine.execReleaseBoards k set s
  | .reprobe k set => Sys2Proof.Machine.execReprobe k set s
  | .readBoard k board => Sys2Proof.Machine.execReadBoard k board s
  | .readCabinet k => Sys2Proof.Machine.execReadCabinet k s
  | .joinGroup k group => Sys2Proof.Machine.execJoinGroup k group s
  | .leaveGroup k => Sys2Proof.Machine.execLeaveGroup k s
  | .defineClock k localNo body => Sys2Proof.Machine.execDefineClock k localNo body s
  | .deleteClock k localNo => Sys2Proof.Machine.execDeleteClock k localNo s
  | .enableClock k localNo => Sys2Proof.Machine.execEnableClock k localNo s
  | .disableClock k localNo => Sys2Proof.Machine.execDisableClock k localNo s
  | .gateClock k localNo => Sys2Proof.Machine.execGateClock k localNo s
  | .ungateClock k localNo => Sys2Proof.Machine.execUngateClock k localNo s
  | .retimeClock k localNo first second => Sys2Proof.Machine.execRetimeClock k localNo first second s
  | .readClock k localNo => Sys2Proof.Machine.execReadClock k localNo s
  | .timeReset k => Sys2Proof.Machine.execTimeReset k s
  | .setupRun k mode argument => Sys2Proof.Machine.execSetupRun k mode argument s
  | .run k => Sys2Proof.Machine.execRun k s
  | .groupRun k => Sys2Proof.Machine.execGroupRun k s
  | .pause k => Sys2Proof.Machine.execPause k s
  | .resume k => Sys2Proof.Machine.execResume k s
  | .stop k => Sys2Proof.Machine.execStop k s
  | .recover k => Sys2Proof.Machine.execRecover k s
  | .clearErrors k => Sys2Proof.Machine.execClearErrors k s
  | .setFilter k mode count logUnmatched => Sys2Proof.Machine.execSetFilter k mode count logUnmatched s
  | .setMatch k index id care enable => Sys2Proof.Machine.execSetMatch k index id care enable s
  | .setHashKeep k enable => Sys2Proof.Machine.execSetHashKeep k enable s
  | .setHashReplace k enable table => Sys2Proof.Machine.execSetHashReplace k enable table s
  | .setHashAddIds k enable count ids => Sys2Proof.Machine.execSetHashAddIds k enable count ids s
  | .setHashClear k enable => Sys2Proof.Machine.execSetHashClear k enable s
  | .readEvents k count => Sys2Proof.Machine.execReadEvents k count s
  | .storeRead k address length => Sys2Proof.Machine.execStoreRead k address length s
  | .storeReadComplete => Sys2Proof.Machine.execStoreReadComplete s
  | .storeWrite k address length data => Sys2Proof.Machine.execStoreWrite k address length data s
  | .storeWriteComplete => Sys2Proof.Machine.execStoreWriteComplete s
  | .computationEnd => Sys2Proof.Machine.execComputationEnd s
  | .groupStopTaken k => Sys2Proof.Machine.execGroupStopTaken k s
  | .settleGapExpiry k => Sys2Proof.Machine.execSettleGapExpiry k s
  | .frameSend b => Sys2Proof.Machine.execFrameSend b s
  | .receiveError b samples => Sys2Proof.Machine.execReceiveError b samples s
  | .armAck b tag => Sys2Proof.Machine.execArmAck b tag s
  | .armNak b tag cause => Sys2Proof.Machine.execArmNak b tag cause s
  | .boardDone b tag trigger stamp => Sys2Proof.Machine.execBoardDone b tag trigger stamp s
  | .flushAck b tag => Sys2Proof.Machine.execFlushAck b tag s
  | .syncAck b tag => Sys2Proof.Machine.execSyncAck b tag s
  | .boardStatus b armedThrough doneThrough trigger => Sys2Proof.Machine.execBoardStatus b armedThrough doneThrough trigger s
  | .probeReply b id depth => Sys2Proof.Machine.execProbeReply b id depth s
  | .breakEnd b => Sys2Proof.Machine.execBreakEnd b s
  | .breakRecoveryEnd b => Sys2Proof.Machine.execBreakRecoveryEnd b s
  | .responseTimeout b => Sys2Proof.Machine.execResponseTimeout b s
  | .backoffEnd b => Sys2Proof.Machine.execBackoffEnd b s
  | .resetAsserted => Sys2Proof.Machine.execResetAsserted s
  | .strobeFall k => Sys2Proof.Machine.execStrobeFall k s
  | .frameTransmissionEnd b => Sys2Proof.Machine.execFrameTransmissionEnd b s
  | .selectFall k => Sys2Proof.Machine.execSelectFall k s
  | .selectRise k => Sys2Proof.Machine.execSelectRise k s

end Sys2Proof.Machine
end

