-- ==== Sys2Proof/Safety.lean ====
section
/-! DEFINITION. What the statements are about: when a request can be taken, when no exchange is in progress, the
invariants that every step keeps, and what it means that a slot is kept apart from another. -/

namespace Sys2Proof.Machine

/-! ## Occasions -/

/-- Request `r` has been handed over by port `k` and not yet taken, and the sequencer is not held in reset. -/
abbrev Waits (s : State) (k : Slot) (r : Request) : Prop := s.resetHeld = false ∧ s.handed k = some r

/-- Request `r` waits at port `k` and partition `k` is in state `st`. -/
abbrev WaitsIn (s : State) (k : Slot) (st : PartState) (r : Request) : Prop := Waits s k r ∧ (s.part k).state = st

/-- The start-up has ended and no port works a request that is answered later. -/
def quiet (s : State) : Bool :=
  !s.resetHeld && s.loader.phase == .ready
    && allSlots.all fun k => (s.port k).work == none || (s.port k).work == some .handed

/-- Board `b` is BOUND to partition `k`, its link is not muted and has no frame open, and the sequencer is not held in
reset. -/
abbrev Linked (s : State) (k : Slot) (b : Board) : Prop :=
  s.resetHeld = false ∧ (s.board b).owner = some k ∧ (s.board b).link = .bound ∧ (s.link b).muted = false
    ∧ (s.link b).rx = .hunt

/-- State `s` with the upstream line of board `b` at rest, as it stands once a frame has been received. -/
def lineAtRest (b : Board) (s : State) : State := s.updLink b fun l => { l with rx := .hunt, upHigh := true }

/-- The request a command takes, with the port it comes from. -/
def requestOf : Instr → Option (Slot × Request)
  | .openSlot k => some (k, .openSlot)
  | .closeSlot k => some (k, .closeSlot)
  | .setPartition k w h g r b t a => some (k, .setPartition w h g r b t a)
  | .readPartition k => some (k, .readPartition)
  | .claimBoards k set => some (k, .claimBoards set)
  | .releaseBoards k set => some (k, .releaseBoards set)
  | .reprobe k set => some (k, .reprobe set)
  | .readBoard k b => some (k, .readBoard b)
  | .readCabinet k => some (k, .readCabinet)
  | .joinGroup k g => some (k, .joinGroup g)
  | .leaveGroup k => some (k, .leaveGroup)
  | .defineClock k n body => some (k, .defineClock n body)
  | .deleteClock k n => some (k, .deleteClock n)
  | .enableClock k n => some (k, .enableClock n)
  | .disableClock k n => some (k, .disableClock n)
  | .gateClock k n => some (k, .gateClock n)
  | .ungateClock k n => some (k, .ungateClock n)
  | .retimeClock k n first second => some (k, .retimeClock n first second)
  | .readClock k n => some (k, .readClock n)
  | .timeReset k => some (k, .timeReset)
  | .setupRun k mode argument => some (k, .setupRun mode argument)
  | .run k => some (k, .run)
  | .groupRun k => some (k, .groupRun)
  | .pause k => some (k, .pause)
  | .resume k => some (k, .resume)
  | .stop k => some (k, .stop)
  | .recover k => some (k, .recover)
  | .clearErrors k => some (k, .clearErrors)
  | .setFilter k mode count log => some (k, .setFilter mode count log)
  | .setMatch k i id care enable => some (k, .setMatch i id care enable)
  | .setHashKeep k enable => some (k, .setHashKeep enable)
  | .setHashReplace k enable table => some (k, .setHashReplace enable table)
  | .setHashAddIds k enable count ids => some (k, .setHashAddIds enable count ids)
  | .setHashClear k enable => some (k, .setHashClear enable)
  | .readEvents k count => some (k, .readEvents count)
  | .storeRead k address length => some (k, .storeRead address length)
  | .storeWrite k address length data => some (k, .storeWrite address length data)
  | .deviceReset | .loadReadComplete _ | .storeAddressNak | .storeAccessTimeout | .writeRequest _ _
  | .requestFrameEnd _ | .readResponse _ _ | .readPortStatus _ _ | .unknownTransaction _ _ _ | .inactivityTimeout _
  | .presetApply _ | .storeReadComplete | .storeWriteComplete | .computationEnd | .groupStopTaken _
  | .settleGapExpiry _ | .frameSend _ | .receiveError _ _ | .armAck _ _ | .armNak _ _ _ | .boardDone _ _ _ _
  | .flushAck _ _ | .syncAck _ _ | .boardStatus _ _ _ _ | .probeReply _ _ _ | .breakEnd _ | .breakRecoveryEnd _
  | .responseTimeout _ | .backoffEnd _ | .resetAsserted | .strobeFall _ | .frameTransmissionEnd _ | .selectFall _
  | .selectRise _ => none

/-- The requests that need no open slot: OPEN, REPROBE, READ_CABINET and the store requests (R189). -/
def Request.anySlot : Request → Bool
  | .openSlot | .reprobe _ | .readCabinet | .storeRead _ _ | .storeWrite _ _ _ => true
  | _ => false

/-- The requests that are taken in STOPPED alone (R14, R54, R65, R72, R73, R75, R76, R104). -/
def Request.stoppedOnly : Request → Bool
  | .setPartition _ _ _ _ _ _ _ | .claimBoards _ | .joinGroup _ | .leaveGroup | .defineClock _ _ | .deleteClock _
  | .enableClock _ | .disableClock _ | .gateClock _ | .ungateClock _ | .retimeClock _ _ _ | .timeReset
  | .setupRun _ _ | .run | .clearErrors => true
  | _ => false

/-! ## Invariants -/

/-- The queue of a partition (R92, R172, R175, R176): at most 32 records, and 32 only when the youngest is a STOP record;
a free entry while a run lasts; the drop count in range, with the overflow flag and OVERFLOW set exactly when it counts
a drop. -/
def queueInvAt (s : State) (k : Slot) : Bool :=
  let p := s.part k
  decide (p.queue.records.length ≤ Config.queueEntries)
    && (decide (p.queue.records.length < Config.queueEntries) || match p.queue.records.getLast? with
      | some (.stop ..) => true
      | _ => false)
    && (!p.state.isRun || decide (p.queue.records.length < Config.queueEntries))
    && decide (p.queue.drops ≤ Config.maxDrops) && p.queue.overflow == decide (0 < p.queue.drops)
    && p.sticky.overflow == p.queue.overflow

/-- Every event queue is as R172 to R176 say. -/
abbrev QueueInv (s : State) : Prop := ∀ k : Slot, queueInvAt s k = true

/-- The configuration memory is in its canonical form, and a write in progress lies within it (R208). -/
def storeInv (s : State) : Bool :=
  Memory.wf s.store && match s.loader.op with
    | some (.write _ address data) => decide (address + data.length ≤ Config.storeBytes)
    | some (.read ..) | none => true

/-- The configuration memory and its operation are as chapter 10 says. -/
abbrev StoreInv (s : State) : Prop := storeInv s = true

/-- A port (R184, R185, R189 to R192): a request is worked exactly in PROCESSING, a WRITE_REQUEST taken in IDLE is in
progress exactly in RECEIVING, a response is being read only in RESPONSE_READY, and at most 64 bytes are kept. -/
def portInvAt (s : State) (k : Slot) : Bool :=
  let p := s.port k
  p.work.isSome == (p.state == .processing) && (p.transaction == .writing) == (p.state == .receiving)
    && (p.transaction != .reading || p.state == .responseReady) && decide (p.request.length ≤ Config.requestBytes)

/-- The port whose store request is in progress is working it (R208). -/
def storePortInv (s : State) : Bool :=
  match s.loader.op with
  | some (.read port _ _) | some (.write port _ _) => (s.port port).work == some .storing
  | none => true

/-- Every port is as chapter 9 says. -/
abbrev PortInv (s : State) : Prop := (∀ k : Slot, portInvAt s k = true) ∧ storePortInv s = true

/-- The number of FIRED entries at the old end of a pipe. -/
def firedCount (pipe : List PipeEntry) : Nat := (pipe.takeWhile fun e => e.stage == .fired).length

/-- The shape of a pipe (R106): its entries carry consecutive step numbers, the FIRED entries are the oldest, and the
last of them is the fired frontier's. -/
def pipeShape (fired : Nat) (pipe : List PipeEntry) : Bool :=
  decide (firedCount pipe ≤ fired) && (pipe.drop (firedCount pipe)).all (fun e => e.stage != .fired)
    && pipe.map PipeEntry.number == List.range' (fired + 1 - firedCount pipe) pipe.length

/-- The pipe of a partition (R31, R47, R105, R106): it has the shape of R106 and at most Weff entries in a run, it is
empty outside a run, its frontier does not pass the stop point, and a work item that is not void continues it. A RECOVER
is worked in FAULTED alone (R102). -/
def pipeInvAt (s : State) (k : Slot) : Bool :=
  let p := s.part k
  pipeShape p.firedFrontier p.pipe && (p.state.isRun || p.pipe.isEmpty)
    && (!p.state.isRun || decide (p.pipe.length ≤ p.weff))
    && (match p.stop with
      | some point => !p.state.isRun || decide (p.frontier ≤ max point.step p.firedFrontier)
      | none => true)
    && (match s.engine.item with
      | some w => w.slot != k || w.void || (p.state.isRun && w.frontier == p.frontier && decide (p.pipe.length < p.weff))
      | none => true)
    && (!isRecovering k s || p.state == .faulted)

/-- Every step pipe is as R106 says. -/
abbrev PipeInv (s : State) : Prop := ∀ k : Slot, pipeInvAt s k = true

/-- A retime pending for a periodic or a divided clock is in the ranges of R4 or R5 (R25). -/
def retimeSound (top : Nat) : Option (Nat × Nat) → Bool
  | some (first, high) => decide (first ≤ top) && decide (0 < high) && decide (high < first)
  | none => true

/-- The waveform of a clock is in the ranges of R4 to R6, and the next edge of a periodic clock that is not OFF lies after
time `v` (R8, R41). -/
def ClockEntry.waveSound (v : Nat) (e : ClockEntry) : Bool :=
  match e.wave with
  | .periodic w =>
    decide (w.period ≤ 16777215) && decide (0 < w.high) && decide (w.high < w.period) && decide (w.phase < w.period)
      && decide (w.next < 2 ^ 50) && (e.state == .off || decide (v < w.next)) && retimeSound 16777215 w.retime
  | .divided w =>
    decide (w.divisor ≤ 256) && decide (0 < w.high) && decide (w.high < w.divisor) && decide (w.count < w.divisor)
      && retimeSound 256 w.retime

/-- The level the waveform of a clock has (R7): 1 when a periodic clock's next edge falls, or a divided clock's C is below
K. -/
def Wave.high : Wave → Bool
  | .periodic w => w.polarity == .falling
  | .divided w => decide (w.count < w.high)

/-- The level of a clock is as R7 says for its state: 0 in OFF, GATED and UNGATE_PENDING, that of the waveform in ACTIVE,
and 1 with the waveform high in GATE_PENDING and OFF_PENDING. -/
def ClockEntry.levelSound (e : ClockEntry) : Bool :=
  match e.state with
  | .off | .gated | .ungatePending => !e.level
  | .active => e.level == e.wave.high
  | .gatePending | .offPending => e.level && e.wave.high

/-- A clock in OFF holds the placeholders of R6. -/
def ClockEntry.restSound (e : ClockEntry) : Bool := e.state != .off || e.wave == e.wave.atRest

/-- A clock entry with a sound waveform after time `v`, the level of its state, and the placeholders of OFF (R4 to R8,
R41). -/
def ClockEntry.sound (v : Nat) (e : ClockEntry) : Bool := e.waveSound v && e.levelSound && e.restSound

/-- A clock state whose clocks are sound after time `v` and have different local numbers (R3). -/
def soundClocks (v : Nat) (snap : Snapshot) : Bool :=
  snap.all (ClockEntry.sound v) && decide (snap.map ClockEntry.localNo).Nodup

/-- A preset whose parameters are in the ranges that the loader checks, or that its field has by its width (R206, R214). -/
def Preset.sound (p : Preset) : Bool :=
  p.body.inRange && match p.body with
    | .periodic period _ _ => decide (period ≤ 16777215)
    | .divided _ _ _ => true

/-- The presets that a port's OPEN has still to apply; the partition stands meanwhile at time 0, out of every run and of
every group (R57, R58). -/
def openingSound (s : State) (k : Slot) : Bool :=
  match (s.port k).work with
  | some (.opening todo _ _ _ _) =>
    todo.all Preset.sound && (s.part k).vt == 0 && !(s.part k).state.isRun && (s.part k).group == none
  | _ => true

/-- The clocks of a partition in the fired state, after VT, and in each snapshot of its pipe, after the time of the entry
(R1, R2, R4 to R7, R41). -/
def clockInvAt (s : State) (k : Slot) : Bool :=
  let p := s.part k
  decide (p.vt ≤ Config.maxTime) && soundClocks p.vt p.fired
    && p.pipe.all (fun e => decide (e.time ≤ Config.maxTime) && soundClocks e.time e.post)
    && openingSound s k

/-- The presets kept so far, and those of the loaded table, are sound (R205, R206). -/
def presetInv (s : State) : Bool :=
  s.loader.presets.all Preset.sound && match s.loader.load with
    | .table _ _ kept _ _ _ => kept.all Preset.sound
    | .header _ => true

/-- The working copy of the engine's work item holds sound clocks (R34). -/
def workInv (s : State) : Bool :=
  match s.engine.item with
  | some w => soundClocks 0 w.copy
  | none => true

/-- Every copy of every clock state holds sound clocks. -/
abbrev ClockInv (s : State) : Prop :=
  (∀ k : Slot, clockInvAt s k = true) ∧ presetInv s = true ∧ workInv s = true

/-- A group stop waits only at a partition that is in a group (R60, R73, R93). -/
abbrev GroupInv (s : State) : Prop := ∀ k : Slot, (s.part k).groupStops ≠ [] → (s.part k).group ≠ none

/-! ## Slots kept apart -/

/-- The slot of a command that takes or works a request of one slot; a GROUP_RUN concerns a whole group. -/
def ownSlot (c : Instr) : Option Slot :=
  match c with
  | .groupRun _ => none
  | .presetApply k => some k
  | c => (requestOf c).map Prod.fst

/-- Slot `j` kept as it is from `s` to `t` by a command of slot `k`: its partition, to which `k` may have offered one group
stop, its port, its boards and their links, and its clock records. -/
def KeptApart (k j : Slot) (s t : State) : Prop :=
  { t.part j with groupStops := (s.part j).groupStops } = s.part j
    ∧ ((t.part j).groupStops = (s.part j).groupStops ∨ (t.part j).groupStops = (s.part j).groupStops ++ [k])
    ∧ t.port j = s.port j
    ∧ (∀ b, t.owns j b = s.owns j b)
    ∧ (∀ b, s.owns j b = true → t.board b = s.board b ∧ t.link b = s.link b)
    ∧ ∀ i r, s.record i = some r → r.owner = j → t.record i = some r

end Sys2Proof.Machine
end

