-- ==== Sys2Proof/Certificates/Slice0/Obligations.lean ====
section
/-! DEFINITION. The statements for the provers: what the commands and the machine do, from the manual's rules. Every
statement about a command ends in the next state it answers; the state is written with the model's named updates, which
leave everything else as it was (Laws/State.lean). -/

open Sys2Proof Sys2Proof.Machine

/-! ## The block as a whole -/

/-- A step takes the command at the front of the queue and has its effect on the state with the rest of the queue; on an
empty queue the block idles (the idling is the model's choice, assumption 3). -/
def Obligations.StepRunsFrontCommand : Prop :=
  (∀ (c : Instr) (s : State), step { s with pending := c :: s.pending } = exec c s)
    ∧ ∀ s : State, s.pending = [] → step s = .next s

/-- No command stops the block, and none touches the waiting commands; while the sequencer is held in reset, nothing
but a reset event and the select lines has an effect (R201). That the select lines are followed meanwhile is the
model's reading (assumption 25). -/
def Obligations.EveryCommandAnswersNextState : Prop :=
  (∀ (c : Instr) (s : State), ∃ t, exec c s = .next t ∧ t.pending = s.pending)
    ∧ ∀ (c : Instr) (s : State), s.resetHeld = true → c ≠ .deviceReset → c ≠ .resetAsserted →
      (∀ k, c ≠ .selectFall k) → (∀ k, c ≠ .selectRise k) → exec c s = .next s

/-- Every step keeps the event queues as R92, R172, R175 and R176 say: never more than 32 records, 32 only under a STOP
record, a free entry throughout a run. -/
def Obligations.StepKeepsEventQueues : Prop :=
  ∀ s s' : State, QueueInv s → step s = .next s' → QueueInv s'

/-- Every step keeps the configuration memory in its canonical form and the write in progress within it (R208). The
form is the model's (assumption 1). -/
def Obligations.StepKeepsConfigurationMemory : Prop :=
  ∀ s s' : State, StoreInv s → step s = .next s' → StoreInv s'

/-- Every step keeps the ports as R184 to R192 say: a request is worked exactly in PROCESSING. -/
def Obligations.StepKeepsPorts : Prop :=
  ∀ s s' : State, PortInv s → step s = .next s' → PortInv s'

/-- Every step keeps the step pipes as R106 says: consecutive step numbers, the FIRED entries oldest, at most Weff
entries in a run and none outside one. Every step keeps every copy of the clock state sound, in the fired state after VT,
in each snapshot of a pipe after the entry's time, and in the engine's working copy: different
local numbers, parameters in their ranges, a next edge still to come, the placeholders of OFF, and the level that R7 gives
for the clock state. Every step keeps the group stops that wait at members of a group alone (R73, R93; assumption 9). -/
def Obligations.StepKeepsStepPipes : Prop :=
  (∀ s s' : State, PipeInv s → step s = .next s' → PipeInv s')
    ∧ (∀ s s' : State, ClockInv s → step s = .next s' → ClockInv s')
    ∧ ∀ s s' : State, GroupInv s → step s = .next s' → GroupInv s'

/-- The six invariants hold after device reset. -/
def Obligations.ResetMeetsEveryInvariant : Prop :=
  QueueInv State.reset ∧ StoreInv State.reset ∧ PortInv State.reset ∧ PipeInv State.reset ∧ ClockInv State.reset
    ∧ GroupInv State.reset

/-- The jobs are kept apart: a command of one slot, GROUP_RUN apart, leaves every other slot's partition, port, boards,
links and clock records as they were; at most one group stop is offered to it (R3, R63, R93, R189, R200). The offers
waiting at a partition are the model's (assumption 9). -/
def Obligations.SlotCommandsKeepOtherSlots : Prop :=
  ∀ (c : Instr) (k j : Slot) (s t : State), ownSlot c = some k → j ≠ k → exec c s = .next t → KeptApart k j s t

/-- Every request but OPEN, REPROBE, READ_CABINET and the store requests is refused with NOT_OPEN in a CLOSED slot, and
the requests taken in STOPPED alone with WRONG_STATE in every other open state; a refusal changes nothing else (R14, R54,
R65, R72, R73, R75, R76, R104, R189, R198). -/
def Obligations.RequestsRefusedByState : Prop :=
  ∀ (c : Instr) (k : Slot) (r : Request) (s : State), requestOf c = some (k, r) → Waits s k r →
    (r.anySlot = false → (s.part k).state = .closed → exec c s = .next (refuse k .notOpen s))
    ∧ (r.stoppedOnly = true → (s.part k).state ≠ .closed → (s.part k).state ≠ .stopped →
      exec c s = .next (refuse k .wrongState s))

/-- A response frame (R191, R192, R212): the code and tag of its request, a code of FFh as 00h, the status, CLAMPED
alone in the flags, the body with its length, and a sum of 0 modulo 256; the port becomes RESPONSE_READY. -/
def Obligations.ResponseFrameBuilt : Prop :=
  ∀ (k : Slot) (status : Status) (clamped : Bool) (body : List Byte) (s : State),
    let p := (respond k status clamped body s).port k
    let code := (s.port k).request.getD 0 0
    p.state = .responseReady ∧ p.work = none ∧ p.readPosition = 0 ∧ p.overrun = (s.port k).overrun
      ∧ p.response.take 5 = [if code = 0xFF#8 then 0 else code, (s.port k).request.getD 1 0, status.code,
          if clamped then 1 else 0, BitVec.ofNat 8 body.length]
      ∧ (p.response.drop 5).take body.length = body ∧ p.response.length = body.length + 6
      ∧ sumBytes p.response = 0 ∧ p.response.head? ≠ some 0xFF#8
      ∧ ∀ j, j ≠ k → (respond k status clamped body s).port j = s.port j

/-! ## Frames -/

/-- Decoding the frame of a request gives the request, for every well-formed request and every sequence tag, and the
frame is not malformed (R186, R187, R212). -/
def Obligations.RequestFrameRoundTrip : Prop :=
  ∀ (r : Request) (seqTag : Byte), r.wellFormed = true →
    malformed (requestFrame seqTag r) false = false ∧ knownCode (byteAt (requestFrame seqTag r) 0) = true
      ∧ decodeRequest (requestFrame seqTag r) = some r

/-- Decoding the bytes of an upstream frame gives the frame; they are as many as its kind implies and sum to 0 modulo
256. A frame sent bit by bit on an upstream line at rest is received as that frame: the levels of its characters,
scanned for start bits, checked for stop bit, parity, marker and check byte, have the effect of the frame (R129 to
R133, R213). A line is sampled once a bit time (assumption 26). -/
def Obligations.SampledFrameReceived : Prop :=
  (∀ f : UpFrame, decodeUp f.bytes = some f ∧ upLength (byteAt f.bytes 0) = some f.bytes.length ∧ sumBytes f.bytes = 0)
    ∧ ∀ (b : Board) (f : UpFrame) (s : State), (s.link b).upHigh = true →
      receiveSamples b (lineBits (frameChars f.bytes)) s = receiveFrame b f s

/-! ## The step engine -/

/-- A computation from sound clocks whose edges lie after `v` gives a step later than `v` and no later than the end of
virtual time or the target, with a changed mask that is not 0, the level mask of its snapshot, and a snapshot of sound
clocks whose edges lie after the step (R36 to R43). Each instant is judged as R36 to R44 say: NO_EDGES when no periodic
clock is in ACTIVE, GATE_PENDING, UNGATE_PENDING or OFF_PENDING; otherwise, with t the smallest NE of the periodic clocks
that are not OFF, TIME when t exceeds the target, LIMIT when it exceeds 2^48 − 1 and not the target, a step at t when an
edge is issued there, and the next instant when none is. A computation of sound clocks crosses as many instants as it
needs: a greater bound on them gives the same end (assumption 22). -/
def Obligations.ComputedStepAdvancesTime : Prop :=
  (∀ (parents : List (LocalNo × LocalNo)) (target : Option Nat) (fuel v : Nat) (snap : Snapshot) (t : Nat)
    (changed level : ClockMask) (post : Snapshot), (∀ e ∈ snap, e.sound v = true) →
    computeFrom parents target fuel snap = .step t changed level post →
    v < t ∧ t ≤ Config.maxTime ∧ (∀ T, target = some T → t ≤ T) ∧ changed ≠ 0 ∧ level = levelMask post
      ∧ (∀ e ∈ post, e.sound t = true) ∧ post.map ClockEntry.localNo = snap.map ClockEntry.localNo)
  ∧ (∀ (parents : List (LocalNo × LocalNo)) (target : Option Nat) (fuel : Nat) (snap : Snapshot),
    let bound := ∃ e ∈ snap, (∃ w, e.wave = .periodic w)
      ∧ (e.state = .active ∨ e.state = .gatePending ∨ e.state = .ungatePending ∨ e.state = .offPending)
    let computed := computeFrom parents target (fuel + 1) snap
    (¬ bound → computed = .noEdges)
    ∧ ∀ t : Nat, bound → (∃ e ∈ snap, e.state ≠ .off ∧ ∃ w, e.wave = .periodic w ∧ w.next = t) →
      (∀ e ∈ snap, ∀ w, e.state ≠ .off → e.wave = .periodic w → t ≤ w.next) →
      let edges := handleInstant parents t snap
      let post := edges.map Prod.fst
      (∀ T, target = some T → T < t → computed = .time)
      ∧ ((∀ T, target = some T → t ≤ T) →
        (281474976710655 < t → computed = .limit)
        ∧ (t ≤ 281474976710655 → (∃ c ∈ edges, c.2 ≠ .none) → ∃ changed,
          computed = .step t changed (levelMask post) post
            ∧ ∀ n : LocalNo, changed.getLsbD n.val = true ↔ ∃ c ∈ edges, c.2 ≠ .none ∧ c.1.localNo = n)
        ∧ (t ≤ 281474976710655 → (∀ c ∈ edges, c.2 = .none) → computed = computeFrom parents target fuel post)))
  ∧ (∀ (snap : Snapshot) (n : LocalNo), (levelMask snap).getLsbD n.val = true ↔
    ∃ e ∈ snap, e.localNo = n ∧ e.level = true ∧ e.state ≠ .off)
  ∧ ∀ (w : WorkItem) (fuel : Nat), (∀ e ∈ w.copy, e.sound 0 = true) → Config.maxTime + 2 ≤ fuel →
    w.compute = computeFrom w.parents w.target fuel w.copy

/-- The first edge of an enabled periodic clock is the first rising edge of its phase grid strictly after the fired VT
(R19). Every later edge is handled by the clock state (R8 to R13): a periodic clock's at the time of its next edge, a
divided clock's at an issued rise of its parent, issued or suppressed as R9's table says, with a pending retime applied at
a rising edge or on entering OFF; and in one instant the divided clocks follow the periodic ones (R37, R38). -/
def Obligations.FirstEdgeIsNextOnGrid : Prop :=
  (∀ (w : PeriodicWave) (v : Nat), 0 < w.period →
    v < w.firstRise v ∧ (∃ q, w.firstRise v = w.phase + q * w.period)
      ∧ ∀ q, v < w.phase + q * w.period → w.firstRise v ≤ w.phase + q * w.period)
  ∧ (∀ (e : ClockEntry) (w : PeriodicWave) (t : Nat), e.wave = .periodic w →
    (e.state = .off ∨ w.next ≠ t → e.atInstant t = (e, .none))
    ∧ (e.state ≠ .off → w.next = t → w.polarity = .rising →
      let p : PeriodicWave := match w.retime with
        | some (period, high) => { w with period := period, high := high, phase := t % period, retime := none }
        | none => w
      let after : Wave := .periodic { p with next := t + p.high, polarity := .falling }
      (e.state = .active ∨ e.state = .ungatePending →
        e.atInstant t = ({ e with state := .active, level := true, wave := after }, .rise))
      ∧ (e.state = .gated → e.atInstant t = ({ e with wave := after }, .none)))
    ∧ (e.state ≠ .off → w.next = t → w.polarity = .falling →
      let after : Wave := .periodic { w with next := t + (w.period - w.high), polarity := .rising }
      let rest : PeriodicWave := match w.retime with
        | some (period, high) => { w with period := period, high := high, phase := w.phase % period, retime := none }
        | none => w
      (e.state = .active → e.atInstant t = ({ e with level := false, wave := after }, .fall))
      ∧ (e.state = .gatePending →
        e.atInstant t = ({ e with state := .gated, level := false, wave := after }, .fall))
      ∧ (e.state = .offPending → e.atInstant t = ({ e with
          state := .off, level := false, wave := .periodic { rest with next := 0, polarity := .rising } }, .fall))
      ∧ (e.state = .gated ∨ e.state = .ungatePending → e.atInstant t = ({ e with wave := after }, .none))))
  ∧ (∀ (e : ClockEntry) (w : DividedWave), e.wave = .divided w →
    let c := (w.count + 1) % w.divisor
    let renewed : DividedWave := match w.retime with
      | some (divisor, high) => { divisor := divisor, high := high, count := 0, retime := none }
      | none => { w with count := 0 }
    let counted : Wave := .divided { w with count := c }
    (e.state = .off → e.atParentRise = (e, .none))
    ∧ (c = 0 → (e.state = .active ∨ e.state = .ungatePending →
        e.atParentRise = ({ e with state := .active, level := true, wave := .divided renewed }, .rise))
      ∧ (e.state = .gated → e.atParentRise = ({ e with wave := .divided renewed }, .none)))
    ∧ (c ≠ 0 → c = w.high → (e.state = .active → e.atParentRise = ({ e with level := false, wave := counted }, .fall))
      ∧ (e.state = .gatePending →
        e.atParentRise = ({ e with state := .gated, level := false, wave := counted }, .fall))
      ∧ (e.state = .offPending →
        e.atParentRise = ({ e with state := .off, level := false, wave := .divided renewed }, .fall))
      ∧ (e.state = .gated ∨ e.state = .ungatePending → e.atParentRise = ({ e with wave := counted }, .none)))
    ∧ (e.state ≠ .off → c ≠ 0 → c ≠ w.high → e.atParentRise = ({ e with wave := counted }, .none)))
  ∧ ∀ (parents : List (LocalNo × LocalNo)) (t : Nat) (snap : Snapshot),
    handleInstant parents t snap = snap.map fun e => match e.wave with
      | .periodic _ => e.atInstant t
      | .divided _ => if ∃ c ∈ parents, c.1 = e.localNo ∧ ∃ p ∈ snap, p.localNo = c.2 ∧ (p.atInstant t).2 = .rise then
          e.atParentRise
        else (e, .none)

/-- A partition requests engine service exactly while the five conditions of R31 hold. An idle engine selects the first
requesting partition from the one after the last served, wrapping from 3 to 0, so that every other requester is nearer at
the next selection and at most three are served before it (R33, R35); it begins the work item of R34 for it, with the
frontier snapshot, the parents of its divided clocks (R3), the frontier, and in mode UNTIL alone the target time. With no
requester, and while a work item is in progress, nothing is selected. -/
def Obligations.RoundRobinServesRequesters : Prop :=
  (∀ p : Partition,
    (p.requests = true ↔ (p.state = .running ∨ p.state = .paused ∨ p.state = .stopping) ∧ p.pipe.length < p.weff
      ∧ (∀ point, p.stop = some point → p.frontier < point.step) ∧ p.frontier < p.runLimit ∧ p.limitFound = false)
    ∧ (p.pipe = [] → p.frontier = p.firedFrontier ∧ p.frontierSnapshot = p.fired)
    ∧ ∀ older youngest, p.pipe = older ++ [youngest] →
      p.frontier = youngest.number ∧ p.frontierSnapshot = youngest.post)
  ∧ (∀ s : State, s.engine.item ≠ none ∨ (∀ k, (s.part k).requests = false) → engineSelect s = s)
  ∧ ∀ s : State, s.engine.item = none → (∃ k, (s.part k).requests = true) →
    let ahead := fun last k : Slot => (k - last - 1).val
    ∃ (j : Slot) (parents : List (LocalNo × LocalNo)), (s.part j).requests = true
      ∧ (∀ k, (s.part k).requests = true → ahead s.engine.lastServed j ≤ ahead s.engine.lastServed k
        ∧ (k ≠ j → ahead j k < ahead s.engine.lastServed k))
      ∧ (∀ n parent, (n, parent) ∈ parents ↔ ∃ i, s.record i = some ⟨j, n, .divided parent⟩)
      ∧ engineSelect s = { s with engine := { lastServed := j, item := some {
          slot := j, copy := (s.part j).frontierSnapshot, parents := parents, frontier := (s.part j).frontier,
          target := if (s.part j).runMode = .until then some (s.part j).runArgument else none, void := false } } }

/-- The end of a computation (R47, R48, R108): the slot is emptied; a void result, or one for a partition outside its
run states, or a step above the stop point is discarded; a step is appended as an ARMING entry with an ARM at the end
of the transmit order of every board; a finding is offered at the frontier. Then the engine selects again. Every such
event ends with a selection (assumption 33). The run-limit finding (R45, R46): in a run state, with the limit-found marker
clear and the frontier at the run limit, the marker is set and the run limit offered as a stop candidate, with COUNT in
mode COUNT unclamped and LIMIT in every other case; otherwise there is no effect. -/
def Obligations.ComputationEndJudged : Prop :=
  (∀ (s : State) (k : Slot),
    let p := s.part k
    let reached := (p.state = .running ∨ p.state = .paused ∨ p.state = .stopping) ∧ p.limitFound = false
      ∧ p.frontier = p.runLimit
    (¬ reached → runLimitFinding k s = s)
    ∧ (reached → runLimitFinding k s = candidate k p.runLimit
      (if p.runMode = .count ∧ p.limitClamped = false then .count else .limit)
      (s.setPart k { p with limitFound := true })))
  ∧ ∀ (s : State) (w : WorkItem), s.resetHeld = false → s.engine.item = some w →
    let k := w.slot
    let idle : State := { s with engine := { s.engine with item := none } }
    let taken := w.void = false ∧ (s.part k).state.isRun = true
    (¬ taken → exec .computationEnd s = .next (engineSelect idle))
      ∧ (∀ t changed level post, taken → w.compute = .step t changed level post →
        (match (s.part k).stop with
          | some point => w.frontier + 1 ≤ point.step
          | none => True) →
        exec .computationEnd s = .next (engineSelect (advance k (runLimitFinding k
          ((idle.setPart k { s.part k with
              pipe := (s.part k).pipe ++ [⟨w.frontier + 1, t, changed, level, post, .arming, 0, 0⟩] }).mapLinks
            fun b l => if (s.board b).owner = some k then
              { l with order := l.order ++ [.arm (w.frontier + 1) changed level] } else l)))))
      ∧ (∀ t changed level post point, taken → w.compute = .step t changed level post → (s.part k).stop = some point →
        point.step < w.frontier + 1 → exec .computationEnd s = .next (engineSelect idle))
      ∧ (∀ r : StopReason, taken →
        (w.compute = .noEdges ∧ r = .noEdges ∨ w.compute = .time ∧ r = .time ∨ w.compute = .limit ∧ r = .limit) →
        exec .computationEnd s = .next (engineSelect (advance k (candidate k w.frontier r
          (idle.setPart k { s.part k with limitFound := true })))))

/-! ## Reset, start-up and the configuration memory -/

/-- Device reset, and the assertion of the reset pin, put every block at its reset values; the configuration memory
keeps every byte outside a write in progress (R3, R30, R52, R62, R105, R112, R134, R156, R172, R184, R201). A select
line that is low is ignored until it rises. That an assertion takes the values at once is the model's reading
(assumption 25), and so are the level an upstream line counts as before (assumption 41), the inactivity timer of a port
whose select is low (assumption 40), and that a write left unfinished keeps the bytes of its page that it does not address
(assumption 6). -/
def Obligations.DeviceResetLeavesResetValues : Prop :=
  ∀ (s : State) (held : Bool), ∃ t, exec (if held then .resetAsserted else .deviceReset) s = .next t
    ∧ t.parts = Vector.replicate 4
        { state := .closed, settings := ⟨4, 8, 24, 7, 5, 15, true⟩, weff := 4, heff := 8, runMode := .free,
          runArgument := 0, runLimit := 4294967295, limitClamped := false, firedFrontier := 0, vt := 0, fired := [],
          stop := none, also := {}, sticky := {}, group := none, syncPending := false, limitFound := false, pipe := [],
          gap := .elapsed, lastFire := false, queue := ⟨[], 0, false⟩, groupStops := [],
          filter := { mode := .off, entries := Vector.replicate 8 ⟨0, 0, false⟩, hashEnabled := false, hashTable := 0,
                      setting := 1, counter := 1, logUnmatched := false } }
    ∧ t.boards = Vector.replicate 24
        { link := .absent, owner := none, id := 0, depth := 0, counters := ⟨0, 0, 0, 0, 0⟩, cause := none }
    ∧ t.links = Vector.replicate 24 Link.reset ∧ t.pool = Vector.replicate 48 none ∧ t.engine = ⟨none, 3⟩
    ∧ t.loader.phase = .loading ∧ t.loader.op = none ∧ t.loader.status = none ∧ t.resetHeld = held
    ∧ (∀ k, t.port k =
        { state := .idle, request := [], overlong := false, response := [], readPosition := 0, overrun := false,
          inactivity := false, dataOut := [], work := none,
          transaction := if (s.port k).transaction = .none then .none else .ignored })
    ∧ ∀ a, (∀ k base data, s.loader.op = some (.write k base data) → a < base ∨ base + data.length ≤ a) →
        readCell t.store a = readCell s.store a

/-- Start-up reads (R203 to R206): a header is judged as soon as its bytes have been read; a wrong signature or version
gives DEFAULTED; a valid one gives the table reading from offset 32h; a presence byte of 00h, or the end of memory, ends
the table and LOADING with LOADED; an entry that cannot be sized or read whole is counted as skipped and ends it too; any
other entry is kept, with its absent fields filled in, or skipped, and reading goes on. The end of LOADING (R202, R207):
every board of the mask is broken, with an empty mask the phase is READY at once, and otherwise when no board of the mask
is PROBING. The defaults of a valid header are its bytes 8 to 0Eh, each brought into range as SET_PARTITION would, and its
probe mask the 24-bit value at 5 to 7 (R204, R214). What a byte that nothing has written reads as is the model's
(assumption 1), and so is the read in which an entry that would run past the end of memory is judged (assumption 31). -/
def Obligations.StartUpReadJudged : Prop :=
  (∀ (s : State) (n : Nat), s.resetHeld = false → s.loader.phase = .loading → 1 ≤ n → n ≤ 16 →
    (∀ h, s.loader.load = .header h →
      let full := h ++ readCells s.store h.length (min n (15 - h.length))
      exec (.loadReadComplete n) s = .next (
        if full.length < 15 then { s with loader := { s.loader with load := .header full } }
        else if full.take 5 = [0x46#8, 0x54#8, 0x47#8, 0x43#8, 0x01#8] then
          { s with loader := { s.loader with load := .table (headerSettings full) (headerMask full) [] 0 0x32 [] } }
        else endDefaulted s))
      ∧ (∀ settings mask kept skipped base, s.loader.load = .table settings mask kept skipped base [] →
        base < 2048 → readCell s.store base = 0 →
        exec (.loadReadComplete n) s = .next (endLoading .loaded skipped settings mask kept s))
      ∧ ∀ settings mask kept skipped base bytes, s.loader.load = .table settings mask kept skipped base bytes →
        let all := bytes ++ readCells s.store (base + bytes.length) (min n (2048 - (base + bytes.length)))
        let r := readTable (all.length + 1) ⟨kept, skipped, base, all, false⟩
        exec (.loadReadComplete n) s = .next (
          if r.ended = true then endLoading .loaded r.skipped settings mask r.kept s
          else { s with loader := { s.loader with load := .table settings mask r.kept r.skipped r.base r.bytes } }))
  ∧ (∀ (fuel : Nat) (kept : List Preset) (skipped base : Nat),
    (2048 ≤ base → readTable (fuel + 1) ⟨kept, skipped, base, [], false⟩ = ⟨kept, skipped, base, [], true⟩)
    ∧ (base < 2048 → readTable (fuel + 1) ⟨kept, skipped, base, [], false⟩ = ⟨kept, skipped, base, [], false⟩)
    ∧ (∀ rest, readTable (fuel + 1) ⟨kept, skipped, base, 0#8 :: rest, false⟩
        = ⟨kept, skipped, base, 0#8 :: rest, true⟩)
    ∧ ∀ (presence : Byte) (rest : List Byte), presence ≠ 0 →
      let bytes := presence :: rest
      (entrySize presence = none →
        readTable (fuel + 1) ⟨kept, skipped, base, bytes, false⟩ = ⟨kept, min (skipped + 1) 255, base, bytes, true⟩)
      ∧ ∀ size, entrySize presence = some size →
        (2048 < base + size →
          readTable (fuel + 1) ⟨kept, skipped, base, bytes, false⟩ = ⟨kept, min (skipped + 1) 255, base, bytes, true⟩)
        ∧ (base + size ≤ 2048 → bytes.length < size →
          readTable (fuel + 1) ⟨kept, skipped, base, bytes, false⟩ = ⟨kept, skipped, base, bytes, false⟩)
        ∧ (base + size ≤ 2048 → size ≤ bytes.length →
          (entryPreset (bytes.take size) = none → readTable (fuel + 1) ⟨kept, skipped, base, bytes, false⟩
            = readTable fuel ⟨kept, min (skipped + 1) 255, base + size, bytes.drop size, false⟩)
          ∧ ∀ p, entryPreset (bytes.take size) = some p → readTable (fuel + 1) ⟨kept, skipped, base, bytes, false⟩
            = readTable fuel ⟨kept ++ [p], skipped, base + size, bytes.drop size, false⟩))
  ∧ (∀ presence : Byte, entrySize presence =
      if presence.toNat % 4 = 1 ∧ presence.toNat < 64 then
        some (6 + (if presence.getLsbD 4 = true then 3 else 0) + (if presence.getLsbD 5 = true then 3 else 0))
      else if presence.toNat % 4 = 2 ∧ presence.toNat < 32 then
        some (6 + (if presence.getLsbD 4 = true then 2 else 0))
      else none)
  ∧ (∀ bytes : List Byte,
    let presence := bytes.getD 0 0
    let slot := (bytes.getD 1 0).toNat
    let n := (bytes.getD 2 0).toNat
    let long := presence.getLsbD 4
    (3 < slot ∨ 15 < n → entryPreset bytes = none)
    ∧ ∀ (k : Slot) (l : LocalNo), slot = k.val → n = l.val →
      (presence.toNat % 4 = 1 →
        let period := fieldAt bytes 3 3
        (period < 2 → entryPreset bytes = none)
        ∧ (2 ≤ period → entryPreset bytes = some ⟨k, l,
            .periodic period (if long = true then fieldAt bytes 6 3 else max 1 (period / 2))
              (if presence.getLsbD 5 = true then fieldAt bytes (if long = true then 9 else 6) 3 else 0),
            presence.getLsbD 2⟩))
      ∧ (presence.toNat % 4 = 2 →
        let parent := (bytes.getD 3 0).toNat
        let divisor := fieldAt bytes 4 2
        (15 < parent ∨ divisor < 2 ∨ 256 < divisor → entryPreset bytes = none)
        ∧ (parent ≤ 15 → 2 ≤ divisor → divisor ≤ 256 → entryPreset bytes = some ⟨k, l,
            .divided parent divisor (if long = true then fieldAt bytes 6 2 else max 1 (divisor / 2)),
            presence.getLsbD 2⟩)))
  ∧ (∀ h : List Byte,
    let field := fun at' : Nat => (h.getD at' 0).toNat
    headerSettings h = { window := max 1 (min 8 (field 8)), horizon := max 1 (min 15 (field 9)), gapCode := field 10,
                         retryLimit := max 1 (min 15 (field 11)), backoffLimit := min 7 (field 12),
                         timeoutCode := min 63 (field 13), attention := decide (field 14 ≠ 0) }
    ∧ (headerMask h).toNat = field 5 + 256 * field 6 + 65536 * field 7)
  ∧ (∀ (status : StoreStatus) (skipped : Nat) (d : Settings) (mask : BoardMask) (presets : List Preset) (s : State),
    let t := endLoading status skipped d mask presets s
    t.loader = { s.loader with phase := if mask = 0 then .ready else .probing, load := .header [], status := some status,
                               skipped := skipped, defaults := d, probeMask := mask, presets := presets }
    ∧ (∀ b, maskHas mask b = true →
      t.board b = { s.board b with link := .probing, cause := none } ∧ t.link b = (s.link b).beginBreak)
    ∧ (∀ b, maskHas mask b = false → t.board b = s.board b ∧ t.link b = s.link b)
    ∧ t.parts = s.parts ∧ t.ports = s.ports ∧ t.pool = s.pool ∧ t.engine = s.engine ∧ t.store = s.store)
  ∧ ∀ s : State, s.loader.phase = .probing →
    ((∃ b, maskHas s.loader.probeMask b = true ∧ (s.board b).link = .probing) → settleStartUp s = s)
    ∧ ((∀ b, maskHas s.loader.probeMask b = true → (s.board b).link ≠ .probing) →
      settleStartUp s = { s with loader := { s.loader with phase := .ready } })

/-- A failed memory operation (R203, R207, R209, R210): during the load the built-in values take effect whole and
every board is broken; a store request is answered STORE_ABSENT and the item becomes idle; after a failed write every
byte outside those addressed is as it was. That a failed write leaves the rest of its page is the model's reading
(assumption 6). -/
def Obligations.FailedMemoryOperation : Prop :=
  ∀ (s : State) (c : Instr), s.resetHeld = false → (c = .storeAddressNak ∨ c = .storeAccessTimeout) →
    (s.loader.phase = .loading → ∃ t, exec c s = .next t ∧ t.loader.phase = .probing
      ∧ t.loader.status = some .defaulted ∧ t.loader.skipped = 0 ∧ t.loader.defaults = ⟨4, 8, 24, 7, 5, 15, true⟩
      ∧ t.loader.probeMask = 0xFFFFFF#24 ∧ t.loader.presets = [] ∧ t.parts = s.parts ∧ t.ports = s.ports
      ∧ t.store = s.store
      ∧ ∀ b, t.board b = { s.board b with link := .probing, cause := none } ∧ t.link b = (s.link b).beginBreak)
    ∧ (∀ k a n, s.loader.phase ≠ .loading → s.loader.op = some (.read k a n) →
      exec c s = .next (respond k .storeAbsent false [] { s with loader := { s.loader with op := none } }))
    ∧ ∀ k base data, s.loader.phase ≠ .loading → s.loader.op = some (.write k base data) →
      ∃ t, exec c s = .next t ∧ t.loader = { s.loader with op := none }
        ∧ t.port k = (respond k .storeAbsent false [] s).port k ∧ t.parts = s.parts ∧ t.boards = s.boards
        ∧ ∀ a, a < base ∨ base + data.length ≤ a → readCell t.store a = readCell s.store a

/-- Store requests (R208 to R210): BAD_VALUE, STORE_BUSY, or the operation begun with the port in PROCESSING; a
completed read answers with the bytes as they stand, a completed write changes exactly the bytes addressed. That a
write address of 2048 or more is BAD_VALUE is the model's reading (assumption 21). -/
def Obligations.StoreRequestsWorked : Prop :=
  (∀ (s : State) (k : Slot) (address : BitVec 16) (length : Byte), Waits s k (.storeRead address length) →
    exec (.storeRead k address length) s = .next (
      if 1 ≤ length.toNat ∧ length.toNat ≤ 16 ∧ address.toNat + length.toNat ≤ 2048 then
        if s.loader.op = none then
          ({ s with loader := { s.loader with op := some (.read k address.toNat length.toNat) } } : State).setPort k
            { s.port k with work := some .storing }
        else refuse k .storeBusy s
      else refuse k .badValue s))
  ∧ (∀ (s : State) (k : Slot) (address : BitVec 16) (length : Byte) (data : List Byte),
    Waits s k (.storeWrite address length data) →
    exec (.storeWrite k address length data) s = .next (
      if 1 ≤ length.toNat ∧ length.toNat ≤ 16 ∧ address.toNat / 16 = (address.toNat + length.toNat - 1) / 16
          ∧ address.toNat < 2048 then
        if s.loader.op = none then
          ({ s with loader := { s.loader with op := some (.write k address.toNat data) } } : State).setPort k
            { s.port k with work := some .storing }
        else refuse k .storeBusy s
      else refuse k .badValue s))
  ∧ (∀ (s : State) (k : Slot) (a n : Nat), s.resetHeld = false → s.loader.op = some (.read k a n) →
    exec .storeReadComplete s = .next (respond k .ok false (leBytes 2 a ++ leBytes 1 n ++ readCells s.store a n)
      { s with loader := { s.loader with op := none } }))
  ∧ ∀ (s : State) (k : Slot) (a : Nat) (data : List Byte), s.resetHeld = false → StoreInv s →
    s.loader.op = some (.write k a data) →
    ∃ m, exec .storeWriteComplete s = .next (respond k .ok false (leBytes 2 a ++ leBytes 1 data.length)
        { s with loader := { s.loader with op := none }, store := m })
      ∧ ∀ x, readCell m x = if a ≤ x ∧ x < a + data.length then data.getD (x - a) 0 else readCell s.store x

/-! ## Controller ports -/

/-- The beginning of a transaction at a port, by its transaction byte and the port state (R183, R185, R192 to R195). The
transaction byte selects the transaction (R212); a byte is eight clock periods, most significant bit first, and one left
incomplete is not counted; data out is 0 in the transaction byte, and driven only while select is low. A transaction
carries all its bits (assumption 27). The attention line is asserted exactly while the slot is open, its queue holds a
record and the attention enable is on, and low in every other case and while held in reset (R181, R196, R201). -/
def Obligations.TransactionsBegin : Prop :=
  (∀ (s : State) (k : Slot), s.attention k = true ↔ s.resetHeld = false ∧ (s.part k).state ≠ .closed
    ∧ (s.part k).queue.records ≠ [] ∧ (s.part k).settings.attention = true)
  ∧
  (∀ (s : State) (k : Slot), s.resetHeld = false →
    let p := s.port k
    let zeros := fun n => List.replicate (8 + n) false
    (p.transaction = .none → s.drivesDataOut k = false ∧ ∃ t, exec (.selectFall k) s = .next t
      ∧ t = s.setPort k { p with transaction := .begun, inactivity := true, dataOut := [] } ∧ t.drivesDataOut k = true)
    ∧ (p.transaction = .begun →
      (∀ bits, p.state = .idle → exec (.writeRequest k bits) s = .next (s.setPort k
        { p with state := .receiving, transaction := .writing, request := (receivedBytes bits).take 64,
                 overlong := decide (64 < bits.length / 8), dataOut := zeros bits.length }))
      ∧ (∀ bits, p.state = .processing ∨ p.state = .responseReady →
        exec (.writeRequest k bits) s = .next (s.setPort k
          { p with transaction := .overrun, overrun := true, dataOut := zeros bits.length }))
      ∧ (∀ bits, p.state = .responseReady → exec (.readResponse k bits) s = .next (s.setPort k
        { p with transaction := .reading, readPosition := min (bits.length / 8) p.response.length,
                 dataOut := zeros 0 ++ (p.response.flatMap bitsOfByte ++ zeros bits.length).take bits.length }))
      ∧ (∀ bits, p.state = .idle ∨ p.state = .processing → exec (.readResponse k bits) s = .next (s.setPort k
        { p with transaction := .readingEmpty,
                 dataOut := zeros 0 ++ (List.replicate 8 true ++ zeros bits.length).take bits.length }))
      ∧ (∀ bits, exec (.readPortStatus k bits) s = .next (s.setPort k
        { p with transaction := .status, overrun := false,
                 dataOut := zeros 0 ++ ([false, false, false, false, s.attention k, p.overrun, p.state == .processing,
                   p.state == .responseReady] ++ zeros bits.length).take bits.length }))
      ∧ ∀ b bits, transactionOf b = none → exec (.unknownTransaction k b bits) s = .next (s.setPort k
        { p with transaction := .unknown, dataOut := zeros bits.length })))
  ∧ (∀ b : Byte, (transactionOf b = some .writeRequest ↔ b = 0x5A#8) ∧ (transactionOf b = some .readResponse ↔ b = 0xA5#8)
    ∧ (transactionOf b = some .readPortStatus ↔ b = 0x3C#8))
  ∧ (∀ (s : State) (k : Slot) (kind : TransactionKind) (bits : List Bool), s.resetHeld = false →
    exec (match kind with
      | .writeRequest => .writeRequest k bits
      | .readResponse => .readResponse k bits
      | .readPortStatus => .readPortStatus k bits) s = .next (transact k kind.byte bits s))
  ∧ (∀ (bytes : List Byte) (rest : List Bool), rest.length < 8 →
    receivedBytes (bytes.flatMap bitsOfByte ++ rest) = bytes)
  ∧ ∀ (b : Byte) (i : Fin 8), (bitsOfByte b)[7 - i.val]? = some (b.getLsbD i.val)

/-- The end of a transaction, by the rise of select or by the inactivity timeout (R192, R195): a response wholly shifted
out is released, any other stays; a frame being received is discarded by the timeout. The timer then stays idle until
select falls again (assumption 40). -/
def Obligations.TransactionsEnd : Prop :=
  ∀ (s : State) (k : Slot), s.resetHeld = false →
    let p := s.port k
    let released : Port := if p.readPosition = p.response.length then
      { p with state := .idle, response := [], readPosition := 0 } else { p with readPosition := 0 }
    (p.transaction = .reading →
      exec (.selectRise k) s = .next (s.setPort k { released with transaction := .none, inactivity := false }))
    ∧ (p.transaction ≠ .none → p.transaction ≠ .writing → p.transaction ≠ .reading →
      exec (.selectRise k) s = .next (s.setPort k { p with transaction := .none, inactivity := false }))
    ∧ (p.inactivity = true → p.transaction = .writing → exec (.inactivityTimeout k) s = .next (s.setPort k
      { p with state := .idle, request := [], overlong := false, transaction := .ignored, inactivity := false }))
    ∧ (p.inactivity = true → p.transaction = .reading →
      exec (.inactivityTimeout k) s = .next (s.setPort k { released with transaction := .ignored, inactivity := false }))
    ∧ (p.inactivity = true → p.transaction ≠ .writing → p.transaction ≠ .reading →
      exec (.inactivityTimeout k) s = .next (s.setPort k { p with transaction := .ignored, inactivity := false }))

/-- The judgement of a request frame (R186 to R189): BAD_FRAME, STARTING, UNKNOWN_REQUEST, BAD_FRAME for missing
fields, or the port in PROCESSING with the request handed over; a SET_HASH of an unknown operation is answered at once
(R170). The event in which that SET_HASH is answered is the model's reading (assumption 24). -/
def Obligations.RequestFrameJudged : Prop :=
  ∀ (s : State) (k : Slot), s.resetHeld = false → (s.port k).transaction = .writing →
    let p := s.port k
    let f := p.request
    let s1 := s.setPort k { p with transaction := .none, inactivity := false }
    let bad := f.length < 4 ∨ p.overlong = true ∨ 60 < (f.getD 2 0).toNat ∨ f.length ≠ (f.getD 2 0).toNat + 4
      ∨ sumBytes f ≠ 0
    (bad → exec (.requestFrameEnd k) s = .next (refuse k .badFrame s1))
    ∧ (¬ bad → s.loader.phase ≠ .ready → exec (.requestFrameEnd k) s = .next (refuse k .starting s1))
    ∧ (¬ bad → s.loader.phase = .ready → (f.getD 0 0 = 0 ∨ 0x22 < (f.getD 0 0).toNat) →
      exec (.requestFrameEnd k) s = .next (refuse k .unknownRequest s1))
    ∧ (¬ bad → s.loader.phase = .ready → f.getD 0 0 ≠ 0 → (f.getD 0 0).toNat ≤ 0x22 →
      (decodeRequest f = none → exec (.requestFrameEnd k) s = .next (refuse k .badFrame s1))
      ∧ (∀ enable operation, decodeRequest f = some (.setHashOther enable operation) →
        exec (.requestFrameEnd k) s
          = .next (refuse k (if (s.part k).state = .closed then .notOpen else .badValue) s1))
      ∧ ∀ r, decodeRequest f = some r → (∀ enable operation, r ≠ .setHashOther enable operation) →
        exec (.requestFrameEnd k) s = .next (s.setPort k
          { p with transaction := .none, inactivity := false, state := .processing, work := some .handed }))

/-! ## Partitions and settings -/

/-- OPEN and its presets (R57 to R59): the record takes the values of R52 with the loaded defaults; with no preset the
answer is given at once; each preset is applied, applied without its enable, or skipped, and counted. After the last the
answer carries the three counts, and CLAMPED and the values kept when a preset was clamped (R199). A skipped preset does not
count for CLAMPED (assumption 29), a count above 255 is answered with a free value (assumption 8), the kept values of each
clamped preset follow the counts, led by its local number (assumption 36), and group stops that still waited at the slot
are dropped (assumption 9). A preset is skipped by the checks of R15 in order, and one that is taken has the FREE record
with the lowest index and an OFF clock at the end of the clock state; an enable at v = 0 starts an OFF clock (R19, R20). -/
def Obligations.OpenAppliesPresets : Prop :=
  (∀ (s : State) (k : Slot), Waits s k .openSlot → (s.part k).state ≠ .closed →
    exec (.openSlot k) s = .next (refuse k .alreadyOpen s))
  ∧ (∀ (s : State) (k : Slot), WaitsIn s k .closed .openSlot →
    let d := s.loader.defaults
    let s1 := s.setPart k { Partition.reset with state := .stopped, settings := d, weff := d.window,
                                                 heff := max d.horizon d.window }
    let todo := s.loader.presets.filter fun p => p.slot = k
    exec (.openSlot k) s = .next (
      if todo = [] then respond k .ok false [0, 0, 0] s1
      else s1.setPort k { s.port k with work := some (.opening todo 0 0 0 []) }))
  ∧ (∀ (s : State) (k : Slot) (p : Preset) (rest : List Preset) (applied refused skipped : Nat) (clamped : List Preset),
    s.resetHeld = false → (s.port k).work = some (.opening (p :: rest) applied refused skipped clamped) →
    let d := p.body.definition
    let kept := if d.clamped = true then clamped ++ [p] else clamped
    (∀ st, definitionRecord k p.localNo d.kind s = .error st →
      exec (.presetApply k) s = .next (continueOpen k rest applied refused (skipped + 1) clamped s))
    ∧ ∀ i, definitionRecord k p.localNo d.kind s = .ok i →
      let s1 := placeClock k p.localNo d i s
      exec (.presetApply k) s = .next (
        if p.enable = true ∧ s1.parentOff k p.localNo = true then
          continueOpen k rest applied (refused + 1) skipped kept s1
        else if p.enable = true then
          continueOpen k rest (applied + 1) refused skipped kept
            (s1.setPart k { s1.part k with
              fired := updateClock p.localNo (ClockEntry.enable 0) (s1.part k).fired })
        else continueOpen k rest (applied + 1) refused skipped kept s1))
  ∧ (∀ (s : State) (k : Slot) (applied refused skipped : Nat) (clamped : List Preset),
    (∀ p rest, continueOpen k (p :: rest) applied refused skipped clamped s
      = s.setPort k { s.port k with work := some (.opening (p :: rest) applied refused skipped clamped) })
    ∧ ∃ (x y z : Byte) (n : Nat), continueOpen k [] applied refused skipped clamped s
        = respond k .ok (decide (clamped ≠ [])) ([x, y, z] ++ clamped.flatMap fun p =>
            BitVec.ofNat 8 p.localNo.val :: p.body.definition.wave.keptBytes) { s with freeCount := n }
      ∧ (applied ≤ 255 → x.toNat = applied) ∧ (refused ≤ 255 → y.toNat = refused) ∧ (skipped ≤ 255 → z.toNat = skipped)
      ∧ (applied ≤ 255 → refused ≤ 255 → skipped ≤ 255 → n = s.freeCount))
  ∧ (∀ (period high phase : Nat), 2 ≤ period → (PresetBody.periodic period high phase).definition =
      { kind := .periodic,
        wave := .periodic { period := period, high := max 1 (min (period - 1) high), phase := phase % period, next := 0,
                            polarity := .rising, retime := none },
        clamped := decide (high = 0 ∨ period ≤ high ∨ period ≤ phase) })
  ∧ (∀ (parent : LocalNo) (divisor high : Nat), 2 ≤ divisor → (PresetBody.divided parent.val divisor high).definition =
      { kind := .divided parent,
        wave := .divided { divisor := divisor, high := max 1 (min (divisor - 1) high), count := 0, retime := none },
        clamped := decide (high = 0 ∨ divisor ≤ high) })
  ∧ (∀ w : PeriodicWave,
    (Wave.periodic w).keptBytes = leBytes 3 w.period ++ leBytes 3 w.high ++ leBytes 3 w.phase)
  ∧ (∀ w : DividedWave, (Wave.divided w).keptBytes = leBytes 2 w.divisor ++ leBytes 2 w.high)
  ∧ (∀ (s : State) (k : Slot) (n : LocalNo) (kind : ClockKind),
    (findClock (s.part k).fired n ≠ none → definitionRecord k n kind s = .error .localInUse)
    ∧ (findClock (s.part k).fired n = none →
      (∀ parent, kind = .divided parent → s.periodicClock k parent = false →
        definitionRecord k n kind s = .error .parentInvalid)
      ∧ ((∀ parent, kind = .divided parent → s.periodicClock k parent = true) →
        ((∀ i, s.record i ≠ none) → definitionRecord k n kind s = .error .poolEmpty)
        ∧ ∀ i, s.record i = none → (∀ j, j < i → s.record j ≠ none) → definitionRecord k n kind s = .ok i)))
  ∧ (∀ (s : State) (k : Slot) (n : LocalNo) (d : Definition) (i : Fin 48),
    placeClock k n d i s = (s.setRecord i (some ⟨k, n, d.kind⟩)).setPart k
      { s.part k with fired := (s.part k).fired ++ [⟨n, .off, false, d.wave⟩] })
  ∧ (∀ (n : LocalNo) (f : ClockEntry → ClockEntry) (snap : Snapshot),
    updateClock n f snap = snap.map fun e => if e.localNo = n then f e else e)
  ∧ ∀ (v : Nat) (e : ClockEntry), e.enable v = match e.state with
    | .off => { e with state := .active, level := false, wave := e.wave.started v }
    | .offPending => { e with state := .active }
    | _ => e

/-- CLOSE (R60): in STOPPED and FAULTED it gives back boards, clock records and group place, empties the queue and
marks the work item void; in a run state it is refused. The clock state emptied is the model's reading (assumption
28), and so are the offers dropped that wait at the partition (assumption 9). -/
def Obligations.CloseGivesEverythingBack : Prop :=
  (∀ (s : State) (k : Slot), Waits s k .closeSlot → (s.part k).state.isRun = true →
    exec (.closeSlot k) s = .next (refuse k .wrongState s))
  ∧ ∀ (s : State) (k : Slot), Waits s k .closeSlot → (s.part k).state = .stopped ∨ (s.part k).state = .faulted →
    ∃ t, exec (.closeSlot k) s = .next t ∧ t.port k = (respond k .ok false [] s).port k
      ∧ (t.part k).state = .closed ∧ (t.part k).group = none ∧ (t.part k).groupStops = []
      ∧ (t.part k).queue.records = [] ∧ (t.part k).fired = []
      ∧ (t.part k).queue.drops = (s.part k).queue.drops ∧ (t.part k).filter = (s.part k).filter
      ∧ (t.part k).vt = (s.part k).vt ∧ t.attention k = false
      ∧ (∀ j, j ≠ k → t.part j = s.part j ∧ t.port j = s.port j)
      ∧ (∀ b, t.board b = if (s.board b).owner = some k then
          { s.board b with owner := none, link := if (s.board b).link = .bound then .idle else (s.board b).link }
        else s.board b)
      ∧ (∀ b, (s.board b).owner = some k → (t.link b).strobe = false ∧ (t.link b).muted = false)
      ∧ (∀ b, (s.board b).owner ≠ some k → t.link b = s.link b)
      ∧ (∀ i, t.record i = match s.record i with
          | some r => if r.owner = k then none else some r
          | none => none)
      ∧ (∀ w, s.engine.item = some w → t.engine.item = some (if w.slot = k then { w with void := true } else w))
      ∧ t.loader = s.loader ∧ t.store = s.store

/-- SET_PARTITION, all of R54: the refusals, the values kept, CLAMPED, and Weff and Heff recomputed (R55). The response
carries the values kept, each as wide as its field (R212), and Weff and Heff in one byte each, a width that the manual does
not state (assumption 43). -/
def Obligations.SettingsReplacedWithClamps : Prop :=
  ∀ (s : State) (k : Slot) (w h g r b t a : Byte), Waits s k (.setPartition w h g r b t a) →
    let kept : Settings :=
      { window := max 1 (min 8 w.toNat), horizon := max 1 (min 15 h.toNat), gapCode := g.toNat,
        retryLimit := max 1 (min 15 r.toNat), backoffLimit := min 7 b.toNat, timeoutCode := min 63 t.toNat,
        attention := decide (a ≠ 0) }
    let weff := weffOf kept.window ((s.ownedBoards k).map fun b => (s.board b).depth)
    let heff := max kept.horizon weff
    let clamped := decide (kept.window ≠ w.toNat ∨ kept.horizon ≠ h.toNat ∨ kept.retryLimit ≠ r.toNat
      ∨ kept.backoffLimit ≠ b.toNat ∨ kept.timeoutCode ≠ t.toNat)
    ((s.part k).state = .closed → exec (.setPartition k w h g r b t a) s = .next (refuse k .notOpen s))
    ∧ ((s.part k).state ≠ .closed → (s.part k).state ≠ .stopped →
      exec (.setPartition k w h g r b t a) s = .next (refuse k .wrongState s))
    ∧ ((s.part k).state = .stopped → exec (.setPartition k w h g r b t a) s = .next (respond k .ok clamped
        [BitVec.ofNat 8 kept.window, BitVec.ofNat 8 kept.horizon, g, BitVec.ofNat 8 kept.retryLimit,
         BitVec.ofNat 8 kept.backoffLimit, BitVec.ofNat 8 kept.timeoutCode, if a = 0 then 0 else 1,
         BitVec.ofNat 8 weff, BitVec.ofNat 8 heff]
        (s.setPart k { s.part k with settings := kept, weff := weff, heff := heff })))

/-- Weff is the least of the window setting and the depth of every board owned, and Heff the greater of the horizon
setting and Weff (R55). -/
def Obligations.EffectiveWindowIsLeast : Prop :=
  ∀ (s : State) (k : Slot),
    let p := (recompute k s).part k
    p.weff ≤ (s.part k).settings.window ∧ (∀ b, (s.board b).owner = some k → p.weff ≤ (s.board b).depth)
      ∧ (p.weff = (s.part k).settings.window ∨ ∃ b, (s.board b).owner = some k ∧ p.weff = (s.board b).depth)
      ∧ p.heff = max (s.part k).settings.horizon p.weff
      ∧ p = { s.part k with weff := p.weff, heff := p.heff }

/-- The requests that only read change nothing but their port (R27, R56, R70, R71), and answer the values as they stand:
READ_PARTITION the items of R56, READ_CABINET the part identity, the loader's outcome, the boards, the slots and the
FREE records of R71, each coded as R211 says. The bodies are laid out as assumption 23 says; Weff and Heff take one byte
each (assumption 43), and so do the depth and each receive error counter, with 2 bytes for the board ID (assumption
48). READ_CLOCK answers the 42 bytes of R214, with 0 in the fields that are not the kind's. -/
def Obligations.ReadRequestsOnlyAnswer : Prop :=
  (∀ (s : State) (k : Slot),
    let p := s.part k
    let one := fun n : Nat => BitVec.ofNat 8 n
    let flag := fun b : Bool => if b = true then 1#8 else 0#8
    (Waits s k .readPartition → p.state ≠ .closed → exec (.readPartition k) s = .next (respond k .ok false
      ([p.state.code, one p.settings.window, one p.settings.horizon, one p.settings.gapCode, one p.settings.retryLimit,
        one p.settings.backoffLimit, one p.settings.timeoutCode, flag p.settings.attention, one p.weff, one p.heff,
        p.runMode.code]
        ++ leBytes 6 p.runArgument ++ leBytes 4 p.runLimit ++ leBytes 4 p.firedFrontier ++ leBytes 6 p.vt
        ++ (match p.stop with
          | some point => [1#8] ++ leBytes 4 point.step ++ [point.primary.name.code]
          | none => [0#8, 0#8, 0#8, 0#8, 0#8, 0#8])
        ++ [p.also.byte, p.sticky.byte, ownerByte p.group, flag p.syncPending] ++ leBytes 3 (s.ownedMask k).toNat
        ++ [one p.fired.length, one p.queue.records.length] ++ leBytes 2 p.queue.drops ++ [flag p.queue.overflow]) s))
    ∧ (∀ b, maskHas (s.ownedMask k) b = true ↔ (s.board b).owner = some k)
    ∧ (Waits s k .readCabinet → exec (.readCabinet k) s = .next (respond k .ok false
      ([0x46#8, 0x48#8, 0x24#8, (match s.loader.status with
          | some .loaded => 1#8
          | some .defaulted => 2#8
          | none => 0#8), one s.loader.skipped]
        ++ ((List.finRange 24).flatMap fun b => [one b.val, (s.board b).link.code, ownerByte (s.board b).owner])
        ++ ([0, 1, 2, 3].flatMap fun j : Slot => [(s.part j).state.code, ownerByte (s.part j).group])
        ++ [one ((List.finRange 48).filter fun i => s.record i = none).length]) s))
    ∧ (∀ b : Byte, Waits s k (.readBoard b) → (s.part k).state ≠ .closed →
      (∀ i : Board, b.toNat = i.val → exec (.readBoard k b) s = .next (respond k .ok false
        ([(s.board i).link.code, ownerByte (s.board i).owner] ++ leBytes 2 (s.board i).id.toNat
          ++ [BitVec.ofNat 8 (s.board i).depth] ++ (s.board i).counters.bytes ++ [faultCode (s.board i).cause]) s))
      ∧ (23 < b.toNat → exec (.readBoard k b) s = .next (refuse k .badValue s)))
    ∧ (∀ b : Byte, Waits s k (.readClock b) → (s.part k).state ≠ .closed →
      (15 < b.toNat → exec (.readClock k b) s = .next (refuse k .badValue s))
      ∧ ∀ n : LocalNo, b.toNat = n.val →
        (findClock (s.part k).fired n = none → exec (.readClock k b) s = .next (refuse k .noSuchClock s))
        ∧ ∀ e i kind, findClock (s.part k).fired n = some e → s.clockIndex k n = some i →
          s.clockKind k n = some kind → exec (.readClock k b) s = .next (respond k .ok false
            (clockRecord i.val kind e (s.part k).vt (s.part k).firedFrontier) s)
            ∧ (clockRecord i.val kind e (s.part k).vt (s.part k).firedFrontier).length = 42))
  ∧ (∀ (index vt fired : Nat) (kind : ClockKind) (n : LocalNo) (st : ClockState) (level : Bool),
    let one := fun n : Nat => BitVec.ofNat 8 n
    let head := [one index, one n.val] ++ (match kind with
      | .periodic => [0#8, 0#8]
      | .divided parent => [1#8, one parent.val])
    let state := [(match st with
      | .off => 0#8
      | .active => 1#8
      | .gatePending => 2#8
      | .gated => 3#8
      | .ungatePending => 4#8
      | .offPending => 5#8), if level = true then 1#8 else 0#8]
    let pending := fun retime : Option (Nat × Nat) => match retime with
      | some (first, high) => [1#8] ++ leBytes 3 first ++ leBytes 3 high
      | none => [0#8, 0#8, 0#8, 0#8, 0#8, 0#8, 0#8]
    (∀ w : PeriodicWave, clockRecord index kind ⟨n, st, level, .periodic w⟩ vt fired
      = head ++ leBytes 3 w.period ++ leBytes 3 w.high ++ leBytes 3 w.phase ++ state ++ leBytes 7 w.next
        ++ [if w.polarity = .rising then 0#8 else 1#8, 0#8, 0#8] ++ pending w.retime ++ leBytes 6 vt ++ leBytes 4 fired)
    ∧ ∀ w : DividedWave, clockRecord index kind ⟨n, st, level, .divided w⟩ vt fired
      = head ++ leBytes 3 w.divisor ++ leBytes 3 w.high ++ [0#8, 0#8, 0#8] ++ state
        ++ [0#8, 0#8, 0#8, 0#8, 0#8, 0#8, 0#8, 0#8] ++ leBytes 2 w.count ++ pending w.retime ++ leBytes 6 vt
        ++ leBytes 4 fired)
  ∧ (∀ (width n : Nat), leBytes 0 n = [] ∧ leBytes (width + 1) n = BitVec.ofNat 8 n :: leBytes width (n / 256))
  ∧ [PartState.closed, .stopped, .running, .paused, .stopping, .faulted].map PartState.code = [0, 1, 2, 3, 4, 5]
  ∧ [LinkState.absent, .probing, .idle, .syncing, .bound, .failed].map LinkState.code = [0, 1, 2, 3, 4, 5]
  ∧ [RunMode.free, .count, .until].map RunMode.code = [0, 1, 2]
  ∧ [Reason.controller, .trigger, .group, .count, .time, .noEdges, .limit, .fault].map Reason.code
    = [1, 2, 3, 4, 5, 6, 7, 8]
  ∧ [none, some .timeout, some .retries, some .sequence].map faultCode = [0, 1, 2, 3]
  ∧ (∀ c : RxCounters, c.bytes = [BitVec.ofNat 8 c.parity, BitVec.ofNat 8 c.framing, BitVec.ofNat 8 c.orphan,
    BitVec.ofNat 8 c.length, BitVec.ofNat 8 c.check])
  ∧ (∀ k : Slot, ownerByte (some k) = BitVec.ofNat 8 k.val) ∧ ownerByte (none : Option Slot) = 0xFF#8
  ∧ (∀ g : Group, ownerByte (some g) = BitVec.ofNat 8 g.val) ∧ ownerByte (none : Option Group) = 0xFF#8
  ∧ (∀ e : StickyErrors, ∀ i, i < 8 → (e.byte.getLsbD i = true ↔
    i = 0 ∧ e.linkFault = true ∨ i = 1 ∧ e.sequence = true ∨ i = 2 ∧ e.overflow = true))
  ∧ ∀ set : ReasonSet, ∀ i, i < 8 → (set.byte.getLsbD i = true ↔
    i = 0 ∧ set.controller = true ∨ i = 1 ∧ set.trigger = true ∨ i = 2 ∧ set.group = true ∨ i = 3 ∧ set.count = true
      ∨ i = 4 ∧ set.time = true ∨ i = 5 ∧ set.noEdges = true ∨ i = 6 ∧ set.limit = true ∨ i = 7 ∧ set.fault = true)

/-! ## Boards and groups -/

/-- CLAIM_BOARDS in STOPPED (R65, R66): the checks in order, all or nothing; a set already owned is answered at once;
the new boards are owned and SYNCING with a SYNC to the fired state, their counters 0; Weff is the least of the window
setting and the depths owned. The claim is answered when every new board is BOUND or FAILED, or has been dropped, with the
three masks, Weff and Heff. Queueing a SYNC with a next step n (R127, R134) puts it at the end of the transmit order, sets
A and D to n, and clears the two counts, the poll mark, POLL outstanding, both markers, the retry counter, the discarded
range and the flush-pending flag; it takes this effect as it is queued (assumption 15), and what was sent before counts no
more (assumption 13). Weff and Heff take one byte each in a response (assumption 43). -/
def Obligations.ClaimTakesBoardsOver : Prop :=
  (∀ (l : Link) (n : Nat) (level : ClockMask), l.queueSync n level = { l with
    order := l.order ++ [.sync n level], nextAck := some n, nextDone := some n, armsOut := 0, donesOut := 0,
    pollMark := none, pollOut := false, expiry := false, loss := false, retries := 0, discarded := none,
    flushPending := false, sentThrough := n - 1, flushSent := false, pollAfterFlush := false })
  ∧
  (∀ (s : State) (k : Slot) (set : BoardMask), WaitsIn s k .stopped (.claimBoards set) →
    let other := fun b => maskHas set b && (s.board b).owner.isSome && (s.board b).owner != some k
    let absent := fun b => maskHas set b && (s.board b).owner.isNone
      && ((s.board b).link == .absent || (s.board b).link == .failed)
    let busy := fun b => maskHas set b && (s.board b).link == .probing
    let fresh := set &&& ~~~(s.ownedMask k)
    let already := set &&& s.ownedMask k
    let next := (s.part k).firedFrontier + 1
    (set = 0 → exec (.claimBoards k set) s = .next (refuse k .badValue s))
    ∧ (maskWhere other ≠ 0 →
      exec (.claimBoards k set) s = .next (respond k .boardTaken false (maskBytes (maskWhere other)) s))
    ∧ (set ≠ 0 → maskWhere other = 0 → maskWhere absent ≠ 0 →
      exec (.claimBoards k set) s = .next (respond k .boardAbsent false (maskBytes (maskWhere absent)) s))
    ∧ (set ≠ 0 → maskWhere other = 0 → maskWhere absent = 0 → maskWhere busy ≠ 0 →
      exec (.claimBoards k set) s = .next (respond k .boardBusy false (maskBytes (maskWhere busy)) s))
    ∧ (set ≠ 0 → maskWhere other = 0 → maskWhere absent = 0 → maskWhere busy = 0 →
      (fresh = 0 → exec (.claimBoards k set) s = .next (respond k .ok false
        (maskBytes 0 ++ maskBytes already ++ maskBytes 0
          ++ [BitVec.ofNat 8 (s.part k).weff, BitVec.ofNat 8 (s.part k).heff]) s))
      ∧ (fresh ≠ 0 → ∃ t, exec (.claimBoards k set) s = .next t
        ∧ (∀ b, maskHas fresh b = true →
          t.board b = { s.board b with owner := some k, link := .syncing, counters := ⟨0, 0, 0, 0, 0⟩ }
          ∧ t.link b = (s.link b).queueSync next (levelMask (s.part k).fired))
        ∧ (∀ b, maskHas fresh b = false → t.board b = s.board b ∧ t.link b = s.link b)
        ∧ t.part k = { s.part k with syncPending := true, weff := (t.part k).weff, heff := (t.part k).heff }
        ∧ (∀ b, t.owns k b = true → (t.part k).weff ≤ (s.board b).depth)
        ∧ (t.part k).weff ≤ (s.part k).settings.window
        ∧ ((t.part k).weff = (s.part k).settings.window
          ∨ ∃ b, t.owns k b = true ∧ (t.part k).weff = (s.board b).depth)
        ∧ (t.part k).heff = max (s.part k).settings.horizon (t.part k).weff
        ∧ t.port k = { s.port k with work := some (.claiming fresh already 0) }
        ∧ (∀ j, j ≠ k → t.part j = s.part j ∧ t.port j = s.port j)
        ∧ t.engine = s.engine ∧ t.pool = s.pool ∧ t.loader = s.loader ∧ t.store = s.store)))
  ∧ ∀ (s : State) (k : Slot) (fresh already failed : BoardMask), (s.port k).work = some (.claiming fresh already failed) →
    let ended := fun b => maskHas failed b = true ∨ (s.board b).link = .bound ∨ (s.board b).link = .failed
    ((∃ b, maskHas fresh b = true ∧ ¬ ended b) → settlePort k s = s)
    ∧ ((∀ b, maskHas fresh b = true → ended b) → settlePort k s = respond k .ok false
      (maskBytes (maskWhere fun b => maskHas fresh b && ((s.board b).owner == some k && (s.board b).link == .bound))
        ++ maskBytes already ++ maskBytes failed
        ++ [BitVec.ofNat 8 (s.part k).weff, BitVec.ofNat 8 (s.part k).heff])
      (s.setPart k { s.part k with syncPending := false }))

/-- RELEASE_BOARDS in STOPPED and FAULTED (R68): BAD_VALUE for an empty set or a board not owned; otherwise the boards
become unowned, a BOUND board IDLE, and Weff and Heff are recomputed (R55): Weff is the least of the window setting and
the depths of the boards still owned, Heff the greater of the horizon setting and Weff. The transmit orders emptied
(assumption 28), a backoff that runs on (assumption 45), the mask of the refusal of an empty set (assumption 23), and one
byte each for Weff and Heff in a response (assumption 43) are the model's readings. -/
def Obligations.ReleaseMakesBoardsUnowned : Prop :=
  ∀ (s : State) (k : Slot) (set : BoardMask), Waits s k (.releaseBoards set) →
    let foreign := set &&& ~~~(s.ownedMask k)
    ((s.part k).state.isRun = true → exec (.releaseBoards k set) s = .next (refuse k .wrongState s))
    ∧ ((s.part k).state = .stopped ∨ (s.part k).state = .faulted →
      (set = 0 ∨ foreign ≠ 0 →
        exec (.releaseBoards k set) s = .next (respond k .badValue false (maskBytes foreign) s))
      ∧ (set ≠ 0 → foreign = 0 → ∃ t, exec (.releaseBoards k set) s = .next t
        ∧ (∀ b, t.board b = if maskHas set b = true then
            { s.board b with owner := none, link := if (s.board b).link = .bound then .idle else (s.board b).link }
          else s.board b)
        ∧ (∀ b, maskHas set b = true →
          t.link b = { s.link b with muted := false, strobe := false, order := [] })
        ∧ (∀ b, maskHas set b = false → t.link b = s.link b)
        ∧ t.part k = { s.part k with weff := (t.part k).weff, heff := (t.part k).heff }
        ∧ (t.part k).weff ≤ (s.part k).settings.window
        ∧ (∀ b, (s.board b).owner = some k → maskHas set b = false → (t.part k).weff ≤ (s.board b).depth)
        ∧ ((t.part k).weff = (s.part k).settings.window
          ∨ ∃ b, (s.board b).owner = some k ∧ maskHas set b = false ∧ (t.part k).weff = (s.board b).depth)
        ∧ (t.part k).heff = max (s.part k).settings.horizon (t.part k).weff
        ∧ t.port k = (respond k .ok false (maskBytes (s.ownedMask k &&& ~~~set)
            ++ [BitVec.ofNat 8 (t.part k).weff, BitVec.ofNat 8 (t.part k).heff]) s).port k
        ∧ (∀ j, j ≠ k → t.part j = s.part j ∧ t.port j = s.port j)
        ∧ t.engine = s.engine ∧ t.pool = s.pool ∧ t.loader = s.loader ∧ t.store = s.store))

/-- REPROBE (R69), whether or not the slot is open: the checks in order; otherwise every board of the set is PROBING
with fault cause none and its link begins a break: every item of R134 at its reset value, the receive assembly in
DISCARD, muting ended, the strobe low, and the line low at once or after the frame in transmission (R131, R136, R149,
R150). Each board's probe that ends is noted as found or absent, and when all
have, the answer carries the boards found, each one's ID and depth, and the boards absent. The masks of the refusals are
read as assumption 23 says, the widths of ID and depth as assumption 48 says; the first end of a board is the one noted
(assumption 49). -/
def Obligations.ReprobeBreaksUnownedBoards : Prop :=
  (∀ (s : State) (k : Slot) (set : BoardMask), Waits s k (.reprobe set) →
    let owned := maskWhere fun b => maskHas set b && (s.board b).owner.isSome
    let busy := maskWhere fun b => maskHas set b && (s.board b).link == .probing
    (set = 0 → exec (.reprobe k set) s = .next (respond k .badValue false (maskBytes 0) s))
    ∧ (owned ≠ 0 → exec (.reprobe k set) s = .next (respond k .boardTaken false (maskBytes owned) s))
    ∧ (set ≠ 0 → owned = 0 → busy ≠ 0 →
      exec (.reprobe k set) s = .next (respond k .boardBusy false (maskBytes busy) s))
    ∧ (set ≠ 0 → owned = 0 → busy = 0 → ∃ t, exec (.reprobe k set) s = .next t
      ∧ (∀ b, maskHas set b = true → t.board b = { s.board b with link := .probing, cause := none }
        ∧ t.link b = {
            order := [], sending := (s.link b).sending, nextAck := none, nextDone := none, armsOut := 0, donesOut := 0,
            pollMark := none, pollOut := false, expiry := false, loss := false, timer := .stopped, retries := 0,
            backoff := .idle, rx := .discard, muted := false, discarded := none, flushPending := false,
            breakPhase := if (s.link b).sending.isSome then .waitingForFrame else .low, strobe := false,
            upHigh := (s.link b).upHigh, sentThrough := 0, flushSent := false, pollAfterFlush := false })
      ∧ (∀ b, maskHas set b = false → t.board b = s.board b ∧ t.link b = s.link b)
      ∧ t.port k = { s.port k with work := some (.reprobing set 0 0) }
      ∧ (∀ j, j ≠ k → t.port j = s.port j) ∧ t.parts = s.parts ∧ t.engine = s.engine ∧ t.pool = s.pool
      ∧ t.loader = s.loader ∧ t.store = s.store))
  ∧ ∀ (s : State) (k : Slot) (set found absent : BoardMask), (s.port k).work = some (.reprobing set found absent) →
    (∀ (b : Board) (answered : Bool),
      let waits := maskHas set b && !maskHas found b && !maskHas absent b
      (noteProbe b answered s).port k = { s.port k with work := some (.reprobing set
        (if waits && answered then found ||| BitVec.twoPow 24 b.val else found)
        (if waits && !answered then absent ||| BitVec.twoPow 24 b.val else absent)) }
      ∧ (noteProbe b answered s).boards = s.boards ∧ (noteProbe b answered s).links = s.links
      ∧ (noteProbe b answered s).parts = s.parts)
    ∧ (set ≠ found ||| absent → settlePort k s = s)
    ∧ (set = found ||| absent → settlePort k s = respond k .ok false (maskBytes found
      ++ boardList (fun b => leBytes 2 (s.board b).id.toNat ++ [BitVec.ofNat 8 (s.board b).depth]) (maskBoards found)
      ++ maskBytes absent) s)

/-- JOIN_GROUP and LEAVE_GROUP in STOPPED (R72, R73). A JOIN_GROUP for the group already joined carries its membership too
(assumption 23). A group stop that waits at the partition that leaves reaches it no more (R93; assumption 9). -/
def Obligations.GroupMembershipChanges : Prop :=
  ∀ (s : State) (k : Slot),
    (∀ b : Byte, WaitsIn s k .stopped (.joinGroup b) →
      (1 < b.toNat → exec (.joinGroup k b) s = .next (refuse k .badValue s))
      ∧ ∀ g : Group, b.toNat = g.val →
        (∀ other, (s.part k).group = some other → other ≠ g →
          exec (.joinGroup k b) s = .next (refuse k .groupMismatch s))
        ∧ ((s.part k).group = none ∨ (s.part k).group = some g →
          let t := s.setPart k { s.part k with group := some g }
          exec (.joinGroup k b) s
            = .next (respond k .ok false [memberMask fun j => (t.part j).group == some g] t)))
    ∧ (WaitsIn s k .stopped .leaveGroup →
      ((s.part k).group = none → exec (.leaveGroup k) s = .next (respond k .ok false [] s))
      ∧ ((s.part k).group ≠ none → exec (.leaveGroup k) s
        = .next (respond k .ok false [] (s.setPart k { s.part k with group := none, groupStops := [] }))))

/-! ## Clocks -/

/-- DEFINE_CLOCK and DELETE_CLOCK in STOPPED (R15 to R18, R61): the checks in order, the clamps, the FREE record with the
lowest index taken, or the record freed. The body of DEFINE_CLOCK is the pool index, in one byte (assumption 48), and then
the values kept, each as wide as its field in the request (R199, R212; assumption 36). A parent must be a periodic clock of
the partition (R15), and a clock that a divided clock of the partition names as parent is not deleted (R18). -/
def Obligations.ClocksDefinedAndDeleted : Prop :=
  (∀ (snap : Snapshot) (n : LocalNo), findClock snap n = snap.find? fun e => e.localNo = n)
  ∧ (∀ (s : State) (k : Slot) (n : LocalNo),
    (s.periodicClock k n = true ↔ ∃ e w, findClock (s.part k).fired n = some e ∧ e.wave = .periodic w)
    ∧ (s.hasChild k n = true ↔ ∃ i m, s.record i = some ⟨k, m, .divided n⟩)
    ∧ ∀ i, s.clockIndex k n = some i ↔ (∃ kind, s.record i = some ⟨k, n, kind⟩)
      ∧ ∀ j, j < i → ∀ kind, s.record j ≠ some ⟨k, n, kind⟩)
  ∧
  (∀ (s : State) (k : Slot) (b : Byte) (body : ClockBody), WaitsIn s k .stopped (.defineClock b body) →
    (15 < b.toNat ∨ definitionOf body = none → exec (.defineClock k b body) s = .next (refuse k .badValue s))
    ∧ ∀ (n : LocalNo) (d : Definition), b.toNat = n.val → definitionOf body = some d →
      (∀ e, findClock (s.part k).fired n = some e → exec (.defineClock k b body) s = .next (refuse k .localInUse s))
      ∧ (findClock (s.part k).fired n = none → ∀ parent, d.kind = .divided parent → s.periodicClock k parent = false →
        exec (.defineClock k b body) s = .next (refuse k .parentInvalid s))
      ∧ (findClock (s.part k).fired n = none →
        (∀ parent, d.kind = .divided parent → s.periodicClock k parent = true) →
        ((∀ i, s.record i ≠ none) → exec (.defineClock k b body) s = .next (refuse k .poolEmpty s))
        ∧ ∀ i, s.record i = none → (∀ j, j < i → s.record j ≠ none) →
          exec (.defineClock k b body) s = .next (respond k .ok d.clamped (BitVec.ofNat 8 i.val :: match d.wave with
              | .periodic w => leBytes 3 w.period ++ leBytes 3 w.high ++ leBytes 3 w.phase
              | .divided w => leBytes 2 w.divisor ++ leBytes 2 w.high)
            ((s.setRecord i (some ⟨k, n, d.kind⟩)).setPart k { s.part k with
              fired := (s.part k).fired ++ [⟨n, .off, false, d.wave⟩] }))))
  ∧ (∀ (period high phase : BitVec 24), 2 ≤ period.toNat →
    definitionOf (.periodic period high phase) = some
      { kind := .periodic,
        wave := .periodic { period := period.toNat, high := max 1 (min (period.toNat - 1) high.toNat),
                            phase := phase.toNat % period.toNat, next := 0, polarity := .rising, retime := none },
        clamped := decide (high.toNat = 0 ∨ period.toNat ≤ high.toNat ∨ period.toNat ≤ phase.toNat) })
  ∧ (∀ (parent : Byte) (n : LocalNo) (divisor high : BitVec 16), parent.toNat = n.val → 2 ≤ divisor.toNat →
    divisor.toNat ≤ 256 → definitionOf (.divided parent divisor high) = some
      { kind := .divided n,
        wave := .divided { divisor := divisor.toNat, high := max 1 (min (divisor.toNat - 1) high.toNat), count := 0,
                           retime := none },
        clamped := decide (high.toNat = 0 ∨ divisor.toNat ≤ high.toNat) })
  ∧ (∀ (period high phase : BitVec 24), period.toNat < 2 → definitionOf (.periodic period high phase) = none)
  ∧ (∀ (parent : Byte) (divisor high : BitVec 16), 15 < parent.toNat ∨ divisor.toNat < 2 ∨ 256 < divisor.toNat →
    definitionOf (.divided parent divisor high) = none)
  ∧ (∀ kind : Byte, definitionOf (.unknownKind kind) = none)
  ∧ (∀ (s : State) (k : Slot) (b : Byte), WaitsIn s k .stopped (.deleteClock b) →
    (15 < b.toNat → exec (.deleteClock k b) s = .next (refuse k .badValue s))
    ∧ ∀ n : LocalNo, b.toNat = n.val → findClock (s.part k).fired n = none →
      exec (.deleteClock k b) s = .next (refuse k .noSuchClock s))
  ∧ ∀ (s : State) (k : Slot) (b : Byte) (n : LocalNo) (e : ClockEntry), WaitsIn s k .stopped (.deleteClock b) →
    b.toNat = n.val → findClock (s.part k).fired n = some e →
    (e.state ≠ .off → exec (.deleteClock k b) s = .next (refuse k .wrongClockState s))
    ∧ (e.state = .off → s.hasChild k n = true → exec (.deleteClock k b) s = .next (refuse k .dependentClocks s))
    ∧ (e.state = .off → s.hasChild k n = false → ∀ i, s.clockIndex k n = some i →
      exec (.deleteClock k b) s = .next (respond k .ok false [] ((s.setRecord i none).setPart k
        { s.part k with fired := (s.part k).fired.filter fun c => c.localNo ≠ n })))

/-- ENABLE_CLOCK, DISABLE_CLOCK, GATE_CLOCK and UNGATE_CLOCK in STOPPED: BAD_VALUE for a local number above 15,
NO_SUCH_CLOCK for one without a clock, and otherwise by the state of the clock: the table of R14 with R19 to R24. A clock
whose parent is OFF or OFF_PENDING is not enabled (R20), and one with a child that is not OFF is not disabled (R22). A clock
enabled takes the first rise of its grid, or the count N − 1 (R19, R20); one that enters OFF has its pending retime applied
and takes the placeholders of R6 (R13). -/
def Obligations.ClockRequestTable : Prop :=
  (∀ (s : State) (k : Slot) (n : LocalNo),
    (s.parentOff k n = true ↔ ∃ i parent, s.clockIndex k n = some i ∧ s.record i = some ⟨k, n, .divided parent⟩
      ∧ ∀ e, findClock (s.part k).fired parent = some e → e.state = .off ∨ e.state = .offPending)
    ∧ (s.hasLiveChild k n = true ↔ ∃ i m e, s.record i = some ⟨k, m, .divided n⟩
      ∧ findClock (s.part k).fired m = some e ∧ e.state ≠ .off))
  ∧ (∀ (v : Nat) (w : PeriodicWave), (Wave.periodic w).started v
    = .periodic { w with next := w.firstRise v, polarity := .rising })
  ∧ (∀ (v : Nat) (w : DividedWave), (Wave.divided w).started v = .divided { w with count := w.divisor - 1 })
  ∧ (∀ (e : ClockEntry) (w : PeriodicWave), e.wave = .periodic w → e.enterOff = { e with
    state := .off, level := false, wave := match w.retime with
      | some (period, high) => .periodic
          { period := period, high := high, phase := w.phase % period, next := 0, polarity := .rising, retime := none }
      | none => .periodic { w with next := 0, polarity := .rising } })
  ∧ (∀ (e : ClockEntry) (w : DividedWave), e.wave = .divided w → e.enterOff = { e with
    state := .off, level := false, wave := match w.retime with
      | some (divisor, high) => .divided { divisor := divisor, high := high, count := 0, retime := none }
      | none => .divided { w with count := 0 } })
  ∧
  (∀ (s : State) (k : Slot) (b : Byte) (c : Instr) (r : Request), (s.part k).state = .stopped → Waits s k r →
    (c = .enableClock k b ∧ r = .enableClock b ∨ c = .disableClock k b ∧ r = .disableClock b
      ∨ c = .gateClock k b ∧ r = .gateClock b ∨ c = .ungateClock k b ∧ r = .ungateClock b) →
    (15 < b.toNat → exec c s = .next (refuse k .badValue s))
    ∧ ∀ n : LocalNo, b.toNat = n.val → findClock (s.part k).fired n = none →
      exec c s = .next (refuse k .noSuchClock s))
  ∧ ∀ (s : State) (k : Slot) (b : Byte) (n : LocalNo) (e : ClockEntry), (s.part k).state = .stopped → b.toNat = n.val →
    findClock (s.part k).fired n = some e →
    let put := fun f : ClockEntry → ClockEntry => respond k .ok false []
      (s.setPart k { s.part k with fired := (s.part k).fired.map fun c => if c.localNo = n then f c else c })
    (Waits s k (.enableClock b) → exec (.enableClock k b) s = .next (
      if e.state = .off ∧ s.parentOff k n = true then refuse k .parentOff s
      else put fun c => match c.state with
        | .off => { c with state := .active, level := false, wave := c.wave.started (s.part k).vt }
        | .offPending => { c with state := .active }
        | _ => c))
    ∧ (Waits s k (.disableClock b) → exec (.disableClock k b) s = .next (
      if e.state ≠ .off ∧ e.state ≠ .offPending ∧ s.hasLiveChild k n = true then refuse k .dependentClocks s
      else put fun c => match c.state, c.level with
        | .off, _ | .offPending, _ => c
        | _, true => { c with state := .offPending }
        | _, false => c.enterOff))
    ∧ (Waits s k (.gateClock b) → exec (.gateClock k b) s = .next (
      if e.state = .off ∨ e.state = .offPending then refuse k .wrongClockState s
      else put fun c => match c.state, c.level with
        | .active, true => { c with state := .gatePending }
        | .active, false | .ungatePending, _ => { c with state := .gated }
        | _, _ => c))
    ∧ (Waits s k (.ungateClock b) → exec (.ungateClock k b) s = .next (
      if e.state = .off ∨ e.state = .offPending then refuse k .wrongClockState s
      else put fun c => match c.state with
        | .gated => { c with state := .ungatePending }
        | .gatePending => { c with state := .active }
        | _ => c))

/-- RETIME_CLOCK in STOPPED (R14, R25, R26): BAD_VALUE for a local number above 15, NO_SUCH_CLOCK for one without a clock,
and otherwise applied at once in OFF, pending in every other state. The body holds the values kept, each as wide as its
field in the request, and for a periodic clock its phase as the request leaves it (R199, R212; assumption 36). -/
def Obligations.ClockRetimed : Prop :=
  (∀ (s : State) (k : Slot) (b : Byte) (first second : BitVec 24), WaitsIn s k .stopped (.retimeClock b first second) →
    (15 < b.toNat → exec (.retimeClock k b first second) s = .next (refuse k .badValue s))
    ∧ ∀ n : LocalNo, b.toNat = n.val → findClock (s.part k).fired n = none →
      exec (.retimeClock k b first second) s = .next (refuse k .noSuchClock s))
  ∧ ∀ (s : State) (k : Slot) (b : Byte) (n : LocalNo) (e : ClockEntry) (first second : BitVec 24),
    WaitsIn s k .stopped (.retimeClock b first second) → b.toNat = n.val → findClock (s.part k).fired n = some e →
    (s.part k).fired.filter (fun c => c.localNo = n) = [e] →
    let put := fun (clamped : Bool) (body : List Byte) (w : Wave) => respond k .ok clamped body
      (s.setPart k { s.part k with
        fired := (s.part k).fired.map fun c => if c.localNo = n then { c with wave := w } else c })
    (∀ w, e.wave = .periodic w →
      let p := first.toNat
      let h := max 1 (min (p - 1) second.toNat)
      exec (.retimeClock k b first second) s = .next (
        if p < 2 then refuse k .badValue s
        else if e.state = .off then
          put (decide (h ≠ second.toNat ∨ w.phase % p ≠ w.phase)) (leBytes 3 p ++ leBytes 3 h ++ leBytes 3 (w.phase % p))
            (.periodic { w with period := p, high := h, phase := w.phase % p })
        else put (decide (h ≠ second.toNat)) (leBytes 3 p ++ leBytes 3 h ++ leBytes 3 w.phase)
          (.periodic { w with retime := some (p, h) })))
    ∧ (∀ w, e.wave = .divided w →
      let d := first.toNat % 65536
      let h := max 1 (min (d - 1) (second.toNat % 65536))
      exec (.retimeClock k b first second) s = .next (
        if d < 2 ∨ 256 < d then refuse k .badValue s
        else if e.state = .off then
          put (decide (h ≠ second.toNat % 65536)) (leBytes 3 d ++ leBytes 3 h)
            (.divided { w with divisor := d, high := h })
        else put (decide (h ≠ second.toNat % 65536)) (leBytes 3 d ++ leBytes 3 h)
          (.divided { w with retime := some (d, h) })))

/-- TIME_RESET in STOPPED (R28, R29): time 0, every clock re-established in the three steps of R28, and every owned board
sent a SYNC with next tag 1 and level mask 0; with no board the answer is given at once, and otherwise when no owned board
is SYNCING, with the list of the boards that failed. The SYNC takes its effect on the link as it is queued (assumption
15), and the list alone shows the partition FAULTED (assumption 37). -/
def Obligations.TimeResetSyncsBoards : Prop :=
  (∀ (s : State) (k : Slot), WaitsIn s k .stopped .timeReset →
    let p : Partition := { s.part k with vt := 0, firedFrontier := 0,
                                         fired := (s.part k).fired.map ClockEntry.timeReset }
    ((∀ b, (s.board b).owner ≠ some k) → exec (.timeReset k) s = .next (respond k .ok false []
      (s.setPart k { p with syncPending := false })))
    ∧ ((∃ b, (s.board b).owner = some k) → ∃ t, exec (.timeReset k) s = .next t
      ∧ t.part k = { p with syncPending := true } ∧ t.port k = { s.port k with work := some (.timeReset 0) }
      ∧ (∀ b, (s.board b).owner = some k →
        t.board b = { s.board b with link := .syncing } ∧ t.link b = (s.link b).queueSync 1 0)
      ∧ (∀ b, (s.board b).owner ≠ some k → t.board b = s.board b ∧ t.link b = s.link b)
      ∧ (∀ j, j ≠ k → t.part j = s.part j ∧ t.port j = s.port j)
      ∧ t.engine = s.engine ∧ t.pool = s.pool ∧ t.loader = s.loader ∧ t.store = s.store))
  ∧ (∀ e : ClockEntry, (e.state = .off → e.timeReset = e)
    ∧ (∀ w, e.wave = .periodic w →
      let q : PeriodicWave := match w.retime with
        | some (period, high) => { w with period := period, high := high, phase := w.phase % period, retime := none }
        | none => w
      (e.state = .offPending → e.timeReset = { e with
        state := .off, level := false, wave := .periodic { q with next := 0, polarity := .rising } })
      ∧ (e.state ≠ .off → e.state ≠ .offPending → e.timeReset = { e with
        state := if e.state = .gatePending then .gated else e.state, level := false,
        wave := .periodic { q with next := if 0 < q.phase then q.phase else q.period, polarity := .rising } }))
    ∧ ∀ w, e.wave = .divided w →
      let q : DividedWave := match w.retime with
        | some (divisor, high) => { w with divisor := divisor, high := high, retime := none }
        | none => w
      (e.state = .offPending → e.timeReset = { e with
        state := .off, level := false, wave := .divided { q with count := 0 } })
      ∧ (e.state ≠ .off → e.state ≠ .offPending → e.timeReset = { e with
        state := if e.state = .gatePending then .gated else e.state, level := false,
        wave := .divided { q with count := q.divisor - 1 } }))
  ∧ ∀ (s : State) (k : Slot) (failed : BoardMask), (s.port k).work = some (.timeReset failed) →
    ((∃ b, (s.board b).owner = some k ∧ (s.board b).link = .syncing) → settlePort k s = s)
    ∧ ((∀ b, (s.board b).owner = some k → (s.board b).link ≠ .syncing) →
      settlePort k s = respond k .ok false ((maskBoards failed).map fun b => BitVec.ofNat 8 b.val)
        (s.setPart k { s.part k with syncPending := false }))

/-! ## Run control -/

/-- SETUP_RUN in STOPPED (R75): the run setup kept for each mode, CLAMPED for a count of 0. RUN in STOPPED (R76 to
R78): the checks in order; a run started as the five steps of R77 say. A run whose target time is not above VT, or whose
fired frontier is 2^32 − 1, ends at its start: the group is offered the stop, the links are at rest, and the partition is
STOPPED with its STOP record queued, at the fired frontier, with the unchanged VT and reason TIME or LIMIT. A run that meets
both conditions of R78 is given TIME first (assumption 10). -/
def Obligations.RunSetUpAndStarted : Prop :=
  (∀ (s : State) (k : Slot) (mode : Byte) (argument : BitVec 48), WaitsIn s k .stopped (.setupRun mode argument) →
    let put := fun (m : RunMode) (n : Nat) (clamped : Bool) =>
      Host.Outcome.next (φ := Fault) (ρ := Refusal) (respond k .ok clamped (m.code :: leBytes 6 n)
        (s.setPart k { s.part k with runMode := m, runArgument := n }))
    let count := argument.toNat % 4294967296
    (mode = 0 → exec (.setupRun k mode argument) s = put .free 0 false)
    ∧ (mode = 1 → exec (.setupRun k mode argument) s = put .count (max 1 count) (decide (count = 0)))
    ∧ (mode = 2 → exec (.setupRun k mode argument) s = put .until argument.toNat false)
    ∧ (2 < mode.toNat → exec (.setupRun k mode argument) s = .next (refuse k .badValue s)))
  ∧ (∀ (s : State) (k : Slot), WaitsIn s k .stopped .run →
    let p := s.part k
    let sum := p.firedFrontier + p.runArgument
    let above := decide (p.runMode = .count ∧ 4294967295 < sum)
    let q : Partition := { p with
      runLimit := if p.runMode = .count then min sum 4294967295 else 4294967295, limitClamped := above, stop := none,
      also := {}, limitFound := false, filter := { p.filter with counter := p.filter.setting }, state := .running }
    let started := respond k .ok above (leBytes 4 q.firedFrontier ++ leBytes 6 q.vt ++ leBytes 4 q.runLimit)
      (s.setPart k q)
    let pending := p.sticky.linkFault = true ∨ p.sticky.sequence = true
    (pending → exec (.run k) s = .next (refuse k .errorPending s))
    ∧ (¬ pending → (∀ b, (s.board b).owner ≠ some k) → exec (.run k) s = .next (refuse k .noBoards s))
    ∧ (¬ pending → (∃ b, (s.board b).owner = some k) → 32 ≤ p.queue.records.length →
      exec (.run k) s = .next (refuse k .queueFull s))
    ∧ (¬ pending → (∃ b, (s.board b).owner = some k) → p.queue.records.length < 32 →
      exec (.run k) s = .next (engineSelect (endAtStart k started))
      ∧ (p.pipe = [] → (p.runMode = .until → p.vt < p.runArgument) → p.firedFrontier < q.runLimit →
        exec (.run k) s = .next (engineSelect started))
      ∧ (p.pipe = [] → (p.runMode = .count → 0 < p.runArgument) →
        (∀ b, (s.board b).owner = some k → (s.link b).flushPending = false) →
        let passed := p.runMode = .until ∧ p.runArgument ≤ p.vt
        let ended := fun (reason : StopReason) (also : ReasonSet) (found : Bool) => ∃ t,
          exec (.run k) s = .next (engineSelect t) ∧ t.port k = started.port k
            ∧ t.part k = { q with
                state := .stopped, stop := some ⟨p.firedFrontier, reason⟩, also := also, limitFound := found,
                queue := { p.queue with records := p.queue.records ++ [.stop p.firedFrontier p.vt reason also] } }
            ∧ (∀ b, t.link b = if (s.board b).owner = some k then { s.link b with
                timer := .stopped, pollOut := false, expiry := false, loss := false, discarded := none,
                order := (s.link b).order.filter fun i => i != .poll } else s.link b)
            ∧ (∀ j, j ≠ k → t.port j = s.port j ∧ t.part j = { s.part j with groupStops :=
              if p.group ≠ none ∧ (s.part j).group = p.group then (s.part j).groupStops ++ [k]
              else (s.part j).groupStops })
            ∧ t.boards = s.boards ∧ t.pool = s.pool ∧ t.loader = s.loader ∧ t.store = s.store
        (passed → p.firedFrontier < 4294967295 → ended .time {} false)
        ∧ (passed → p.firedFrontier = 4294967295 → ended .time (({} : ReasonSet).add .limit) true)
        ∧ (¬ passed → p.firedFrontier = 4294967295 → ended .limit {} true))))
  ∧ ∀ (s : State) (k : Slot), endAtStart k s = advance k (runLimitFinding k
      (if (s.part k).runMode = .until ∧ (s.part k).runArgument ≤ (s.part k).vt then
        candidate k (s.part k).firedFrontier .time s else s))

/-- GROUP_RUN (R79, R80): GROUP_MISMATCH in no group; GROUP_NOT_READY with the mask of the members that fail;
otherwise every member is started in the one event and the requester answered. An idle engine then begins the work item of
one of the partitions that request service, whichever it sees first when there are several (R33, R34), and otherwise
nothing is selected. The ascending order of the members and
CLAMPED as the requester's own (assumption 11) and the free choice of the engine (assumption 7) are the model's. -/
def Obligations.GroupRunStartsEveryMember : Prop :=
  (∀ s : State, s.engine.item ≠ none ∨ (∀ k, (s.part k).requests = false) → engineSelectFree s = s)
  ∧ (∀ s : State, s.engine.item = none → (∃ k, (s.part k).requests = true) →
    ∃ (j : Slot) (count : Nat) (parents : List (LocalNo × LocalNo)), (s.part j).requests = true
      ∧ ((∀ k, (s.part k).requests = true → k = j) → count = s.freeCount)
      ∧ (∀ n parent, (n, parent) ∈ parents ↔ ∃ i, s.record i = some ⟨j, n, .divided parent⟩)
      ∧ engineSelectFree s = { s with freeCount := count, engine := { lastServed := j, item := some {
          slot := j, copy := (s.part j).frontierSnapshot, parents := parents, frontier := (s.part j).frontier,
          target := if (s.part j).runMode = .until then some (s.part j).runArgument else none, void := false } } })
  ∧ ∀ (s : State) (k : Slot), Waits s k .groupRun → (s.part k).state ≠ .closed →
    let ready := fun j => decide ((s.part j).state = .stopped ∧ (s.part j).sticky.linkFault = false
      ∧ (s.part j).sticky.sequence = false ∧ (s.ownedBoards j) ≠ [] ∧ (s.part j).queue.records.length < 32
      ∧ (s.part j).syncPending = false)
    ((s.part k).group = none → exec (.groupRun k) s = .next (refuse k .groupMismatch s))
    ∧ ∀ g, (s.part k).group = some g →
      let inGroup := fun j => decide ((s.part j).group = some g)
      let s1 := s.mapParts fun j p => if (s.part j).group = some g then { p with
          runLimit := if p.runMode = .count then min (p.firedFrontier + p.runArgument) 4294967295 else 4294967295,
          limitClamped := decide (p.runMode = .count ∧ 4294967295 < p.firedFrontier + p.runArgument), stop := none,
          also := {}, limitFound := false, filter := { p.filter with counter := p.filter.setting }, state := .running }
        else p
      (∀ j, inGroup j = true → ready j = false →
        exec (.groupRun k) s
          = .next (respond k .groupNotReady false [memberMask fun j => inGroup j && !ready j] s))
      ∧ ((∀ j, inGroup j = true → ready j = true) →
        exec (.groupRun k) s = .next (engineSelectFree (forSlots endAtStart (s.members k)
          (respond k .ok (s1.part k).limitClamped (memberMask inGroup :: (leBytes 4 (s1.part k).firedFrontier
            ++ leBytes 6 (s1.part k).vt ++ leBytes 4 (s1.part k).runLimit)) s1))))

/-- PAUSE and RESUME in every open state (R81, R83). The body of RESUME is the state entered (assumption 23). -/
def Obligations.PauseAndResume : Prop :=
  ∀ (s : State) (k : Slot),
    let p := s.part k
    (WaitsIn s k .running .pause →
      exec (.pause k) s = .next (respond k .ok false [] (s.setPart k { p with state := .paused })))
    ∧ (WaitsIn s k .paused .pause → exec (.pause k) s = .next (refuse k .alreadyPaused s))
    ∧ (Waits s k .pause → p.state ≠ .closed → p.state ≠ .running → p.state ≠ .paused →
      exec (.pause k) s = .next (refuse k .wrongState s))
    ∧ (Waits s k .resume → p.state ≠ .closed → p.state ≠ .paused →
      exec (.resume k) s = .next (refuse k .notPaused s))
    ∧ (WaitsIn s k .paused .resume → p.stop = none → exec (.resume k) s = .next (engineSelect (advance k
      (respond k .ok false [0x02#8] (s.setPart k { p with state := .running })))))
    ∧ (∀ point, WaitsIn s k .paused .resume → p.stop = some point → exec (.resume k) s = .next (engineSelect
      (advance k (respond k .ok false [0x04#8] (s.setPart k { p with state := .stopping })))))

/-- STOP (R87): in the run states a candidate at the fired frontier with reason CONTROLLER, and STOPPING from PAUSED;
in STOPPED no effect; in FAULTED refused. The body is laid out as assumption 23 says. -/
def Obligations.StopOffersFiredFrontier : Prop :=
  ∀ (s : State) (k : Slot), Waits s k .stop →
    ((s.part k).state = .stopped → exec (.stop k) s = .next (respond k .ok false (s.part k).stopBytes s))
    ∧ ((s.part k).state = .faulted → exec (.stop k) s = .next (refuse k .wrongState s))
    ∧ ((s.part k).state.isRun = true →
      let s1 := candidate k (s.part k).firedFrontier .controller s
      let s2 := advance k (s1.setPart k { s1.part k with
        state := if (s1.part k).state = .paused then .stopping else (s1.part k).state })
      exec (.stop k) s = .next (engineSelect (respond k .ok false (s2.part k).stopBytes s2))
      ∧ ((s.part k).stop = none → (s.part k).state = .running → (s1.part k).state = .stopping)
      ∧ ∃ point, (s1.part k).stop = some point ∧ point.step ≤ (s.part k).firedFrontier)

/-- RECOVER in FAULTED and CLEAR_ERRORS in STOPPED (R102 to R104): every owned board is broken and probed under the
sync-pending flag, and with no board the partition is STOPPED at once; the errors are cleared, and reported as they
stood. RECOVER ends when every owned board is BOUND or FAILED: STOPPED with the links at rest when all are BOUND, and
otherwise FAULTED with the links muted, a sticky error and a LINK record for each failed board in ascending number. The
sticky errors are set as the RECOVER ends (assumption 35), a board that faults again once it is BOUND is one of the failed
(assumption 46), and Weff and Heff take one byte each in a response (assumption 43), as a depth does, and an ID two
(assumption 48). -/
def Obligations.RecoverAndClearErrors : Prop :=
  (∀ (s : State) (k : Slot),
    (Waits s k .recover → (s.part k).state ≠ .closed → (s.part k).state ≠ .faulted →
      exec (.recover k) s = .next (refuse k .wrongState s))
    ∧ (WaitsIn s k .faulted .recover → (∀ b, (s.board b).owner ≠ some k) → ∃ t, exec (.recover k) s = .next t
      ∧ (t.part k).state = .stopped ∧ (t.part k).syncPending = false ∧ (t.part k).stop = (s.part k).stop
      ∧ (t.part k).firedFrontier = (s.part k).firedFrontier ∧ (t.part k).sticky = (s.part k).sticky
      ∧ (t.port k).state = .responseReady)
    ∧ (WaitsIn s k .faulted .recover → (∃ b, (s.board b).owner = some k) → ∃ t, exec (.recover k) s = .next t
      ∧ t.part k = { s.part k with syncPending := true }
      ∧ (∀ b, (s.board b).owner = some k → t.board b = { s.board b with link := .probing, cause := none }
        ∧ t.link b = (s.link b).beginBreak)
      ∧ (∀ b, (s.board b).owner ≠ some k → t.board b = s.board b ∧ t.link b = s.link b)
      ∧ t.port k = { s.port k with work := some (.recovering 0) }
      ∧ (∀ j, j ≠ k → t.part j = s.part j ∧ t.port j = s.port j) ∧ t.engine = s.engine ∧ t.pool = s.pool
      ∧ t.loader = s.loader ∧ t.store = s.store)
    ∧ (WaitsIn s k .stopped .clearErrors →
      let p := s.part k
      exec (.clearErrors k) s = .next (respond k .ok false (p.sticky.byte :: leBytes 2 p.queue.drops)
        (s.setPart k { p with sticky := ⟨false, false, false⟩,
                              queue := { p.queue with drops := 0, overflow := false } }))))
  ∧ ∀ (s : State) (k : Slot) (replied : BoardMask), (s.port k).work = some (.recovering replied) →
    let inState := fun st => maskWhere fun b => (s.board b).owner == some k && (s.board b).link == st
    let failed := inState .failed
    let t := settlePort k s
    let weff := weffOf (s.part k).settings.window ((s.ownedBoards k).map fun b => (s.board b).depth)
    let p : Partition := { s.part k with
      weff := weff, heff := max (s.part k).settings.horizon weff, syncPending := false }
    ((∃ b, (s.board b).owner = some k ∧ (s.board b).link ≠ .bound ∧ (s.board b).link ≠ .failed) → t = s)
    ∧ ((∀ b, (s.board b).owner = some k → (s.board b).link = .bound ∨ (s.board b).link = .failed) →
      t.boards = s.boards ∧ t.engine = s.engine ∧ t.pool = s.pool ∧ t.loader = s.loader ∧ t.store = s.store
      ∧ (∀ j, j ≠ k → t.part j = s.part j ∧ t.port j = s.port j)
      ∧ (∀ b, (s.board b).owner ≠ some k → t.link b = s.link b)
      ∧ t.port k = (respond k .ok false ([(t.part k).state.code] ++ maskBytes (inState .bound) ++ maskBytes failed
          ++ boardList (fun b => [faultCode (s.board b).cause]) (maskBoards failed)
          ++ boardList (fun b => leBytes 2 (s.board b).id.toNat ++ [BitVec.ofNat 8 (s.board b).depth])
            (maskBoards replied)
          ++ [BitVec.ofNat 8 (t.part k).weff, BitVec.ofNat 8 (t.part k).heff]) s).port k
      ∧ (failed = 0 → t.part k = { p with state := .stopped }
        ∧ ∀ b, (s.board b).owner = some k → t.link b = { s.link b with
          timer := .stopped, pollOut := false, expiry := false, loss := false, discarded := none,
          order := (s.link b).order.filter fun i => i != .poll })
      ∧ (failed ≠ 0 → (∀ b, (s.board b).owner = some k → t.link b = { (s.link b).cleared with muted := true })
        ∧ t.part k = (maskBoards failed).foldl (fun (p : Partition) b => match (s.board b).cause with
          | some cause => Partition.offer (.link b (s.part k).firedFrontier (.fault cause))
            { p with sticky := p.sticky.addCause cause }
          | none => p) p))

/-- A stop candidate combined (R85, R86): in a run state with no stop point, or below it, it becomes the stop point with
its reason primary, the previous primary reason joining the also-reasons, and RUNNING becomes STOPPING; otherwise its
reason joins the also-reasons; outside the run states it has no effect. The first stop point of a run, but for reason
GROUP, is offered to the other members of the group (R93), with whom the offer waits (assumption 9). A stop point below
the frontier rewinds the pipe (R120) and each board's link (R121): the ARMs of discarded steps are removed, and where one
had been sent a FLUSH is placed at the end with the flush-pending flag and the discarded range. Of which steps an ARM
counts as sent is held in the model's own field (assumption 13). -/
def Obligations.StopCandidateCombined : Prop :=
  ∀ (s : State) (k : Slot) (n : Nat) (r : StopReason),
    let p := s.part k
    let q := (candidate k n r s).part k
    (p.state.isRun = false → candidate k n r s = s)
    ∧ (p.state.isRun = true → p.stop = none →
      q.stop = some ⟨n, r⟩ ∧ q.also = p.also ∧ q.state = if p.state = .running then .stopping else p.state)
    ∧ (∀ point, p.state.isRun = true → p.stop = some point → n < point.step →
      q.stop = some ⟨n, r⟩ ∧ q.also = p.also.add point.primary.name
        ∧ q.state = if p.state = .running then .stopping else p.state)
    ∧ (∀ point, p.state.isRun = true → p.stop = some point → point.step ≤ n →
      candidate k n r s = s.setPart k { p with also := p.also.add r.name })
    ∧ (p.state.isRun = true → (p.stop = none ∨ ∃ point, p.stop = some point ∧ n < point.step) → n < p.frontier →
      q.pipe = p.pipe.filter (fun e => e.stage == .fired || decide (e.number ≤ n))
        ∧ q.firedFrontier = p.firedFrontier ∧ q.vt = p.vt ∧ q.fired = p.fired
        ∧ (∀ w, s.engine.item = some w →
          (candidate k n r s).engine.item = some (if w.slot = k then { w with void := true } else w))
        ∧ ∀ b, (s.board b).owner = some k →
          let l := s.link b
          let m := (candidate k n r s).link b
          let kept := l.order.filter fun i => match i with
            | .arm step _ _ => decide (step ≤ n)
            | _ => true
          (n < l.sentThrough → m = { l with
            order := kept ++ [.flush n], nextAck := some (n + 1), armsOut := 0, sentThrough := n, flushPending := true,
            discarded := some (n + 1, l.sentThrough), flushSent := false, pollAfterFlush := false })
          ∧ (l.sentThrough ≤ n → ∃ timer, m = { l with
              order := kept, nextAck := some (n + 1), armsOut := 0, timer := timer }
            ∧ timer = match l.timer with
              | .running ns => if l.donesOut = 0 ∧ l.flushPending = false ∧ l.pollOut = false then .stopped else .running ns
              | other => other))
    ∧ (p.frontier ≤ n → (candidate k n r s).links = s.links ∧ (candidate k n r s).engine = s.engine)
    ∧ (∀ b, (s.board b).owner ≠ some k → (candidate k n r s).link b = s.link b)
    ∧ ∀ j, j ≠ k → { (candidate k n r s).part j with groupStops := (s.part j).groupStops } = s.part j
      ∧ ((candidate k n r s).part j).groupStops
        = if p.state.isRun = true ∧ p.stop = none ∧ r.name ≠ .group ∧ p.group ≠ none ∧ (s.part j).group = p.group then
            (s.part j).groupStops ++ [k]
          else (s.part j).groupStops

/-- A board fault (R96 to R100, R148): the board is FAILED with its cause. Unowned, nothing more happens. In a run state
the partition is FAULTED with an empty pipe and FAULT primary at the fired frontier, its STOP record offered (R97, R98,
R126); in STOPPED, outside a claim SYNC, it is FAULTED with a LINK record and its stop point, reasons and pipe as they
were, and a TIME_RESET in progress lists the board and every board whose SYNC the muting ends, for each of which
LINK_FAULT is set too, with the one LINK record of the board that faulted (R29, R99, R100, R149); a newly claimed board
whose SYNC fails is dropped (R67), and so is each whose SYNC the muting ends (R149; assumption 44), in ascending board
number (assumption 39), with cause TIMEOUT, LINK_FAULT set (R100) and its LINK record; in FAULTED the sticky error is
set, but by a RECOVER's own exchange only as the RECOVER ends (assumption 35). On entry to FAULTED the sticky error is
set, the work item void, the group offered a stop, which waits at its members (assumption 9), and every owned board's
link muted with its reset values. -/
def Obligations.BoardFaultTakenByOwner : Prop :=
  ∀ (s : State) (b : Board) (cause : FaultCause),
    let t := boardFault b cause s
    let record : BoardRecord := { s.board b with link := .failed, cause := some cause }
    let reset := fun (l : Link) (muted : Bool) => ({
      order := [], sending := l.sending, nextAck := none, nextDone := none, armsOut := 0, donesOut := 0, pollMark := none,
      pollOut := false, expiry := false, loss := false, timer := .stopped, retries := 0, backoff := .idle, rx := .hunt,
      muted := muted, discarded := none, flushPending := false, breakPhase := l.breakPhase, strobe := l.strobe,
      upHigh := l.upHigh, sentThrough := 0, flushSent := false, pollAfterFlush := false } : Link)
    let sticky := fun (e : StickyErrors) => if cause = .sequence then { e with sequence := true }
      else { e with linkFault := true }
    let failedOnly := (s.setBoard b record).setLink b (reset (s.link b) (s.link b).muted)
    ((s.board b).owner = none → t = failedOnly)
    ∧ (∀ k, (s.board b).owner = some k → (s.part k).state = .faulted →
      let exchange := isRecovering k s = true ∧ ((s.board b).link = .syncing ∨ (s.board b).link = .probing)
      (exchange → t = failedOnly)
      ∧ (¬ exchange → t = failedOnly.setPart k { s.part k with sticky := sticky (s.part k).sticky }))
    ∧ (∀ k fresh already failed, (s.board b).owner = some k → (s.part k).state = .stopped → (s.board b).link = .syncing →
      (s.port k).work = some (.claiming fresh already failed) → maskHas fresh b = true →
      let weff := weffOf (s.part k).settings.window (((s.ownedBoards k).filter (· ≠ b)).map fun b => (s.board b).depth)
      t = (((s.setBoard b { record with owner := none }).setLink b
          { reset (s.link b) (s.link b).muted with strobe := false }).setPort k
          { s.port k with work := some (.claiming fresh already (failed ||| BitVec.twoPow 24 b.val)) }).setPart k
        (Partition.offer (.link b (s.part k).firedFrontier (.fault cause)) { s.part k with
          weff := weff, heff := max (s.part k).settings.horizon weff }))
    ∧ ∀ k, (s.board b).owner = some k →
      let run := (s.part k).state.isRun = true
      let idle := (s.part k).state = .stopped ∧ ¬ ((s.board b).link = .syncing ∧ freshClaim k b s = true)
      let others := ∀ b', b' ≠ b → (s.board b').owner = some k → (s.board b').link ≠ .syncing
      (run ∨ idle → (t.part k).state = .faulted ∧ t.board b = record
        ∧ (∀ w, s.engine.item = some w → t.engine.item = some (if w.slot = k then { w with void := true } else w))
        ∧ (∀ b', t.owns k b' = true → t.link b' = reset (s.link b') true)
        ∧ (∀ b', (s.board b').owner ≠ some k → t.board b' = s.board b' ∧ t.link b' = s.link b')
        ∧ (∀ j, j ≠ k → t.port j = s.port j ∧ t.part j = { s.part j with groupStops :=
            if (s.part k).group ≠ none ∧ (s.part j).group = (s.part k).group then (s.part j).groupStops ++ [k]
            else (s.part j).groupStops })
        ∧ t.pool = s.pool ∧ t.loader = s.loader ∧ t.store = s.store)
      ∧ (run ∨ idle → others → ∀ b', b' ≠ b → t.board b' = s.board b')
      ∧ (run → others →
        let also := match (s.part k).stop with
          | some point => (s.part k).also.add point.primary.name
          | none => (s.part k).also
        t.port k = s.port k ∧ t.part k = Partition.offer
          (.stop (s.part k).firedFrontier (s.part k).vt (.fault b cause) also)
          { s.part k with state := .faulted, sticky := sticky (s.part k).sticky, pipe := [], also := also,
                          stop := some ⟨(s.part k).firedFrontier, .fault b cause⟩ })
      ∧ (idle → others → t.part k = Partition.offer (.link b (s.part k).firedFrontier (.fault cause))
          { s.part k with state := .faulted, sticky := sticky (s.part k).sticky }
        ∧ t.port k = { s.port k with work := match (s.port k).work with
          | some (.timeReset failed) => some (.timeReset (failed ||| BitVec.twoPow 24 b.val))
          | work => work })
      ∧ (∀ fresh already failed, idle → (s.port k).work = some (.claiming fresh already failed) →
        let ends := fun b' : Board => decide (b' ≠ b ∧ (s.board b').owner = some k ∧ (s.board b').link = .syncing)
        let dropped := (List.finRange 24).filter fun b' => ends b' && maskHas fresh b'
        let left := (s.ownedBoards k).filter fun b' => !(ends b' && maskHas fresh b')
        let weff := if dropped = [] then (s.part k).weff
          else weffOf (s.part k).settings.window (left.map fun b' => (s.board b').depth)
        let heff := if dropped = [] then (s.part k).heff else max (s.part k).settings.horizon weff
        let own := sticky (s.part k).sticky
        (∀ b', b' ≠ b → t.board b' = if ends b' = true then { s.board b' with
            link := .failed, cause := some .timeout, owner := if maskHas fresh b' = true then none else some k }
          else s.board b')
        ∧ (∀ b' ∈ dropped, t.link b' = { reset (s.link b') (s.link b').muted with strobe := false })
        ∧ (∃ listed, t.port k = { s.port k with work := some (.claiming fresh already listed) }
          ∧ ∀ b', maskHas listed b' = true ↔ maskHas failed b' = true ∨ b' ∈ dropped)
        ∧ t.part k = dropped.foldl
          (fun p b' => Partition.offer (.link b' (s.part k).firedFrontier (.fault .timeout)) p)
          (Partition.offer (.link b (s.part k).firedFrontier (.fault cause)) { s.part k with
            state := .faulted, weff := weff, heff := heff,
            sticky := if ∃ b', ends b' = true then { own with linkFault := true } else own }))
      ∧ ∀ failed, idle → (s.port k).work = some (.timeReset failed) →
        (∀ b', b' ≠ b → (s.board b').owner = some k → t.board b' = if (s.board b').link = .syncing then
          { s.board b' with link := .failed, cause := some .timeout } else s.board b')
        ∧ (let own := sticky (s.part k).sticky
          t.part k = Partition.offer (.link b (s.part k).firedFrontier (.fault cause)) { s.part k with
            state := .faulted, sticky := if ∃ b', b' ≠ b ∧ (s.board b').owner = some k ∧ (s.board b').link = .syncing
              then { own with linkFault := true } else own })
        ∧ ∃ listed, t.port k = { s.port k with work := some (.timeReset listed) }
          ∧ ∀ b', maskHas listed b' = true ↔ maskHas failed b' = true ∨ b' = b
            ∨ ((s.board b').owner = some k ∧ (s.board b').link = .syncing)

/-- A group stop taken (R94): in RUNNING and PAUSED a candidate at the member's own fired frontier with reason GROUP;
in STOPPING GROUP joins the also-reasons; otherwise no effect. The offers waiting at the member are the model's
(assumption 9). -/
def Obligations.GroupStopTakenByState : Prop :=
  ∀ (s : State) (k from' : Slot) (rest : List Slot), s.resetHeld = false → (s.part k).groupStops = from' :: rest →
    let s1 := s.setPart k { s.part k with groupStops := rest }
    ((s.part k).state = .running ∨ (s.part k).state = .paused → exec (.groupStopTaken k) s
      = .next (engineSelect (advance k (candidate k (s.part k).firedFrontier .group s1))))
    ∧ ((s.part k).state = .stopping → exec (.groupStopTaken k) s = .next (engineSelect
      (s1.setPart k { s1.part k with also := (s.part k).also.add .group })))
    ∧ ((s.part k).state.isRun = false → exec (.groupStopTaken k) s = .next (engineSelect s1))

/-- The settle gap, a fire and the fall of the strobes (R81, R112 to R116): the oldest entry not FIRED is fired when it is
ARMED, in RUNNING or STOPPING, within the stop point, and with no last fire recorded or the gap elapsed; it becomes FIRED,
the fired frontier, VT and fired state advance, every strobe of the partition's boards rises, one more DONE is outstanding
and a STOPPED response timer is started (R139, R143). When any of this fails, and so in PAUSED, nothing is fired. The
strobes fall again later. The expiry of the gap leads to the fire conditions, and they to the stop completion condition.
Stop completion (R90, R91, R124, R143): in STOPPING with the fired frontier at the stop point, no FIRED entry and no flush
pending, the partition enters STOPPED with its STOP record offered and its links at rest; a backoff that still runs then
runs on (assumption 45). -/
def Obligations.SettleGapFiresAndStrobesFall : Prop :=
  (∀ (s : State) (k : Slot) (ns : Nat), s.resetHeld = false → (s.part k).gap = .running ns →
    exec (.settleGapExpiry k) s
      = .next (engineSelect (advance k (s.setPart k { s.part k with gap := .elapsed }))))
  ∧ (∀ (s : State) (k : Slot), advance k s = checkStop k (tryFire k s))
  ∧ (∀ (s : State) (k : Slot), (∀ e ∈ (s.part k).pipe, e.stage = .fired) → tryFire k s = s)
  ∧ (∀ (s : State) (k : Slot) (older younger : List PipeEntry) (e : PipeEntry),
    (s.part k).pipe = older ++ e :: younger → (∀ x ∈ older, x.stage = .fired) → e.stage ≠ .fired →
    let p := s.part k
    let fires := e.stage = .armed ∧ (p.state = .running ∨ p.state = .stopping)
      ∧ (∀ point, p.stop = some point → e.number ≤ point.step) ∧ (p.lastFire = false ∨ p.gap = .elapsed)
    (¬ fires → tryFire k s = s)
    ∧ (fires → tryFire k s = (s.setPart k { p with
          pipe := p.pipe.map fun x => if x.number = e.number then { x with stage := .fired } else x,
          firedFrontier := e.number, vt := e.time, fired := e.post, lastFire := true,
          gap := .running ((p.settings.gapCode + 1) * 40) }).mapLinks fun b l =>
        if (s.board b).owner = some k then { l with
          strobe := true, donesOut := l.donesOut + 1,
          timer := if l.timer = .stopped then .running ((p.settings.timeoutCode + 1) * 16000) else l.timer }
        else l))
  ∧ (∀ (s : State) (k : Slot), s.resetHeld = false → exec (.strobeFall k) s = .next
    (s.mapLinks fun b l => if (s.board b).owner = some k then { l with strobe := false } else l))
  ∧ ∀ (s : State) (k : Slot),
    let p := s.part k
    let complete := fun point : StopPoint => p.state = .stopping ∧ p.stop = some point ∧ point.step = p.firedFrontier
      ∧ (∀ e ∈ p.pipe, e.stage ≠ .fired) ∧ ∀ b, (s.board b).owner = some k → (s.link b).flushPending = false
    ((∀ point, ¬ complete point) → checkStop k s = s)
    ∧ ∀ point, complete point → ∃ t, checkStop k s = t
      ∧ t.part k = Partition.offer (.stop point.step p.vt point.primary p.also) { p with state := .stopped }
      ∧ (∀ b, (s.board b).owner = some k → t.link b = { s.link b with
        timer := .stopped, pollOut := false, expiry := false, loss := false, discarded := none,
        order := (s.link b).order.filter fun i => i != .poll })
      ∧ (∀ b, (s.board b).owner ≠ some k → t.link b = s.link b)
      ∧ (∀ w, s.engine.item = some w → t.engine.item = some (if w.slot = k then { w with void := true } else w))
      ∧ (∀ j, j ≠ k → t.part j = s.part j) ∧ t.boards = s.boards ∧ t.ports = s.ports ∧ t.pool = s.pool
      ∧ t.loader = s.loader ∧ t.store = s.store

/-! ## Triggers and events -/

/-- A match entry recognises a trigger ID when it is enabled and the ID agrees with the entry's in every bit where the
care mask holds a 1; a report is recognised by the entries when any of the eight recognises it: all of R157. The hash table
recognises it when the hash is enabled and the entry at its hash index is set (R158), and a report matches when either
recognises it (R159). -/
def Obligations.MatchEntryComparesCaredBits : Prop :=
  (∀ (e : MatchEntry) (id : TriggerId), e.recognises id = true ↔
    e.enabled = true ∧ ∀ i, i < 16 → e.care.getLsbD i = true → id.getLsbD i = e.id.getLsbD i)
  ∧ (∀ (f : Filter) (id : TriggerId), f.hashEnabled = false →
    (f.recognises id = true ↔ ∃ i : Fin 8, f.entries[i].recognises id = true))
  ∧ ∀ (f : Filter) (id : TriggerId), f.recognises id = true ↔
    (∃ i : Fin 8, f.entries[i].recognises id = true)
      ∨ f.hashEnabled = true ∧ f.hashTable.getLsbD
        ((id.toNat % 64) ^^^ (id.toNat / 64 % 64) ^^^ (id.toNat / 4096)) = true

/-- Which reports qualify in each mode, all of R160: in OFF no report qualifies, the counter is left and no stop is
requested, and with log-unmatched on every report is offered as a record marked not qualified; in ANY every report
qualifies whatever the entries and the table; INVERSE qualifies what NORMAL does not. In every mode a report that does not
qualify changes nothing but that, with log-unmatched on, its record is offered (R159, R161, R167). -/
def Obligations.FilterModeQualifies : Prop :=
  (∀ (f : Filter) (id : TriggerId),
    (f.mode = .off → f.qualifies id = false) ∧ (f.mode = .normal → f.qualifies id = f.recognises id)
      ∧ (f.mode = .inverse → f.qualifies id = !f.recognises id) ∧ (f.mode = .any → f.qualifies id = true))
  ∧ (∀ (s : State) (k : Slot) (r : TriggerReport), (s.part k).filter.mode = .off →
    takeReport k r s = if (s.part k).filter.logUnmatched = true then
      offerRecord k (.trigger r.step r.time r.board r.id false r.stamp) s else s)
  ∧ ∀ (s : State) (k : Slot) (r : TriggerReport),
    let f := (s.part k).filter
    (f.mode = .normal ∧ f.recognises r.id = false ∨ f.mode = .inverse ∧ f.recognises r.id = true) →
    takeReport k r s = if f.logUnmatched = true then
      offerRecord k (.trigger r.step r.time r.board r.id false r.stamp) s else s

/-- A qualifying report (R159, R161 to R163, R165, R167): it counts the counter down and, when that brings or finds it at
0, offers a stop at the report's step plus Heff, at most 2^32 − 1, before its TRIGGER record is offered. -/
def Obligations.QualifyingReportCountsAndStops : Prop :=
  ∀ (s : State) (k : Slot) (r : TriggerReport), (s.part k).filter.qualifies r.id = true →
    let c := (s.part k).filter.counter
    let s1 := s.setPart k { s.part k with filter := { (s.part k).filter with counter := c - 1 } }
    takeReport k r s = offerRecord k (.trigger r.step r.time r.board r.id true r.stamp)
      (if c ≤ 1 then candidate k (min (r.step + (s.part k).heff) 4294967295) (.trigger r.board r.id) s1 else s1)

/-- SET_FILTER and SET_MATCH in every open state (R168, R169): BAD_VALUE for an unknown mode or an index above 7;
otherwise the values are replaced, and nothing else of the filter, and returned, with the occurrence counter in 2 bytes as
the occurrence count (assumption 48). -/
def Obligations.FilterSettingsReplaced : Prop :=
  (∀ (s : State) (k : Slot) (mode log : Byte) (count : BitVec 16), Waits s k (.setFilter mode count log) →
    (s.part k).state ≠ .closed →
    let n := max 1 count.toNat
    (3 < mode.toNat → exec (.setFilter k mode count log) s = .next (refuse k .badValue s))
    ∧ ∀ m : FilterMode, m.code = mode → exec (.setFilter k mode count log) s = .next (respond k .ok (decide (count = 0))
      (mode :: (leBytes 2 n ++ leBytes 2 n ++ [if log = 0 then 0 else 1]))
      (s.setPart k { s.part k with filter := { (s.part k).filter with
        mode := m, setting := n, counter := n, logUnmatched := decide (log ≠ 0) } })))
  ∧ ∀ (s : State) (k : Slot) (index enable : Byte) (id care : BitVec 16), Waits s k (.setMatch index id care enable) →
    (s.part k).state ≠ .closed →
    (7 < index.toNat → exec (.setMatch k index id care enable) s = .next (refuse k .badValue s))
    ∧ ∀ i : Fin 8, index.toNat = i.val →
      let entries := (s.part k).filter.entries.set i ⟨id, care, decide (enable ≠ 0)⟩
      exec (.setMatch k index id care enable) s = .next (respond k .ok false (matchBytes entries.toList)
        (s.setPart k { s.part k with filter := { (s.part k).filter with entries := entries } }))

/-- SET_HASH in every open state (R158, R170): the enable and the table change together; ADD_IDS sets the entry at the
hash index of each ID and leaves the others. -/
def Obligations.HashTableChanged : Prop :=
  ∀ (s : State) (k : Slot) (enable : Byte), (s.part k).state ≠ .closed →
    let put := fun table : BitVec 64 => Host.Outcome.next (φ := Fault) (ρ := Refusal)
      (respond k .ok false ((if enable = 0 then 0 else 1) :: leBytes 8 table.toNat)
        (s.setPart k { s.part k with filter := { (s.part k).filter with
          hashEnabled := decide (enable ≠ 0), hashTable := table } }))
    (Waits s k (.setHashKeep enable) → exec (.setHashKeep k enable) s = put (s.part k).filter.hashTable)
    ∧ (∀ table, Waits s k (.setHashReplace enable table) → exec (.setHashReplace k enable table) s = put table)
    ∧ (Waits s k (.setHashClear enable) → exec (.setHashClear k enable) s = put 0)
    ∧ (∀ count ids, Waits s k (.setHashAddIds enable count ids) →
      (count = 0 ∨ 8 < count.toNat → exec (.setHashAddIds k enable count ids) s = .next (refuse k .badValue s))
      ∧ (count ≠ 0 → count.toNat ≤ 8 → ∃ table, exec (.setHashAddIds k enable count ids) s = put table
        ∧ ∀ i, i < 64 → (table.getLsbD i = true ↔
          (s.part k).filter.hashTable.getLsbD i = true ∨ ∃ id ∈ ids, hashIndex id = i)))
    ∧ ∀ id : TriggerId, hashIndex id = (id.toNat % 64) ^^^ (id.toNat / 64 % 64) ^^^ (id.toNat / 4096)

/-- READ_EVENTS, all of R179: refused with NOT_OPEN in a CLOSED slot; in every open state the oldest records, as many as
the count brought into 1 to 4 and no more than the queue holds, are removed and returned in order. The records stand in the
response one after another, each in the 20 bytes of R214. The response holds the items of R212 and no count as kept, which
is the model's choice (assumption 50). -/
def Obligations.OldestEventsRead : Prop :=
  (recordBytes [] = [] ∧ ∀ (r : EventRecord) (rs : List EventRecord),
    let one := fun n : Nat => BitVec.ofNat 8 n
    recordBytes (r :: rs) = (match r with
      | .stop step vt primary also =>
        let details : Byte × List Byte := match primary with
          | .fault board cause => (3#8, [one board.val, faultCode (some cause), 0#8, 0#8])
          | .trigger board id => (5#8, [one board.val, 0#8] ++ leBytes 2 id.toNat)
          | _ => (0#8, [0#8, 0#8, 0#8, 0#8])
        [1#8, details.1] ++ leBytes 4 step ++ leBytes 6 vt ++ [primary.name.code, also.byte] ++ details.2
          ++ [0#8, 0#8]
      | .trigger step vt board id qualified stamp =>
        [2#8, if stamp = none then 5#8 else 13#8] ++ leBytes 4 step ++ leBytes 6 vt
          ++ [one board.val, if qualified = true then 1#8 else 0#8] ++ leBytes 2 id.toNat ++ (match stamp with
            | some stamp => leBytes 4 stamp.toNat
            | none => [0#8, 0#8, 0#8, 0#8])
      | .link board frontier event =>
        [3#8, 1#8] ++ leBytes 4 frontier ++ leBytes 6 0 ++ [one board.val] ++ (match event with
          | .frameError .parity => [1#8, 1#8]
          | .frameError .framing => [1#8, 2#8]
          | .frameError .orphan => [1#8, 3#8]
          | .frameError .length => [1#8, 4#8]
          | .frameError .check => [1#8, 5#8]
          | .pollRecovered => [2#8, 0#8]
          | .fault .timeout => [3#8, 1#8]
          | .fault .retries => [3#8, 2#8]
          | .fault .sequence => [3#8, 3#8]) ++ [0#8, 0#8, 0#8, 0#8, 0#8]) ++ recordBytes rs)
  ∧ ∀ (s : State) (k : Slot) (count : Byte), Waits s k (.readEvents count) →
    let n := max 1 (min 4 count.toNat)
    let q := (s.part k).queue
    ((s.part k).state = .closed → exec (.readEvents k count) s = .next (refuse k .notOpen s))
    ∧ ((s.part k).state ≠ .closed →
      exec (.readEvents k count) s = .next (respond k .ok (decide (count = 0 ∨ 4 < count.toNat))
        ([BitVec.ofNat 8 (min n q.records.length), BitVec.ofNat 8 (q.records.length - n)] ++ leBytes 2 q.drops
          ++ [if q.overflow then 1 else 0] ++ recordBytes (q.records.take n))
        (s.setPart k { s.part k with queue := { q with records := q.records.drop n } })))

/-! ## Board links -/

/-- Sending a frame (R135, R136, R143, R145) and its end: the head of the transmit order begins when the line is free; an
ARM counts as outstanding, and its step as sent (R121, R134), from then on; a POLL takes the poll mark, and whether the
FLUSH pending was sent before it (R122); what an ARM, FLUSH or POLL sent counts for later is held in the model's fields
(assumption 13); the rest of the state stays. A break that waits for the frame drives the line low as it ends. The phases
of a break (R136): low, recovery, then the PROBE, with the response timer started for a board still PROBING. The tag of a
POLL (assumption 14), a FLUSH or POLL that a STATUS has settled while it waited (assumption 38), a SYNC whose SYNC_ACK was
taken while it waited (assumption 15), and what follows a break of a board that has replied already or is muted (assumption
20) are the model's readings. The bytes of a frame (R108, R121, R127, R130, R145, R213) are its kind, the low 16 bits of its
step number, of the stop point, of the next step or of D − 1, its masks, and the check byte with which all sum to 0.
Through its transmission the downstream line carries its characters back to back, each a start bit 0, the data bits
from bit 0 on, the marker, 1 on the first character alone, odd parity and a stop bit 1; it is low in the low phase of a
break, and high at rest (R129, R130, R213). -/
def Obligations.FramesSentAndBreaksPassed : Prop :=
  (∀ (nextDone : Option Nat) (n d : Nat) (changed level : ClockMask),
    let two := fun x : Nat => [BitVec.ofNat 8 x, BitVec.ofNat 8 (x / 256)]
    let closed := fun bytes : List Byte => bytes ++ [- bytes.foldr (· + ·) 0]
    ((TxItem.arm n changed level).frame nextDone).bytes
      = closed ([0x11#8] ++ two n ++ two changed.toNat ++ two level.toNat)
    ∧ ((TxItem.flush n).frame nextDone).bytes = closed ([0x12#8] ++ two n)
    ∧ ((TxItem.sync n level).frame nextDone).bytes = closed ([0x13#8] ++ two n ++ two level.toNat)
    ∧ (nextDone = some d → (TxItem.poll.frame nextDone).bytes = closed ([0x14#8] ++ two (d - 1)))
    ∧ (TxItem.probe.frame nextDone).bytes = closed [0x15#8] ∧ DownFrame.probe.bytes = [0x15#8, 0xEB#8])
  ∧ (∀ (i : TxItem) (nextDone : Option Nat), sumBytes (i.frame nextDone).bytes = 0)
  ∧ (∀ (s : State) (b : Board),
    ((s.link b).sending = none → ∀ n, (s.downstreamLevel b n = false ↔ (s.link b).breakPhase = .low))
    ∧ ∀ f, (s.link b).sending = some f →
      (∀ n, 12 * f.bytes.length ≤ n → s.downstreamLevel b n = true)
      ∧ ∀ j, j < f.bytes.length →
        let data := f.bytes.getD j 0
        let level := fun i => s.downstreamLevel b (12 * j + i)
        level 0 = false ∧ (∀ i, i < 8 → level (1 + i) = data.getLsbD i) ∧ level 9 = decide (j = 0) ∧ level 11 = true
          ∧ ((List.range' 1 10).filter fun i => level i).length % 2 = 1)
  ∧
  (∀ (s : State) (b : Board), s.resetHeld = false →
    let l := s.link b
    let free := l.sending = none ∧ l.breakPhase = .none ∧ l.backoff = .idle ∧ l.muted = false
    let waits := 0 < l.armsOut ∨ 0 < l.donesOut ∨ l.flushPending = true ∨ l.pollOut = true
    (¬ free → exec (.frameSend b) s = .next s)
    ∧ (l.order = [] → exec (.frameSend b) s = .next s)
    ∧ (∀ i rest, free → l.order = i :: rest →
      let begun : Link := { l with order := rest, sending := some (i.frame l.nextDone) }
      let running := ResponseTimer.running (s.responseNs b)
      let started := if l.timer = .stopped then running else l.timer
      exec (.frameSend b) s = .next (s.setLink b (match i with
        | .arm n _ _ => { begun with armsOut := l.armsOut + 1, sentThrough := max n l.sentThrough, timer := started }
        | .flush _ => { begun with flushSent := true, timer := match l.timer with
            | .suspended => .suspended
            | .stopped => if waits then running else .stopped
            | .running ns => if waits then .running ns else .stopped }
        | .sync _ _ => { begun with timer := if (s.board b).link = .syncing then started else l.timer }
        | .poll => { begun with
            pollMark := some l.sentThrough, pollAfterFlush := l.flushPending && l.flushSent,
            timer := if l.timer = .suspended then .suspended else if waits then running else .stopped }
        | .probe => { begun with timer := started })))
    ∧ (∀ f, l.sending = some f → exec (.frameTransmissionEnd b) s = .next (s.setLink b
      { l with sending := none, breakPhase := if l.breakPhase = .waitingForFrame then .low else l.breakPhase })))
  ∧ ∀ (s : State) (b : Board), s.resetHeld = false →
    let l := s.link b
    (l.breakPhase = .low → exec (.breakEnd b) s = .next (s.setLink b { l with breakPhase := .recovery }))
    ∧ (l.breakPhase = .recovery → l.muted = false → (s.board b).link = .probing →
      exec (.breakRecoveryEnd b) s = .next (s.setLink b
      { l with breakPhase := .none, sending := some .probe, timer := .running (match (s.board b).owner with
        | some k => ((s.part k).settings.timeoutCode + 1) * 16000
        | none => (s.loader.defaults.timeoutCode + 1) * 16000) }))
    ∧ (l.breakPhase = .recovery → l.muted = false → (s.board b).link ≠ .probing →
      exec (.breakRecoveryEnd b) s = .next (s.setLink b { l with breakPhase := .none, sending := some .probe }))
    ∧ (l.breakPhase = .recovery → l.muted = true →
      exec (.breakRecoveryEnd b) s = .next (s.setLink b { l with breakPhase := .none }))

/-- The expiry of the response timer by the link state (R137, R144): an unowned probed board is ABSENT; an owned
probed board, a SYNCING board and a BOUND board at its second expiry fault with TIMEOUT; at its first a POLL is placed
at the head of the transmit order. The timer stands STOPPED until that POLL is sent (assumption 18). -/
def Obligations.ResponseTimeoutByLinkState : Prop :=
  ∀ (s : State) (b : Board) (ns : Nat), s.resetHeld = false → (s.link b).timer = .running ns →
    let l := s.link b
    ((s.board b).link = .probing → (s.board b).owner = none → exec (.responseTimeout b) s = .next (settle (noteProbe b
      false ((s.setBoard b { s.board b with link := .absent }).setLink b { l with timer := .stopped }))))
    ∧ ((s.board b).link = .probing → (s.board b).owner ≠ none →
      exec (.responseTimeout b) s = .next (settle (boardFault b .timeout s)))
    ∧ ((s.board b).link = .syncing → exec (.responseTimeout b) s = .next (settle (boardFault b .timeout s)))
    ∧ ((s.board b).link = .bound → l.expiry = true →
      exec (.responseTimeout b) s = .next (settle (boardFault b .timeout s)))
    ∧ ((s.board b).link = .bound → l.expiry = false → l.pollOut = false → exec (.responseTimeout b) s = .next (settle
      (s.setLink b { l with expiry := true, pollOut := true, order := .poll :: l.order, timer := .stopped })))
    ∧ ((s.board b).link = .bound → l.expiry = false → l.pollOut = true → exec (.responseTimeout b) s = .next (settle
      (s.setLink b { l with expiry := true, timer := .running (s.responseNs b) })))

/-- A receive error (R131, R132, R149): a character is judged by its stop bit, its parity, its marker and the assembly's
state; an error is counted, an owned board's partition is offered a FRAME_ERROR record, and a BOUND link's loss marker is
set; a muted link counts nothing. A record is stored when it leaves the last entry free, or is a STOP record with an entry
free, and is otherwise dropped and counted (R175, R176). A frame that comes while another is open is taken after the
LENGTH error of the open one. The levels are the operand of the command (assumption 26). -/
def Obligations.ReceiveErrorCounted : Prop :=
  (∀ (s : State) (b : Board) (d : Byte) (marker parity : Bool), s.resetHeld = false → (s.link b).upHigh = true →
    let c : LineChar := ⟨d, marker, parity, false⟩
    let s1 := s.setLink b { s.link b with rx := .discard, upHigh := false }
    let s2 := s1.setBoard b { s.board b with counters := { (s.board b).counters with
      framing := min ((s.board b).counters.framing + 1) 255 } }
    ((s.link b).muted = true → exec (.receiveError b c.bits) s = .next (settle s1))
    ∧ ((s.link b).muted = false → (s.board b).owner = none → exec (.receiveError b c.bits) s = .next (settle s2))
    ∧ (∀ k, (s.link b).muted = false → (s.board b).owner = some k →
      let s3 := offerRecord k (.link b (s.part k).firedFrontier (.frameError .framing)) s2
      exec (.receiveError b c.bits) s = .next (settle (if (s.board b).link = .bound then
        s3.setLink b { s.link b with rx := .discard, upHigh := false, loss := true } else s3))))
  ∧ (∀ (s : State) (b : Board) (c : LineChar), s.resetHeld = false → (s.link b).upHigh = true →
    let r := rxChar (s.link b).rx c
    exec (.receiveError b c.bits) s
      = .next (settle (handleRx b r.2 (s.setLink b { s.link b with rx := r.1, upHigh := c.stop }))))
  ∧ (∀ (rx : RxAssembly) (c : LineChar), (c.stop = false → rxChar rx c = (.discard, [.error .framing]))
    ∧ (c.stop = true → c.badParity = true → rxChar rx c = (.discard, [.error .parity])))
  ∧ (∀ c : LineChar, c.stop = true → c.badParity = false →
    (∀ n, c.marker = true → upLength c.data = some n → rxChar .hunt c = (.collecting [c.data] n, [])
      ∧ rxChar .discard c = (.collecting [c.data] n, [])
      ∧ ∀ bytes m, rxChar (.collecting bytes m) c = (.collecting [c.data] n, [.error .length]))
    ∧ (c.marker = true → upLength c.data = none → rxChar .hunt c = (.discard, [.error .length])
      ∧ rxChar .discard c = (.discard, [.error .length])
      ∧ ∀ bytes m, rxChar (.collecting bytes m) c = (.discard, [.error .length, .error .length]))
    ∧ (c.marker = false → rxChar .hunt c = (.hunt, [.error .orphan]) ∧ rxChar .discard c = (.discard, [])
      ∧ ∀ bytes n, let whole := bytes ++ [c.data]
        (whole.length ≠ n → rxChar (.collecting bytes n) c = (.collecting whole n, []))
        ∧ (whole.length = n → sumBytes whole = 0 → rxChar (.collecting bytes n) c = (.hunt, [.frame whole]))
        ∧ (whole.length = n → sumBytes whole ≠ 0 → rxChar (.collecting bytes n) c = (.hunt, [.error .check]))))
  ∧ (∀ (s : State) (b : Board) (e : RxError),
    let n := (s.board b).counters
    let s1 := s.setBoard b { s.board b with counters := match e with
      | .parity => { n with parity := min (n.parity + 1) 255 }
      | .framing => { n with framing := min (n.framing + 1) 255 }
      | .orphan => { n with orphan := min (n.orphan + 1) 255 }
      | .length => { n with length := min (n.length + 1) 255 }
      | .check => { n with check := min (n.check + 1) 255 } }
    ((s.link b).muted = true → receiveError b e s = s)
    ∧ ((s.link b).muted = false → (s.board b).owner = none → receiveError b e s = s1)
    ∧ ∀ k, (s.link b).muted = false → (s.board b).owner = some k →
      let s2 := offerRecord k (.link b (s.part k).firedFrontier (.frameError e)) s1
      receiveError b e s = if (s.board b).link = .bound then s2.setLink b { s.link b with loss := true } else s2)
  ∧ (∀ (p : Partition) (r : EventRecord),
    let needs := match r with
      | .stop .. => 1
      | .trigger .. | .link .. => 2
    (p.queue.records.length + needs ≤ 32 →
      p.offer r = { p with queue := { p.queue with records := p.queue.records ++ [r] } })
    ∧ (32 < p.queue.records.length + needs → p.offer r = { p with
      queue := { p.queue with drops := min (p.queue.drops + 1) 65535, overflow := true },
      sticky := { p.sticky with overflow := true } }))
  ∧ ∀ (c : Instr) (s : State) (b : Board), s.resetHeld = false →
    ((∃ tag, c = .armAck b tag) ∨ (∃ tag cause, c = .armNak b tag cause)
      ∨ (∃ tag trigger stamp, c = .boardDone b tag trigger stamp) ∨ (∃ tag, c = .flushAck b tag)
      ∨ (∃ tag, c = .syncAck b tag) ∨ (∃ armed finished trigger, c = .boardStatus b armed finished trigger)
      ∨ ∃ id depth, c = .probeReply b id depth) →
    (∀ bytes n, (s.link b).rx = .collecting bytes n → exec c s = exec c (lineAtRest b (receiveError b .length s)))
    ∧ ((s.link b).rx = .discard → exec c s = exec c (lineAtRest b s))

/-- An ARM_ACK judged in BOUND (R109, R138, R140): taken for step A, ignored in the discarded range, and otherwise out of
sequence, a fault unless the loss marker is set. An entry takes the board's arm acknowledged flag, and becomes ARMED from
ARMING when every board of the set has it. A frame taken clears the expiry marker, and a frame taken or ignored restarts the
response timer unless it is SUSPENDED, and stops it when nothing is outstanding (R138, R139, R143). A tag lies in the
discarded range exactly when it is the low 16 bits of a step number of that range (R109, R121). -/
def Obligations.ArmAckJudged : Prop :=
  (∀ (l : Link) (tag : Tag), l.inDiscarded tag = true ↔
    ∃ lo hi n, l.discarded = some (lo, hi) ∧ lo ≤ n ∧ n ≤ hi ∧ tag = BitVec.ofNat 16 n)
  ∧
  (∀ (set : List Board) (b : Board) (e : PipeEntry),
    let acked := e.acked ||| BitVec.twoPow 24 b.val
    e.ack set b = { e with
      acked := acked, stage := if e.stage = .arming ∧ ∀ x ∈ set, maskHas acked x = true then .armed else e.stage })
  ∧ (∀ (n : Nat) (f : PipeEntry → PipeEntry) (pipe : List PipeEntry),
    updateEntry n f pipe = pipe.map fun e => if e.number = n then f e else e)
  ∧ (∀ (l : Link) (ns : Nat),
    let waits := 0 < l.armsOut ∨ 0 < l.donesOut ∨ l.flushPending = true ∨ l.pollOut = true
    let timer := if l.timer = .suspended then .suspended else if waits then .running ns else .stopped
    l.progress ns = { l with expiry := false, timer := timer }
      ∧ (l.restartTimer ns).stopIfIdle = { l with timer := timer })
  ∧ ∀ (s : State) (k : Slot) (b : Board) (tag : Tag) (a : Nat), Linked s k b → (s.link b).nextAck = some a →
    let s1 := lineAtRest b s
    let l := s1.link b
    let expected := 0 < l.armsOut ∧ tag = BitVec.ofNat 16 a
    (expected → exec (.armAck b tag) s = .next (settle (tryFire k
      ((s1.setLink b (Link.progress (s.responseNs b)
          { l with nextAck := some (a + 1), armsOut := l.armsOut - 1, retries := 0,
                   sentThrough := max a l.sentThrough })).setPart k
        { s.part k with pipe := updateEntry a (PipeEntry.ack (s.ownedBoards k) b) (s.part k).pipe }))))
    ∧ (¬ expected → l.inDiscarded tag = true →
      exec (.armAck b tag) s = .next (settle (s1.setLink b (l.restartTimer (s.responseNs b)).stopIfIdle)))
    ∧ (¬ expected → l.inDiscarded tag = false → l.loss = true → exec (.armAck b tag) s = .next (settle s1))
    ∧ (¬ expected → l.inDiscarded tag = false → l.loss = false →
      exec (.armAck b tag) s = .next (settle (boardFault b .sequence s1)))

/-- An ARM_NAK judged in BOUND (R141, R142): taken for step A, it makes every sent ARM unsent and counts a retry, and
begins a backoff of 2^min(n, b) × 640 ns or faults the board beyond the retry limit; every cause alike. The end of a
backoff (R135, R142): the ARMs from A up to the youngest unfired entry that are not in the transmit order are placed at
its head, in step order, behind a POLL already at the head and before a FLUSH, and the response timer is started afresh
when anything is outstanding; an ARM that stands in the transmit order, be it behind a FLUSH, is not placed again. -/
def Obligations.ArmNakBacksOffAndResends : Prop :=
  (∀ (s : State) (k : Slot) (b : Board) (tag : Tag) (cause : Byte) (a : Nat), Linked s k b →
    (s.link b).nextAck = some a →
    let s1 := lineAtRest b s
    let l := s1.link b
    let expected := 0 < l.armsOut ∧ tag = BitVec.ofNat 16 a
    let refused : Link := { l with armsOut := 0, sentThrough := a - 1, retries := l.retries + 1 }
    (l.inDiscarded tag = true →
      exec (.armNak b tag cause) s = .next (settle (s1.setLink b (l.restartTimer (s.responseNs b)).stopIfIdle)))
    ∧ (l.inDiscarded tag = false → expected → l.retries + 1 ≤ (s.part k).settings.retryLimit →
      exec (.armNak b tag cause) s = .next (settle (s1.setLink b { refused with
        backoff := .running (2 ^ min (l.retries + 1) (s.part k).settings.backoffLimit * 640), timer := .suspended,
        expiry := false })))
    ∧ (l.inDiscarded tag = false → expected → (s.part k).settings.retryLimit < l.retries + 1 →
      exec (.armNak b tag cause) s = .next (settle (boardFault b .retries (s1.setLink b refused))))
    ∧ (l.inDiscarded tag = false → ¬ expected → l.loss = true → exec (.armNak b tag cause) s = .next (settle s1))
    ∧ (l.inDiscarded tag = false → ¬ expected → l.loss = false →
      exec (.armNak b tag cause) s = .next (settle (boardFault b .sequence s1))))
  ∧ ∀ (s : State) (b : Board) (k : Slot) (ns a m : Nat) (pre tail : List TxItem), s.resetHeld = false →
    (s.link b).backoff = .running ns → (s.board b).owner = some k → (s.link b).nextAck = some a → PipeInv s →
    let unfired := (s.part k).pipe.filter fun e => e.stage != .fired
    let armsFrom := fun n => (unfired.filter fun e => n ≤ e.number).map fun e =>
      TxItem.arm e.number e.changed e.level
    let armsBelow := fun n => (unfired.filter fun e => a ≤ e.number ∧ e.number < n).map fun e =>
      TxItem.arm e.number e.changed e.level
    a ≤ m → (pre = [] ∨ pre = [.poll]) →
    ∀ order, ((tail = [] ∨ ∃ keep, tail = [.flush keep]) ∧ (s.link b).order = pre ++ armsFrom m ++ tail
        ∧ order = pre ++ armsFrom a ++ tail
      ∨ (∃ keep, tail = .flush keep :: armsFrom m) ∧ (s.link b).order = pre ++ tail
        ∧ order = pre ++ armsBelow m ++ tail) →
    exec (.backoffEnd b) s = .next (s.setLink b { s.link b with
      backoff := .idle, order := order,
      timer := if (s.link b).armsOut = 0 ∧ (s.link b).donesOut = 0 ∧ (s.link b).flushPending = false
          ∧ (s.link b).pollOut = false then .stopped
        else .running (((s.part k).settings.timeoutCode + 1) * 16000) })

/-- A DONE taken in BOUND for step D (R117 to R119, R139): the entry is marked for the board, a trigger report is handed
over before the entry can be retired, complete entries are retired, and the fire and stop completion conditions are
evaluated; a DONE not taken is ignored in the discarded range and otherwise out of sequence. The entries retired are the
oldest, as far as they are FIRED and reported done by every board of the set, and no other (R119). -/
def Obligations.DoneMarksAndRetires : Prop :=
  (∀ (set : List Board) (complete rest : List PipeEntry),
    let done := fun e : PipeEntry => e.stage = .fired ∧ ∀ b ∈ set, maskHas e.doneBy b = true
    (∀ e ∈ complete, done e) → (∀ e younger, rest = e :: younger → ¬ done e) → retired set (complete ++ rest) = rest)
  ∧ ∀ (s : State) (k : Slot) (b : Board) (tag : Tag) (trigger : Option TriggerId) (stamp : Option (BitVec 32)) (d : Nat),
    Linked s k b → (s.link b).nextDone = some d →
    let s1 := lineAtRest b s
    let l := s1.link b
    let expected := 0 < l.donesOut ∧ tag = BitVec.ofNat 16 d
    let s2 := (s1.setLink b (Link.progress (s.responseNs b)
        { l with nextDone := some (d + 1), donesOut := l.donesOut - 1 })).setPart k
      { s.part k with pipe := updateEntry d (fun e => { e with doneBy := maskAdd e.doneBy b }) (s.part k).pipe }
    (∀ e, expected → trigger = none ∨ (s.part k).pipe.find? (fun e => e.number == d) = some e →
      let s3 := match trigger with
        | some id => takeReport k ⟨d, e.time, b, id, stamp⟩ s2
        | none => s2
      exec (.boardDone b tag trigger stamp) s = .next (settle (advance k
        (s3.setPart k { s3.part k with pipe := retired (s3.ownedBoards k) (s3.part k).pipe }))))
    ∧ (¬ expected → l.inDiscarded tag = true → exec (.boardDone b tag trigger stamp) s
      = .next (settle (s1.setLink b (l.restartTimer (s.responseNs b)).stopIfIdle)))
    ∧ (¬ expected → l.inDiscarded tag = false → l.loss = true →
      exec (.boardDone b tag trigger stamp) s = .next (settle s1))
    ∧ (¬ expected → l.inDiscarded tag = false → l.loss = false →
      exec (.boardDone b tag trigger stamp) s = .next (settle (boardFault b .sequence s1)))

/-- FLUSH_ACK in BOUND and SYNC_ACK in SYNCING and in BOUND (R122, R127, R139, R140). A SYNC_ACK is judged by its tag
alone (assumption 15). What follows every event at a board: the work of each port and the start-up probing end when their
conditions hold (R190, R207), and then an idle engine selects (R33); the order of the ports is assumption 34's, the
selection at every such event assumption 33's. -/
def Obligations.FlushAndSyncAcknowledged : Prop :=
  (∀ s : State, settle s = engineSelect (settleStartUp (settlePort 3 (settlePort 2 (settlePort 1 (settlePort 0 s))))))
  ∧ (∀ (s : State) (k : Slot) (b : Board) (tag : Tag), Linked s k b →
    let s1 := lineAtRest b s
    let l := s1.link b
    (∀ lo hi, l.flushPending = true → l.discarded = some (lo, hi) → tag = BitVec.ofNat 16 (lo - 1) →
      exec (.flushAck b tag) s = .next (settle (advance k
        (s1.setLink b (Link.progress (s.responseNs b) { l with flushPending := false })))))
    ∧ (l.flushPending = false ∨ (∃ lo hi, l.discarded = some (lo, hi) ∧ tag ≠ BitVec.ofNat 16 (lo - 1)) →
      exec (.flushAck b tag) s = .next (settle (if l.loss = true then s1 else boardFault b .sequence s1)))
    ∧ exec (.syncAck b tag) s = .next (settle (if l.loss = true then s1 else boardFault b .sequence s1)))
  ∧ ∀ (s : State) (b : Board) (tag : Tag) (a : Nat), s.resetHeld = false → (s.board b).link = .syncing →
    (s.link b).muted = false → (s.link b).rx = .hunt → (s.link b).nextAck = some a →
    let s1 := lineAtRest b s
    (tag = BitVec.ofNat 16 a → exec (.syncAck b tag) s = .next (settle
      ((s1.setBoard b { s.board b with link := .bound }).setLink b { s1.link b with timer := .stopped })))
    ∧ (tag ≠ BitVec.ofNat 16 a → exec (.syncAck b tag) s = .next (settle (boardFault b .sequence s1)))

/-- STATUS in BOUND (R139, R145, R146): dropped with no POLL outstanding; a fault with SEQUENCE when a tag expands to
no number in its range; reconciled otherwise, step by step: steps taken as acknowledged, then steps taken as done with
the trigger of the step it names, the FLUSH settled (R122), the ARMs unanswered at or below the poll mark resent with one
retry counted, or a fault beyond the retry limit, the POLL_RECOVERED record, the timer, and the fire and stop completion
conditions. The order within the event is that of assumptions 16 and 17, a FLUSH or POLL still waiting stays in the
transmit order (assumption 38), and what an ARM or POLL sent before counts for is held in the model's fields (assumption
13). A tag expands in a range to the number of the range with these low 16 bits, the lowest should there be more, and to
none when there is none (R130, R145). -/
def Obligations.StatusReconciled : Prop :=
  (∀ (tag : Tag) (lo hi : Nat),
    (∀ n, expandTag tag lo hi = some n ↔ lo ≤ n ∧ n ≤ hi ∧ tag = BitVec.ofNat 16 n
      ∧ ∀ m, lo ≤ m → m < n → tag ≠ BitVec.ofNat 16 m)
    ∧ (expandTag tag lo hi = none ↔ ∀ n, lo ≤ n → n ≤ hi → tag ≠ BitVec.ofNat 16 n))
  ∧
  (∀ (s : State) (k : Slot) (b : Board) (armedTag doneTag : Tag) (trigger : Option (Tag × TriggerId)) (a d : Nat),
    Linked s k b → (s.link b).nextAck = some a → (s.link b).nextDone = some d →
    let s1 := lineAtRest b s
    let l := s1.link b
    let top := match l.discarded with
      | some (_, hi) => max (a - 1 + l.armsOut) hi
      | none => a - 1 + l.armsOut
    (l.pollOut = false → exec (.boardStatus b armedTag doneTag trigger) s = .next (settle s1))
    ∧ (l.pollOut = true →
      expandTag armedTag (a - 1) top = none ∨ expandTag doneTag (d - 1) (d - 1 + l.donesOut) = none →
      exec (.boardStatus b armedTag doneTag trigger) s = .next (settle (boardFault b .sequence s1)))
    ∧ (∀ armed finished, l.pollOut = true → expandTag armedTag (a - 1) top = some armed →
      expandTag doneTag (d - 1) (d - 1 + l.donesOut) = some finished →
      let acks := min armed (a - 1 + l.armsOut) + 1 - a
      let dones := finished + 1 - d
      let s2 := statusDones b trigger dones (statusAcks b acks
        (s1.setLink b { l with pollOut := false, loss := false }))
      let s3 := s2.updLink b (Link.settleFlush armed)
      exec (.boardStatus b armedTag doneTag trigger) s = .next (settle (finishStatus b
        (decide (0 < acks ∨ 0 < dones ∨ (s2.link b).flushPending = true ∧ (s3.link b).flushPending = false)) s3))))
  ∧ (∀ (s : State) (k : Slot) (b : Board) (n a : Nat), (s.board b).owner = some k → (s.link b).nextAck = some a →
    let l := s.link b
    statusAcks b 0 s = s
    ∧ statusAcks b (n + 1) s = statusAcks b n (tryFire k
      ((s.setLink b { l with nextAck := some (a + 1), armsOut := l.armsOut - 1, retries := 0,
                             sentThrough := max a l.sentThrough }).setPart k
        { s.part k with pipe := updateEntry a (PipeEntry.ack (s.ownedBoards k) b) (s.part k).pipe })))
  ∧ (∀ (s : State) (k : Slot) (b : Board) (trigger : Option (Tag × TriggerId)) (n d : Nat) (e : PipeEntry),
    (s.board b).owner = some k → (s.link b).nextDone = some d →
    (s.part k).pipe.find? (fun e => e.number == d) = some e →
    let l := s.link b
    let s1 := (s.setLink b { l with nextDone := some (d + 1), donesOut := l.donesOut - 1 }).setPart k
      { s.part k with pipe := updateEntry d (fun e => { e with doneBy := maskAdd e.doneBy b }) (s.part k).pipe }
    let s2 := match trigger with
      | some (tag, id) => if tag = BitVec.ofNat 16 d then takeReport k ⟨d, e.time, b, id, none⟩ s1 else s1
      | none => s1
    statusDones b trigger 0 s = s
    ∧ statusDones b trigger (n + 1) s = statusDones b trigger n
      (s2.setPart k { s2.part k with pipe := retired (s2.ownedBoards k) (s2.part k).pipe }))
  ∧ (∀ (l : Link) (armed : Nat), (l.flushPending = false → l.settleFlush armed = l)
    ∧ ∀ lo hi, l.flushPending = true → l.discarded = some (lo, hi) →
      (armed < lo → l.settleFlush armed = { l with flushPending := false })
      ∧ (lo ≤ armed → l.pollAfterFlush = true → l.settleFlush armed = { l with
        order := l.order ++ [.flush (lo - 1)], flushSent := false, pollAfterFlush := false })
      ∧ (lo ≤ armed → l.pollAfterFlush = false → l.settleFlush armed = l))
  ∧ (∀ (s : State) (k : Slot) (b : Board) (progress : Bool) (a n : Nat), (s.board b).owner = some k →
    (s.link b).nextAck = some a →
    n = (match (s.link b).pollMark with
      | some mark => min (s.link b).armsOut (mark + 1 - a)
      | none => 0) →
    let l : Link := if n = 0 then s.link b else { s.link b with
      armsOut := (s.link b).armsOut - n, retries := (s.link b).retries + 1,
      sentThrough := if (s.link b).armsOut = n then a - 1 else (s.link b).sentThrough,
      order := resendArms a (a + n - 1) (s.part k).pipe (s.link b).order }
    let waits := 0 < l.armsOut ∨ 0 < l.donesOut ∨ l.flushPending = true ∨ l.pollOut = true
    (n ≠ 0 → (s.part k).settings.retryLimit < (s.link b).retries + 1 →
      finishStatus b progress s = boardFault b .retries (s.setLink b l))
    ∧ (n = 0 ∨ (s.link b).retries + 1 ≤ (s.part k).settings.retryLimit →
      finishStatus b progress s = checkStop k (tryFire k
        ((offerRecord k (.link b (s.part k).firedFrontier .pollRecovered) s).setLink b { l with
          expiry := if progress = true then false else l.expiry,
          timer := match l.timer with
            | .suspended => .suspended
            | .stopped => if progress = true ∧ waits then .running (s.responseNs b) else .stopped
            | .running ns => if ¬ waits then .stopped
              else if progress = true then .running (s.responseNs b) else .running ns }))))
  ∧ ∀ (pipe : List PipeEntry) (a last m : Nat) (pre tail : List TxItem),
    (pipe.map PipeEntry.number).Pairwise (· < ·) → (pre = [] ∨ pre = [.poll]) →
    (tail = [] ∨ ∃ keep, tail = [.flush keep]) →
    let arms := fun f : PipeEntry → Bool => (pipe.filter f).map fun e => TxItem.arm e.number e.changed e.level
    resendArms a last pipe (pre ++ arms (fun e => m ≤ e.number) ++ tail)
      = pre ++ arms (fun e => (a ≤ e.number && e.number ≤ last) || m ≤ e.number) ++ tail

/-- A PROBE_REPLY in PROBING (R137, R102): the ID and the depth, brought into 1 to 8, are written; an unowned board
becomes IDLE; an owned one SYNCING with a SYNC to the owner's fired state. In every other link state it has no effect.
A reply during the break is taken too (assumption 20), and the SYNC takes its effect on the link as it is queued
(assumption 15). A frame that was open is dropped first with a LENGTH error (R131). -/
def Obligations.ProbeReplyTaken : Prop :=
  (∀ (s : State) (b : Board) (id : BitVec 16) (depth : Byte) (bytes : List Byte) (n : Nat), s.resetHeld = false →
    (s.link b).rx = .collecting bytes n →
    exec (.probeReply b id depth) s = exec (.probeReply b id depth) (lineAtRest b (receiveError b .length s)))
  ∧ (∀ (s : State) (k : Slot) (b : Board) (replied : BoardMask), (s.port k).work = some (.recovering replied) →
    noteReplied k b s
      = s.setPort k { s.port k with work := some (.recovering (replied ||| BitVec.twoPow 24 b.val)) })
  ∧ ∀ (s : State) (b : Board) (id : BitVec 16) (depth : Byte), s.resetHeld = false → (s.link b).muted = false →
    (s.link b).rx = .hunt ∨ (s.link b).rx = .discard →
    let s1 := lineAtRest b s
    let l := s1.link b
    let record : BoardRecord := { s.board b with id := id, depth := max 1 (min 8 depth.toNat) }
    ((s.board b).link ≠ .probing → exec (.probeReply b id depth) s = .next (settle s1))
    ∧ ((s.board b).link = .probing → (s.board b).owner = none → exec (.probeReply b id depth) s = .next (settle
      (noteProbe b true ((s1.setBoard b { record with link := .idle }).setLink b { l with timer := .stopped }))))
    ∧ (∀ k, (s.board b).link = .probing → (s.board b).owner = some k → exec (.probeReply b id depth) s = .next (settle
      (noteReplied k b ((s1.setBoard b { record with link := .syncing }).setLink b
        (Link.queueSync ((s.part k).firedFrontier + 1) (levelMask (s.part k).fired) { l with timer := .stopped })))))
end

