-- ==== Sys2Proof/Laws/Lines.lean ====
section
/-! SUPPORT. The levels of the downstream line of a board link, bit time by bit time (R129, R130), and the small lemmas of
a partition that leaves its group (R60, R73). -/

namespace Sys2Proof.Machine

/-! ## Characters on a line -/

/-- A character takes twelve bit times. -/
@[simp] theorem LineChar.bits_length (c : LineChar) : c.bits.length = 12 := rfl

@[simp] theorem lineBits_length (cs : List LineChar) : (lineBits cs).length = 12 * cs.length := by
  induction cs with
  | nil => rfl
  | cons c cs ih => simp [lineBits, ih]; omega

/-- Bit time `i` of character `j` of a line that carries characters back to back. -/
theorem lineBits_getD {cs : List LineChar} {j i : Nat} (hj : j < cs.length) (hi : i < 12) (d : LineChar) (v : Bool) :
    (lineBits cs).getD (12 * j + i) v = (cs.getD j d).bits.getD i v := by
  induction cs generalizing j with
  | nil => simp at hj
  | cons c cs ih =>
    rw [List.getD_eq_getElem?_getD, lineBits]
    cases j with
    | zero => rw [List.getElem?_append_left (by simp; omega)]; simp
    | succ j =>
      rw [List.getElem?_append_right (by simp; omega), LineChar.bits_length,
        show 12 * (j + 1) + i - 12 = 12 * j + i by omega, ← List.getD_eq_getElem?_getD, ih (by simpa using hj)]
      rfl

@[simp] theorem frameChars_length (bytes : List Byte) : (frameChars bytes).length = bytes.length := by
  cases bytes <;> simp [frameChars]

/-- Character `j` of a frame: its byte well sent, with marker 1 on the first alone (R130). -/
theorem frameChars_getD {bytes : List Byte} {j : Nat} (hj : j < bytes.length) (d : LineChar) :
    (frameChars bytes).getD j d = goodChar (bytes.getD j 0) (decide (j = 0)) := by
  cases bytes with
  | nil => simp at hj
  | cons b bs =>
    cases j with
    | zero => rfl
    | succ j => simp at hj; simp [frameChars, List.getD, hj]

/-! ## The downstream line -/

/-- With no frame in transmission the line is low in the low phase of a break, and high otherwise. -/
theorem State.downstreamLevel_rest {s : State} {b : Board} (h : (s.link b).sending = none) (n : Nat) :
    s.downstreamLevel b n = ((s.link b).breakPhase != .low) := by simp [State.downstreamLevel, h]

/-- Bit time `i` of character `j` of the frame in transmission. -/
theorem State.downstreamLevel_char {s : State} {b : Board} {f : DownFrame} (h : (s.link b).sending = some f)
    {j i : Nat} (hj : j < f.bytes.length) (hi : i < 12) :
    s.downstreamLevel b (12 * j + i) = (goodChar (f.bytes.getD j 0) (decide (j = 0))).bits.getD i true := by
  simp only [State.downstreamLevel, h, DownFrame.levels]
  rw [lineBits_getD (by simpa using hj) hi ⟨0, false, false, false⟩, frameChars_getD hj]

/-- After its last character the line is high again. -/
theorem State.downstreamLevel_after {s : State} {b : Board} {f : DownFrame} (h : (s.link b).sending = some f)
    {n : Nat} (hn : 12 * f.bytes.length ≤ n) : s.downstreamLevel b n = true := by
  simp [State.downstreamLevel, h, DownFrame.levels, List.getD, hn]

/-! ## Leaving a group -/

@[simp] theorem Partition.leaveGroup_group (p : Partition) : p.leaveGroup.group = none := rfl
@[simp] theorem Partition.leaveGroup_groupStops (p : Partition) : p.leaveGroup.groupStops = [] := rfl
@[simp] theorem Partition.leaveGroup_state (p : Partition) : p.leaveGroup.state = p.state := rfl
@[simp] theorem Partition.leaveGroup_queue (p : Partition) : p.leaveGroup.queue = p.queue := rfl
@[simp] theorem Partition.leaveGroup_pipe (p : Partition) : p.leaveGroup.pipe = p.pipe := rfl
@[simp] theorem Partition.leaveGroup_fired (p : Partition) : p.leaveGroup.fired = p.fired := rfl

end Sys2Proof.Machine
end

