-- ==== Sys2Proof/Laws/State.lean ====
section
/-! SUPPORT. What each update of the state leaves and what it changes: one lemma for each field and each update, so that
no proof unfolds a record update. -/

namespace Sys2Proof.Machine

variable (s : State)

/-! ## Changing one entry is replacing it -/

@[simp] theorem State.updPart_eq (k : Slot) (f : Partition → Partition) : s.updPart k f = s.setPart k (f (s.part k)) := rfl
@[simp] theorem State.updBoard_eq (b : Board) (f : BoardRecord → BoardRecord) : s.updBoard b f = s.setBoard b (f (s.board b)) := rfl
@[simp] theorem State.updLink_eq (b : Board) (f : Link → Link) : s.updLink b f = s.setLink b (f (s.link b)) := rfl
@[simp] theorem State.updPort_eq (k : Slot) (f : Port → Port) : s.updPort k f = s.setPort k (f (s.port k)) := rfl

/-! ## `setPart` -/

@[simp] theorem State.setPart_boards (k : Slot) (p : Partition) : (s.setPart k p).boards = s.boards := by dsimp only [State.setPart]
@[simp] theorem State.setPart_links (k : Slot) (p : Partition) : (s.setPart k p).links = s.links := by dsimp only [State.setPart]
@[simp] theorem State.setPart_pool (k : Slot) (p : Partition) : (s.setPart k p).pool = s.pool := by dsimp only [State.setPart]
@[simp] theorem State.setPart_ports (k : Slot) (p : Partition) : (s.setPart k p).ports = s.ports := by dsimp only [State.setPart]
@[simp] theorem State.setPart_engine (k : Slot) (p : Partition) : (s.setPart k p).engine = s.engine := by dsimp only [State.setPart]
@[simp] theorem State.setPart_loader (k : Slot) (p : Partition) : (s.setPart k p).loader = s.loader := by dsimp only [State.setPart]
@[simp] theorem State.setPart_store (k : Slot) (p : Partition) : (s.setPart k p).store = s.store := by dsimp only [State.setPart]
@[simp] theorem State.setPart_resetHeld (k : Slot) (p : Partition) : (s.setPart k p).resetHeld = s.resetHeld := by dsimp only [State.setPart]
@[simp] theorem State.setPart_freeCount (k : Slot) (p : Partition) : (s.setPart k p).freeCount = s.freeCount := by dsimp only [State.setPart]
@[simp] theorem State.setPart_pending (k : Slot) (p : Partition) : (s.setPart k p).pending = s.pending := by dsimp only [State.setPart]
@[simp] theorem State.setPart_board (k : Slot) (p : Partition) (i' : Board) : (s.setPart k p).board i' = s.board i' := by dsimp only [State.setPart, State.board]
@[simp] theorem State.setPart_link (k : Slot) (p : Partition) (i' : Board) : (s.setPart k p).link i' = s.link i' := by dsimp only [State.setPart, State.link]
@[simp] theorem State.setPart_port (k : Slot) (p : Partition) (i' : Slot) : (s.setPart k p).port i' = s.port i' := by dsimp only [State.setPart, State.port]
@[simp] theorem State.setPart_record (k : Slot) (p : Partition) (i' : Fin 48) : (s.setPart k p).record i' = s.record i' := by dsimp only [State.setPart, State.record]
@[simp] theorem State.setPart_part_self (k : Slot) (p : Partition) : (s.setPart k p).part k = p := by
  simp [State.setPart, State.part]
theorem State.setPart_part_ne (k : Slot) (p : Partition) (j : Slot) (h : j ≠ k) : (s.setPart k p).part j = s.part j := by
  have : (k : Nat) ≠ j := fun e => h (Fin.ext e.symm)
  simp [State.setPart, State.part, this]

/-! ## `mapParts` -/

@[simp] theorem State.mapParts_boards (f : Slot → Partition → Partition) : (s.mapParts f).boards = s.boards := by dsimp only [State.mapParts]
@[simp] theorem State.mapParts_links (f : Slot → Partition → Partition) : (s.mapParts f).links = s.links := by dsimp only [State.mapParts]
@[simp] theorem State.mapParts_pool (f : Slot → Partition → Partition) : (s.mapParts f).pool = s.pool := by dsimp only [State.mapParts]
@[simp] theorem State.mapParts_ports (f : Slot → Partition → Partition) : (s.mapParts f).ports = s.ports := by dsimp only [State.mapParts]
@[simp] theorem State.mapParts_engine (f : Slot → Partition → Partition) : (s.mapParts f).engine = s.engine := by dsimp only [State.mapParts]
@[simp] theorem State.mapParts_loader (f : Slot → Partition → Partition) : (s.mapParts f).loader = s.loader := by dsimp only [State.mapParts]
@[simp] theorem State.mapParts_store (f : Slot → Partition → Partition) : (s.mapParts f).store = s.store := by dsimp only [State.mapParts]
@[simp] theorem State.mapParts_resetHeld (f : Slot → Partition → Partition) : (s.mapParts f).resetHeld = s.resetHeld := by dsimp only [State.mapParts]
@[simp] theorem State.mapParts_freeCount (f : Slot → Partition → Partition) : (s.mapParts f).freeCount = s.freeCount := by dsimp only [State.mapParts]
@[simp] theorem State.mapParts_pending (f : Slot → Partition → Partition) : (s.mapParts f).pending = s.pending := by dsimp only [State.mapParts]
@[simp] theorem State.mapParts_board (f : Slot → Partition → Partition) (i' : Board) : (s.mapParts f).board i' = s.board i' := by dsimp only [State.mapParts, State.board]
@[simp] theorem State.mapParts_link (f : Slot → Partition → Partition) (i' : Board) : (s.mapParts f).link i' = s.link i' := by dsimp only [State.mapParts, State.link]
@[simp] theorem State.mapParts_port (f : Slot → Partition → Partition) (i' : Slot) : (s.mapParts f).port i' = s.port i' := by dsimp only [State.mapParts, State.port]
@[simp] theorem State.mapParts_record (f : Slot → Partition → Partition) (i' : Fin 48) : (s.mapParts f).record i' = s.record i' := by dsimp only [State.mapParts, State.record]
@[simp] theorem State.mapParts_part (f : Slot → Partition → Partition) (j : Slot) : (s.mapParts f).part j = f j (s.part j) := by
  simp [State.mapParts, State.part]

/-! ## `setBoard` -/

@[simp] theorem State.setBoard_parts (b : Board) (r : BoardRecord) : (s.setBoard b r).parts = s.parts := by dsimp only [State.setBoard]
@[simp] theorem State.setBoard_links (b : Board) (r : BoardRecord) : (s.setBoard b r).links = s.links := by dsimp only [State.setBoard]
@[simp] theorem State.setBoard_pool (b : Board) (r : BoardRecord) : (s.setBoard b r).pool = s.pool := by dsimp only [State.setBoard]
@[simp] theorem State.setBoard_ports (b : Board) (r : BoardRecord) : (s.setBoard b r).ports = s.ports := by dsimp only [State.setBoard]
@[simp] theorem State.setBoard_engine (b : Board) (r : BoardRecord) : (s.setBoard b r).engine = s.engine := by dsimp only [State.setBoard]
@[simp] theorem State.setBoard_loader (b : Board) (r : BoardRecord) : (s.setBoard b r).loader = s.loader := by dsimp only [State.setBoard]
@[simp] theorem State.setBoard_store (b : Board) (r : BoardRecord) : (s.setBoard b r).store = s.store := by dsimp only [State.setBoard]
@[simp] theorem State.setBoard_resetHeld (b : Board) (r : BoardRecord) : (s.setBoard b r).resetHeld = s.resetHeld := by dsimp only [State.setBoard]
@[simp] theorem State.setBoard_freeCount (b : Board) (r : BoardRecord) : (s.setBoard b r).freeCount = s.freeCount := by dsimp only [State.setBoard]
@[simp] theorem State.setBoard_pending (b : Board) (r : BoardRecord) : (s.setBoard b r).pending = s.pending := by dsimp only [State.setBoard]
@[simp] theorem State.setBoard_part (b : Board) (r : BoardRecord) (i' : Slot) : (s.setBoard b r).part i' = s.part i' := by dsimp only [State.setBoard, State.part]
@[simp] theorem State.setBoard_link (b : Board) (r : BoardRecord) (i' : Board) : (s.setBoard b r).link i' = s.link i' := by dsimp only [State.setBoard, State.link]
@[simp] theorem State.setBoard_port (b : Board) (r : BoardRecord) (i' : Slot) : (s.setBoard b r).port i' = s.port i' := by dsimp only [State.setBoard, State.port]
@[simp] theorem State.setBoard_record (b : Board) (r : BoardRecord) (i' : Fin 48) : (s.setBoard b r).record i' = s.record i' := by dsimp only [State.setBoard, State.record]
@[simp] theorem State.setBoard_board_self (b : Board) (r : BoardRecord) : (s.setBoard b r).board b = r := by
  simp [State.setBoard, State.board]
theorem State.setBoard_board_ne (b : Board) (r : BoardRecord) (j : Board) (h : j ≠ b) : (s.setBoard b r).board j = s.board j := by
  have : (b : Nat) ≠ j := fun e => h (Fin.ext e.symm)
  simp [State.setBoard, State.board, this]

/-! ## `mapBoards` -/

@[simp] theorem State.mapBoards_parts (f : Board → BoardRecord → BoardRecord) : (s.mapBoards f).parts = s.parts := by dsimp only [State.mapBoards]
@[simp] theorem State.mapBoards_links (f : Board → BoardRecord → BoardRecord) : (s.mapBoards f).links = s.links := by dsimp only [State.mapBoards]
@[simp] theorem State.mapBoards_pool (f : Board → BoardRecord → BoardRecord) : (s.mapBoards f).pool = s.pool := by dsimp only [State.mapBoards]
@[simp] theorem State.mapBoards_ports (f : Board → BoardRecord → BoardRecord) : (s.mapBoards f).ports = s.ports := by dsimp only [State.mapBoards]
@[simp] theorem State.mapBoards_engine (f : Board → BoardRecord → BoardRecord) : (s.mapBoards f).engine = s.engine := by dsimp only [State.mapBoards]
@[simp] theorem State.mapBoards_loader (f : Board → BoardRecord → BoardRecord) : (s.mapBoards f).loader = s.loader := by dsimp only [State.mapBoards]
@[simp] theorem State.mapBoards_store (f : Board → BoardRecord → BoardRecord) : (s.mapBoards f).store = s.store := by dsimp only [State.mapBoards]
@[simp] theorem State.mapBoards_resetHeld (f : Board → BoardRecord → BoardRecord) : (s.mapBoards f).resetHeld = s.resetHeld := by dsimp only [State.mapBoards]
@[simp] theorem State.mapBoards_freeCount (f : Board → BoardRecord → BoardRecord) : (s.mapBoards f).freeCount = s.freeCount := by dsimp only [State.mapBoards]
@[simp] theorem State.mapBoards_pending (f : Board → BoardRecord → BoardRecord) : (s.mapBoards f).pending = s.pending := by dsimp only [State.mapBoards]
@[simp] theorem State.mapBoards_part (f : Board → BoardRecord → BoardRecord) (i' : Slot) : (s.mapBoards f).part i' = s.part i' := by dsimp only [State.mapBoards, State.part]
@[simp] theorem State.mapBoards_link (f : Board → BoardRecord → BoardRecord) (i' : Board) : (s.mapBoards f).link i' = s.link i' := by dsimp only [State.mapBoards, State.link]
@[simp] theorem State.mapBoards_port (f : Board → BoardRecord → BoardRecord) (i' : Slot) : (s.mapBoards f).port i' = s.port i' := by dsimp only [State.mapBoards, State.port]
@[simp] theorem State.mapBoards_record (f : Board → BoardRecord → BoardRecord) (i' : Fin 48) : (s.mapBoards f).record i' = s.record i' := by dsimp only [State.mapBoards, State.record]
@[simp] theorem State.mapBoards_board (f : Board → BoardRecord → BoardRecord) (j : Board) : (s.mapBoards f).board j = f j (s.board j) := by
  simp [State.mapBoards, State.board]

/-! ## `setLink` -/

@[simp] theorem State.setLink_parts (b : Board) (l : Link) : (s.setLink b l).parts = s.parts := by dsimp only [State.setLink]
@[simp] theorem State.setLink_boards (b : Board) (l : Link) : (s.setLink b l).boards = s.boards := by dsimp only [State.setLink]
@[simp] theorem State.setLink_pool (b : Board) (l : Link) : (s.setLink b l).pool = s.pool := by dsimp only [State.setLink]
@[simp] theorem State.setLink_ports (b : Board) (l : Link) : (s.setLink b l).ports = s.ports := by dsimp only [State.setLink]
@[simp] theorem State.setLink_engine (b : Board) (l : Link) : (s.setLink b l).engine = s.engine := by dsimp only [State.setLink]
@[simp] theorem State.setLink_loader (b : Board) (l : Link) : (s.setLink b l).loader = s.loader := by dsimp only [State.setLink]
@[simp] theorem State.setLink_store (b : Board) (l : Link) : (s.setLink b l).store = s.store := by dsimp only [State.setLink]
@[simp] theorem State.setLink_resetHeld (b : Board) (l : Link) : (s.setLink b l).resetHeld = s.resetHeld := by dsimp only [State.setLink]
@[simp] theorem State.setLink_freeCount (b : Board) (l : Link) : (s.setLink b l).freeCount = s.freeCount := by dsimp only [State.setLink]
@[simp] theorem State.setLink_pending (b : Board) (l : Link) : (s.setLink b l).pending = s.pending := by dsimp only [State.setLink]
@[simp] theorem State.setLink_part (b : Board) (l : Link) (i' : Slot) : (s.setLink b l).part i' = s.part i' := by dsimp only [State.setLink, State.part]
@[simp] theorem State.setLink_board (b : Board) (l : Link) (i' : Board) : (s.setLink b l).board i' = s.board i' := by dsimp only [State.setLink, State.board]
@[simp] theorem State.setLink_port (b : Board) (l : Link) (i' : Slot) : (s.setLink b l).port i' = s.port i' := by dsimp only [State.setLink, State.port]
@[simp] theorem State.setLink_record (b : Board) (l : Link) (i' : Fin 48) : (s.setLink b l).record i' = s.record i' := by dsimp only [State.setLink, State.record]
@[simp] theorem State.setLink_link_self (b : Board) (l : Link) : (s.setLink b l).link b = l := by
  simp [State.setLink, State.link]
theorem State.setLink_link_ne (b : Board) (l : Link) (j : Board) (h : j ≠ b) : (s.setLink b l).link j = s.link j := by
  have : (b : Nat) ≠ j := fun e => h (Fin.ext e.symm)
  simp [State.setLink, State.link, this]

/-! ## `mapLinks` -/

@[simp] theorem State.mapLinks_parts (f : Board → Link → Link) : (s.mapLinks f).parts = s.parts := by dsimp only [State.mapLinks]
@[simp] theorem State.mapLinks_boards (f : Board → Link → Link) : (s.mapLinks f).boards = s.boards := by dsimp only [State.mapLinks]
@[simp] theorem State.mapLinks_pool (f : Board → Link → Link) : (s.mapLinks f).pool = s.pool := by dsimp only [State.mapLinks]
@[simp] theorem State.mapLinks_ports (f : Board → Link → Link) : (s.mapLinks f).ports = s.ports := by dsimp only [State.mapLinks]
@[simp] theorem State.mapLinks_engine (f : Board → Link → Link) : (s.mapLinks f).engine = s.engine := by dsimp only [State.mapLinks]
@[simp] theorem State.mapLinks_loader (f : Board → Link → Link) : (s.mapLinks f).loader = s.loader := by dsimp only [State.mapLinks]
@[simp] theorem State.mapLinks_store (f : Board → Link → Link) : (s.mapLinks f).store = s.store := by dsimp only [State.mapLinks]
@[simp] theorem State.mapLinks_resetHeld (f : Board → Link → Link) : (s.mapLinks f).resetHeld = s.resetHeld := by dsimp only [State.mapLinks]
@[simp] theorem State.mapLinks_freeCount (f : Board → Link → Link) : (s.mapLinks f).freeCount = s.freeCount := by dsimp only [State.mapLinks]
@[simp] theorem State.mapLinks_pending (f : Board → Link → Link) : (s.mapLinks f).pending = s.pending := by dsimp only [State.mapLinks]
@[simp] theorem State.mapLinks_part (f : Board → Link → Link) (i' : Slot) : (s.mapLinks f).part i' = s.part i' := by dsimp only [State.mapLinks, State.part]
@[simp] theorem State.mapLinks_board (f : Board → Link → Link) (i' : Board) : (s.mapLinks f).board i' = s.board i' := by dsimp only [State.mapLinks, State.board]
@[simp] theorem State.mapLinks_port (f : Board → Link → Link) (i' : Slot) : (s.mapLinks f).port i' = s.port i' := by dsimp only [State.mapLinks, State.port]
@[simp] theorem State.mapLinks_record (f : Board → Link → Link) (i' : Fin 48) : (s.mapLinks f).record i' = s.record i' := by dsimp only [State.mapLinks, State.record]
@[simp] theorem State.mapLinks_link (f : Board → Link → Link) (j : Board) : (s.mapLinks f).link j = f j (s.link j) := by
  simp [State.mapLinks, State.link]

/-! ## `setPort` -/

@[simp] theorem State.setPort_parts (k : Slot) (p : Port) : (s.setPort k p).parts = s.parts := by dsimp only [State.setPort]
@[simp] theorem State.setPort_boards (k : Slot) (p : Port) : (s.setPort k p).boards = s.boards := by dsimp only [State.setPort]
@[simp] theorem State.setPort_links (k : Slot) (p : Port) : (s.setPort k p).links = s.links := by dsimp only [State.setPort]
@[simp] theorem State.setPort_pool (k : Slot) (p : Port) : (s.setPort k p).pool = s.pool := by dsimp only [State.setPort]
@[simp] theorem State.setPort_engine (k : Slot) (p : Port) : (s.setPort k p).engine = s.engine := by dsimp only [State.setPort]
@[simp] theorem State.setPort_loader (k : Slot) (p : Port) : (s.setPort k p).loader = s.loader := by dsimp only [State.setPort]
@[simp] theorem State.setPort_store (k : Slot) (p : Port) : (s.setPort k p).store = s.store := by dsimp only [State.setPort]
@[simp] theorem State.setPort_resetHeld (k : Slot) (p : Port) : (s.setPort k p).resetHeld = s.resetHeld := by dsimp only [State.setPort]
@[simp] theorem State.setPort_freeCount (k : Slot) (p : Port) : (s.setPort k p).freeCount = s.freeCount := by dsimp only [State.setPort]
@[simp] theorem State.setPort_pending (k : Slot) (p : Port) : (s.setPort k p).pending = s.pending := by dsimp only [State.setPort]
@[simp] theorem State.setPort_part (k : Slot) (p : Port) (i' : Slot) : (s.setPort k p).part i' = s.part i' := by dsimp only [State.setPort, State.part]
@[simp] theorem State.setPort_board (k : Slot) (p : Port) (i' : Board) : (s.setPort k p).board i' = s.board i' := by dsimp only [State.setPort, State.board]
@[simp] theorem State.setPort_link (k : Slot) (p : Port) (i' : Board) : (s.setPort k p).link i' = s.link i' := by dsimp only [State.setPort, State.link]
@[simp] theorem State.setPort_record (k : Slot) (p : Port) (i' : Fin 48) : (s.setPort k p).record i' = s.record i' := by dsimp only [State.setPort, State.record]
@[simp] theorem State.setPort_port_self (k : Slot) (p : Port) : (s.setPort k p).port k = p := by
  simp [State.setPort, State.port]
theorem State.setPort_port_ne (k : Slot) (p : Port) (j : Slot) (h : j ≠ k) : (s.setPort k p).port j = s.port j := by
  have : (k : Nat) ≠ j := fun e => h (Fin.ext e.symm)
  simp [State.setPort, State.port, this]

/-! ## `setRecord` -/

@[simp] theorem State.setRecord_parts (i : Fin 48) (r : Option PoolRecord) : (s.setRecord i r).parts = s.parts := by dsimp only [State.setRecord]
@[simp] theorem State.setRecord_boards (i : Fin 48) (r : Option PoolRecord) : (s.setRecord i r).boards = s.boards := by dsimp only [State.setRecord]
@[simp] theorem State.setRecord_links (i : Fin 48) (r : Option PoolRecord) : (s.setRecord i r).links = s.links := by dsimp only [State.setRecord]
@[simp] theorem State.setRecord_ports (i : Fin 48) (r : Option PoolRecord) : (s.setRecord i r).ports = s.ports := by dsimp only [State.setRecord]
@[simp] theorem State.setRecord_engine (i : Fin 48) (r : Option PoolRecord) : (s.setRecord i r).engine = s.engine := by dsimp only [State.setRecord]
@[simp] theorem State.setRecord_loader (i : Fin 48) (r : Option PoolRecord) : (s.setRecord i r).loader = s.loader := by dsimp only [State.setRecord]
@[simp] theorem State.setRecord_store (i : Fin 48) (r : Option PoolRecord) : (s.setRecord i r).store = s.store := by dsimp only [State.setRecord]
@[simp] theorem State.setRecord_resetHeld (i : Fin 48) (r : Option PoolRecord) : (s.setRecord i r).resetHeld = s.resetHeld := by dsimp only [State.setRecord]
@[simp] theorem State.setRecord_freeCount (i : Fin 48) (r : Option PoolRecord) : (s.setRecord i r).freeCount = s.freeCount := by dsimp only [State.setRecord]
@[simp] theorem State.setRecord_pending (i : Fin 48) (r : Option PoolRecord) : (s.setRecord i r).pending = s.pending := by dsimp only [State.setRecord]
@[simp] theorem State.setRecord_part (i : Fin 48) (r : Option PoolRecord) (i' : Slot) : (s.setRecord i r).part i' = s.part i' := by dsimp only [State.setRecord, State.part]
@[simp] theorem State.setRecord_board (i : Fin 48) (r : Option PoolRecord) (i' : Board) : (s.setRecord i r).board i' = s.board i' := by dsimp only [State.setRecord, State.board]
@[simp] theorem State.setRecord_link (i : Fin 48) (r : Option PoolRecord) (i' : Board) : (s.setRecord i r).link i' = s.link i' := by dsimp only [State.setRecord, State.link]
@[simp] theorem State.setRecord_port (i : Fin 48) (r : Option PoolRecord) (i' : Slot) : (s.setRecord i r).port i' = s.port i' := by dsimp only [State.setRecord, State.port]
@[simp] theorem State.setRecord_record_self (i : Fin 48) (r : Option PoolRecord) : (s.setRecord i r).record i = r := by
  simp [State.setRecord, State.record]
theorem State.setRecord_record_ne (i : Fin 48) (r : Option PoolRecord) (j : Fin 48) (h : j ≠ i) : (s.setRecord i r).record j = s.record j := by
  have : (i : Nat) ≠ j := fun e => h (Fin.ext e.symm)
  simp [State.setRecord, State.record, this]

/-! ## `mapRecords` -/

@[simp] theorem State.mapRecords_parts (f : Option PoolRecord → Option PoolRecord) : (s.mapRecords f).parts = s.parts := by dsimp only [State.mapRecords]
@[simp] theorem State.mapRecords_boards (f : Option PoolRecord → Option PoolRecord) : (s.mapRecords f).boards = s.boards := by dsimp only [State.mapRecords]
@[simp] theorem State.mapRecords_links (f : Option PoolRecord → Option PoolRecord) : (s.mapRecords f).links = s.links := by dsimp only [State.mapRecords]
@[simp] theorem State.mapRecords_ports (f : Option PoolRecord → Option PoolRecord) : (s.mapRecords f).ports = s.ports := by dsimp only [State.mapRecords]
@[simp] theorem State.mapRecords_engine (f : Option PoolRecord → Option PoolRecord) : (s.mapRecords f).engine = s.engine := by dsimp only [State.mapRecords]
@[simp] theorem State.mapRecords_loader (f : Option PoolRecord → Option PoolRecord) : (s.mapRecords f).loader = s.loader := by dsimp only [State.mapRecords]
@[simp] theorem State.mapRecords_store (f : Option PoolRecord → Option PoolRecord) : (s.mapRecords f).store = s.store := by dsimp only [State.mapRecords]
@[simp] theorem State.mapRecords_resetHeld (f : Option PoolRecord → Option PoolRecord) : (s.mapRecords f).resetHeld = s.resetHeld := by dsimp only [State.mapRecords]
@[simp] theorem State.mapRecords_freeCount (f : Option PoolRecord → Option PoolRecord) : (s.mapRecords f).freeCount = s.freeCount := by dsimp only [State.mapRecords]
@[simp] theorem State.mapRecords_pending (f : Option PoolRecord → Option PoolRecord) : (s.mapRecords f).pending = s.pending := by dsimp only [State.mapRecords]
@[simp] theorem State.mapRecords_part (f : Option PoolRecord → Option PoolRecord) (i' : Slot) : (s.mapRecords f).part i' = s.part i' := by dsimp only [State.mapRecords, State.part]
@[simp] theorem State.mapRecords_board (f : Option PoolRecord → Option PoolRecord) (i' : Board) : (s.mapRecords f).board i' = s.board i' := by dsimp only [State.mapRecords, State.board]
@[simp] theorem State.mapRecords_link (f : Option PoolRecord → Option PoolRecord) (i' : Board) : (s.mapRecords f).link i' = s.link i' := by dsimp only [State.mapRecords, State.link]
@[simp] theorem State.mapRecords_port (f : Option PoolRecord → Option PoolRecord) (i' : Slot) : (s.mapRecords f).port i' = s.port i' := by dsimp only [State.mapRecords, State.port]
@[simp] theorem State.mapRecords_record (f : Option PoolRecord → Option PoolRecord) (j : Fin 48) : (s.mapRecords f).record j = f (s.record j) := by
  simp [State.mapRecords, State.record]

end Sys2Proof.Machine
end

