-- ==== Sys2Proof/Laws/Ops.lean ====
section
/-! SUPPORT. What each shared operation can do, said once. -/

namespace Sys2Proof.Machine

/-! ## Taking a command -/

/-- A command always answers a next state. -/
theorem act_eq (f : State → State) (s : State) : act f s = .next (if s.resetHeld then s else f s) := rfl

/-- While the sequencer runs, a command has its effect. -/
theorem act_running {f : State → State} {s : State} (h : s.resetHeld = false) : act f s = .next (f s) := by
  simp [act, h]

/-- A request that waits is taken. -/
theorem take_waits {k : Slot} {r : Request} {f : State → State} {s : State} (h : Waits s k r) :
    take k r f s = .next (f s) := by
  simp [take, act, h.1, h.2]

/-- A request command has the effect of its request, or none. -/
theorem take_cases (k : Slot) (r : Request) (f : State → State) (s : State) :
    (Waits s k r ∧ take k r f s = .next (f s)) ∨ take k r f s = .next s := by
  by_cases h : Waits s k r
  · exact .inl ⟨h, take_waits h⟩
  · refine .inr ?_
    unfold Waits at h
    unfold take act
    split
    · rfl
    · rename_i hr
      have hr' : s.resetHeld = false := by simpa using hr
      exact congrArg Host.Outcome.next (if_neg fun e => h ⟨hr', e⟩)

/-- An operation that needs the slot open, in an open slot. -/
theorem whenOpen_open {k : Slot} {f : State → State} {s : State} (h : (s.part k).state ≠ .closed) :
    whenOpen k f s = f s := by simp [whenOpen, h]

/-- An operation that needs the slot open, in a CLOSED slot. -/
theorem whenOpen_closed {k : Slot} {f : State → State} {s : State} (h : (s.part k).state = .closed) :
    whenOpen k f s = refuse k .notOpen s := by simp [whenOpen, h]

/-- An operation that needs STOPPED, in STOPPED. -/
theorem whenStopped_stopped {k : Slot} {f : State → State} {s : State} (h : (s.part k).state = .stopped) :
    whenStopped k f s = f s := by simp [whenStopped, whenOpen, h]

/-- An operation that needs STOPPED: what it can do. -/
theorem whenStopped_cases (k : Slot) (f : State → State) (s : State) :
    whenStopped k f s = refuse k .notOpen s ∨ whenStopped k f s = refuse k .wrongState s
      ∨ ((s.part k).state = .stopped ∧ whenStopped k f s = f s) := by
  unfold whenStopped whenOpen
  split
  · exact .inl rfl
  · dsimp only
    split
    · exact .inr (.inr ⟨‹_›, rfl⟩)
    · exact .inr (.inl rfl)

/-! ## Responses -/

/-- The port after a response is built (R191). -/
theorem respond_port (k : Slot) (st : Status) (c : Bool) (body : List Byte) (s : State) :
    (respond k st c body s).port k
      = { s.port k with state := .responseReady, work := none, request := [], overlong := false, readPosition := 0,
                        response := responseFrame ((s.port k).request.getD 0 0) ((s.port k).request.getD 1 0) st c
                          body } := by
  simp [respond]

/-- A response leaves every other port as it was. -/
theorem respond_port_ne (k j : Slot) (h : j ≠ k) (st : Status) (c : Bool) (body : List Byte) (s : State) :
    (respond k st c body s).port j = s.port j := by
  simp only [respond, State.updPort_eq]
  exact State.setPort_port_ne _ _ _ _ h

@[simp] theorem respond_parts (k : Slot) (st : Status) (c : Bool) (b : List Byte) (s : State) :
    (respond k st c b s).parts = s.parts := by simp [respond]
@[simp] theorem respond_part (k : Slot) (st : Status) (c : Bool) (b : List Byte) (s : State) (j : Slot) :
    (respond k st c b s).part j = s.part j := by simp [respond]
@[simp] theorem respond_board (k : Slot) (st : Status) (c : Bool) (b : List Byte) (s : State) (j : Board) :
    (respond k st c b s).board j = s.board j := by simp [respond]
@[simp] theorem respond_link (k : Slot) (st : Status) (c : Bool) (b : List Byte) (s : State) (j : Board) :
    (respond k st c b s).link j = s.link j := by simp [respond]
@[simp] theorem respond_record (k : Slot) (st : Status) (c : Bool) (b : List Byte) (s : State) (i : Fin 48) :
    (respond k st c b s).record i = s.record i := by simp [respond]
@[simp] theorem respond_engine (k : Slot) (st : Status) (c : Bool) (b : List Byte) (s : State) :
    (respond k st c b s).engine = s.engine := by simp [respond]
@[simp] theorem respond_loader (k : Slot) (st : Status) (c : Bool) (b : List Byte) (s : State) :
    (respond k st c b s).loader = s.loader := by simp [respond]
@[simp] theorem respond_store (k : Slot) (st : Status) (c : Bool) (b : List Byte) (s : State) :
    (respond k st c b s).store = s.store := by simp [respond]
@[simp] theorem respond_resetHeld (k : Slot) (st : Status) (c : Bool) (b : List Byte) (s : State) :
    (respond k st c b s).resetHeld = s.resetHeld := by simp [respond]
@[simp] theorem respond_pending (k : Slot) (st : Status) (c : Bool) (b : List Byte) (s : State) :
    (respond k st c b s).pending = s.pending := by simp [respond]

/-! ## Records -/

/-- A record offered with enough entries free is the youngest record (R175). -/
theorem offer_stored {r : EventRecord} {p : Partition} (h : p.queue.records.length + r.needs ≤ Config.queueEntries) :
    p.offer r = { p with queue := { p.queue with records := p.queue.records ++ [r] } } := by simp [Partition.offer, h]

/-- A record offered without is dropped and counted (R176). -/
theorem offer_dropped {r : EventRecord} {p : Partition}
    (h : Config.queueEntries < p.queue.records.length + r.needs) :
    p.offer r = { p with queue := { p.queue with drops := min (p.queue.drops + 1) Config.maxDrops, overflow := true },
                         sticky := { p.sticky with overflow := true } } := by
  simp [Partition.offer, Nat.not_le.mpr h]

/-- Offering a record changes only the queue and OVERFLOW of one partition. -/
theorem offerRecord_eq (k : Slot) (r : EventRecord) (s : State) :
    offerRecord k r s = s.setPart k ((s.part k).offer r) := rfl

/-! ## The work item -/

@[simp] theorem voidWork_part (k j : Slot) (s : State) : (voidWork k s).part j = s.part j := rfl
@[simp] theorem voidWork_port (k j : Slot) (s : State) : (voidWork k s).port j = s.port j := rfl
@[simp] theorem voidWork_board (k : Slot) (b : Board) (s : State) : (voidWork k s).board b = s.board b := rfl
@[simp] theorem voidWork_link (k : Slot) (b : Board) (s : State) : (voidWork k s).link b = s.link b := rfl

/-- The engine selects a partition that requests service and begins its work item, or nothing changes (R33, R34). -/
theorem engineSelect_cases (s : State) :
    engineSelect s = s
      ∨ ∃ k, s.engine.item = none ∧ (s.part k).requests = true ∧ engineSelect s = beginWork k s := by
  unfold engineSelect
  split
  · exact .inl rfl
  · rename_i hn
    split
    · rename_i k hk
      exact .inr ⟨k, hn, by simpa using List.find?_some (p := fun k => (s.part k).requests) hk, rfl⟩
    · exact .inl rfl

@[simp] theorem engineSelect_part (s : State) (k : Slot) : (engineSelect s).part k = s.part k := by
  rcases engineSelect_cases s with h | ⟨_, _, _, h⟩ <;> rw [h]; rfl
@[simp] theorem engineSelect_port (s : State) (k : Slot) : (engineSelect s).port k = s.port k := by
  rcases engineSelect_cases s with h | ⟨_, _, _, h⟩ <;> rw [h]; rfl
@[simp] theorem engineSelect_board (s : State) (b : Board) : (engineSelect s).board b = s.board b := by
  rcases engineSelect_cases s with h | ⟨_, _, _, h⟩ <;> rw [h]; rfl
@[simp] theorem engineSelect_link (s : State) (b : Board) : (engineSelect s).link b = s.link b := by
  rcases engineSelect_cases s with h | ⟨_, _, _, h⟩ <;> rw [h]; rfl

/-! ## Stop candidates -/

/-- Outside the run states a stop candidate has no effect (R85). -/
theorem candidate_not_run {k : Slot} {n : Nat} {r : StopReason} {s : State} (h : (s.part k).state.isRun = false) :
    candidate k n r s = s := by simp [candidate, h]

/-- In a run state a stop candidate sets or lowers the stop point, or joins the also-reasons (R85). -/
theorem candidate_run {k : Slot} {n : Nat} {r : StopReason} {s : State} (h : (s.part k).state.isRun = true) :
    candidate k n r s = setStopPoint k n r s
      ∨ (∃ point, (s.part k).stop = some point ∧ point.step ≤ n
          ∧ candidate k n r s = s.updPart k fun p => { p with also := p.also.add r.name }) := by
  unfold candidate
  rw [if_pos h]
  split
  · exact .inl rfl
  · rename_i point hp
    split
    · exact .inl rfl
    · exact .inr ⟨point, hp, by omega, rfl⟩

/-! ## Boards one after another -/

/-- What every board's operation keeps, all of them keep. -/
theorem forBoards_keeps {P : State → Prop} {op : Board → State → State} (h : ∀ b s, P s → P (op b s)) :
    ∀ (bs : List Board) (s : State), P s → P (forBoards op bs s) := by
  intro bs
  induction bs with
  | nil => intro _ hs; exact hs
  | cons b bs ih => intro s hs; exact ih _ (h b s hs)

/-- What every slot's operation keeps, all of them keep. -/
theorem forSlots_keeps {P : State → Prop} {op : Slot → State → State} (h : ∀ k s, P s → P (op k s)) :
    ∀ (ks : List Slot) (s : State), P s → P (forSlots op ks s) := by
  intro ks
  induction ks with
  | nil => intro _ hs; exact hs
  | cons k ks ih => intro s hs; exact ih _ (h k s hs)

/-! ## Exchanges -/

/-- A port that works no exchange is left alone. -/
theorem settlePort_idle {k : Slot} {s : State} (h : (s.port k).work = none ∨ (s.port k).work = some .handed) :
    settlePort k s = s := by
  unfold settlePort
  rcases h with h | h <;> simp [h]

/-- With no exchange in progress the exchanges are settled already. -/
theorem settleExchanges_quiet {s : State} (h : quiet s = true) : settleExchanges s = s := by
  simp only [quiet, allSlots, List.all_cons, List.all_nil, Bool.and_true, Bool.and_eq_true, Bool.or_eq_true,
    beq_iff_eq] at h
  obtain ⟨⟨_, hp⟩, h0, h1, h2, h3⟩ := h
  unfold settleExchanges
  rw [settlePort_idle h0, settlePort_idle h1, settlePort_idle h2, settlePort_idle h3]
  unfold settleStartUp
  rw [if_neg]
  rw [hp]
  exact fun e => nomatch e.1

/-- With no exchange in progress what follows an event is the engine's selection. -/
theorem settle_quiet {s : State} (h : quiet s = true) : settle s = engineSelect s := by
  unfold settle
  rw [settleExchanges_quiet h]

/-! ## Transactions -/

/-- A transaction changes its own port alone, by the transaction its byte selects (R183). -/
theorem transact_eq (k : Slot) (b : Byte) (dataIn : List Bool) (s : State) :
    transact k b dataIn s = s.updPort k (match transactionOf b with
      | some .writeRequest => Port.write dataIn
      | some .readResponse => Port.read dataIn.length
      | some .readPortStatus => Port.readStatus (s.attention k) dataIn.length
      | none => Port.unknown dataIn.length) := by
  unfold transact
  split <;> simp [*]

/-- The byte of each transaction selects it (R212). -/
@[simp] theorem transactionOf_byte (kind : TransactionKind) : transactionOf kind.byte = some kind := by
  cases kind <;> decide

end Sys2Proof.Machine
end

