-- ==== Sys2Proof/Laws/Run.lean ====
section
/-! SUPPORT. What the operations of run control, of the step pipe and of the trigger filter leave alone: they change
partitions, links and the engine, and nothing else; what the first of them do to the partition they work on; and what
sending again does to a transmit order. -/

namespace Sys2Proof.Machine

/-- From `s` to `t` nothing changes but partitions, links and the engine. -/
def OnlyRun (s t : State) : Prop :=
  t.boards = s.boards ∧ t.pool = s.pool ∧ t.ports = s.ports ∧ t.loader = s.loader ∧ t.store = s.store
    ∧ t.resetHeld = s.resetHeld ∧ t.freeCount = s.freeCount ∧ t.pending = s.pending

theorem OnlyRun.refl (s : State) : OnlyRun s s := ⟨rfl, rfl, rfl, rfl, rfl, rfl, rfl, rfl⟩

theorem OnlyRun.trans {s t u : State} (h : OnlyRun s t) (h' : OnlyRun t u) : OnlyRun s u := by
  obtain ⟨a, b, c, d, e, f, g, i⟩ := h
  obtain ⟨a', b', c', d', e', f', g', i'⟩ := h'
  exact ⟨a'.trans a, b'.trans b, c'.trans c, d'.trans d, e'.trans e, f'.trans f, g'.trans g, i'.trans i⟩

theorem onlyRun_updPart (k : Slot) (f : Partition → Partition) (s : State) : OnlyRun s (s.updPart k f) := .refl s
theorem onlyRun_setPart (k : Slot) (p : Partition) (s : State) : OnlyRun s (s.setPart k p) := .refl s
theorem onlyRun_mapParts (f : Slot → Partition → Partition) (s : State) : OnlyRun s (s.mapParts f) := by
  unfold OnlyRun State.mapParts
  exact ⟨rfl, rfl, rfl, rfl, rfl, rfl, rfl, rfl⟩
theorem onlyRun_updLink (b : Board) (f : Link → Link) (s : State) : OnlyRun s (s.updLink b f) := .refl s
theorem onlyRun_mapLinks (f : Board → Link → Link) (s : State) : OnlyRun s (s.mapLinks f) := by
  unfold OnlyRun State.mapLinks
  exact ⟨rfl, rfl, rfl, rfl, rfl, rfl, rfl, rfl⟩
theorem onlyRun_voidWork (k : Slot) (s : State) : OnlyRun s (voidWork k s) := .refl s
theorem onlyRun_offerRecord (k : Slot) (r : EventRecord) (s : State) : OnlyRun s (offerRecord k r s) := .refl s

/-! ## The pipe -/

theorem onlyRun_fire (k : Slot) (e : PipeEntry) (s : State) : OnlyRun s (fire k e s) := .refl s

/-- The fire conditions evaluated: the oldest entry not FIRED is fired, or nothing changes (R113). -/
theorem tryFire_cases (k : Slot) (s : State) :
    tryFire k s = s ∨ ∃ e, (s.part k).fireable = some e ∧ tryFire k s = fire k e s := by
  unfold tryFire
  split
  · exact .inr ⟨_, ‹_›, rfl⟩
  · exact .inl rfl

theorem onlyRun_tryFire (k : Slot) (s : State) : OnlyRun s (tryFire k s) := by
  rcases tryFire_cases k s with h | ⟨e, _, h⟩ <;> rw [h]
  · exact .refl s
  · exact onlyRun_fire k e s

theorem onlyRun_offerStop (k : Slot) (s : State) : OnlyRun s (offerStop k s) := by
  unfold offerStop
  split
  · exact onlyRun_offerRecord _ _ _
  · exact .refl s

theorem onlyRun_restLinks (k : Slot) (s : State) : OnlyRun s (restLinks k s) := onlyRun_mapLinks _ s

/-- Entry to STOPPED puts the links of the partition's own boards at rest, and no other (R122, R143). -/
@[simp] theorem restLinks_link (k : Slot) (s : State) (b : Board) :
    (restLinks k s).link b = if s.owns k b then (s.link b).rest else s.link b := by simp [restLinks]

@[simp] theorem restLinks_part (k j : Slot) (s : State) : (restLinks k s).part j = s.part j := by simp [restLinks]

theorem onlyRun_enterStopped (k : Slot) (s : State) : OnlyRun s (enterStopped k s) := by
  unfold enterStopped
  exact .trans (.refl s) (onlyRun_offerStop _ _)

/-- The stop completion condition evaluated: the partition enters STOPPED, or nothing changes (R124). -/
theorem checkStop_cases (k : Slot) (s : State) :
    checkStop k s = s ∨ (stopComplete k s = true ∧ checkStop k s = enterStopped k s) := by
  unfold checkStop
  split
  · exact .inr ⟨‹_›, rfl⟩
  · exact .inl rfl

theorem onlyRun_checkStop (k : Slot) (s : State) : OnlyRun s (checkStop k s) := by
  rcases checkStop_cases k s with h | ⟨_, h⟩ <;> rw [h]
  · exact .refl s
  · exact onlyRun_enterStopped k s

theorem onlyRun_advance (k : Slot) (s : State) : OnlyRun s (advance k s) :=
  .trans (onlyRun_tryFire k s) (onlyRun_checkStop k _)

theorem onlyRun_markAcked (k : Slot) (b : Board) (n : Nat) (s : State) : OnlyRun s (markAcked k b n s) :=
  .trans (onlyRun_updPart k _ s) (onlyRun_tryFire k _)

theorem onlyRun_markDone (k : Slot) (b : Board) (n : Nat) (s : State) : OnlyRun s (markDone k b n s) := .refl s
theorem onlyRun_retire (k : Slot) (s : State) : OnlyRun s (retire k s) := .refl s
theorem onlyRun_rewind (k : Slot) (n : Nat) (s : State) : OnlyRun s (rewind k n s) := .refl s

/-! ## Stops -/

theorem onlyRun_offerGroupStop (k : Slot) (s : State) : OnlyRun s (offerGroupStop k s) := by
  unfold offerGroupStop
  split
  · exact .refl s
  · exact onlyRun_mapParts _ s

theorem onlyRun_setStopPoint (k : Slot) (n : Nat) (r : StopReason) (s : State) : OnlyRun s (setStopPoint k n r s) := by
  unfold setStopPoint
  dsimp only
  split <;> split
  · exact .trans (.trans (onlyRun_updPart k _ s) (onlyRun_rewind k n _)) (onlyRun_offerGroupStop k _)
  · exact .trans (onlyRun_updPart k _ s) (onlyRun_offerGroupStop k _)
  · exact .trans (onlyRun_updPart k _ s) (onlyRun_rewind k n _)
  · exact onlyRun_updPart k _ s

theorem onlyRun_candidate (k : Slot) (n : Nat) (r : StopReason) (s : State) : OnlyRun s (candidate k n r s) := by
  unfold candidate
  split
  · split
    · exact onlyRun_setStopPoint k n r s
    · split
      · exact onlyRun_setStopPoint k n r s
      · exact onlyRun_updPart k _ s
  · exact .refl s

theorem onlyRun_takeGroupStop (k : Slot) (s : State) : OnlyRun s (takeGroupStop k s) := by
  unfold takeGroupStop
  split
  · exact .trans (onlyRun_candidate k _ _ s) (onlyRun_advance k _)
  · exact .trans (onlyRun_candidate k _ _ s) (onlyRun_advance k _)
  · exact onlyRun_updPart k _ s
  all_goals exact .refl s

theorem onlyRun_offerFinding (k : Slot) (n : Nat) (r : StopReason) (s : State) : OnlyRun s (offerFinding k n r s) :=
  .trans (onlyRun_updPart k _ s) (onlyRun_candidate k n r _)

theorem onlyRun_runLimitFinding (k : Slot) (s : State) : OnlyRun s (runLimitFinding k s) := by
  unfold runLimitFinding
  dsimp only
  split
  · exact onlyRun_offerFinding k _ _ s
  · exact .refl s

theorem onlyRun_startRun (k : Slot) (s : State) : OnlyRun s (startRun k s) := .refl s

theorem onlyRun_endAtStart (k : Slot) (s : State) : OnlyRun s (endAtStart k s) := by
  unfold endAtStart
  dsimp only
  split
  · exact .trans (onlyRun_candidate k _ _ s) (.trans (onlyRun_runLimitFinding k _) (onlyRun_advance k _))
  · exact .trans (onlyRun_runLimitFinding k s) (onlyRun_advance k _)

/-! ## Faults -/

/-- Noting a failed board changes the work of the port alone (R29, R66). -/
theorem noteClaimFailed_eq (k : Slot) (b : Board) (s : State) :
    ∃ work, noteClaimFailed k b s = s.setPort k { s.port k with work := work } := ⟨_, rfl⟩

theorem noteResetFailed_eq (k : Slot) (b : Board) (s : State) :
    ∃ work, noteResetFailed k b s = s.setPort k { s.port k with work := work } := ⟨_, rfl⟩

/-! ## Triggers -/

theorem onlyRun_countReport (k : Slot) (r : TriggerReport) (s : State) : OnlyRun s (countReport k r s) := by
  unfold countReport
  dsimp only
  split
  · exact .trans (onlyRun_updPart k _ s) (onlyRun_candidate k _ _ _)
  · exact onlyRun_updPart k _ s

theorem onlyRun_takeReport (k : Slot) (r : TriggerReport) (s : State) : OnlyRun s (takeReport k r s) := by
  unfold takeReport
  dsimp only
  split <;> split
  · exact .trans (onlyRun_countReport k r s) (onlyRun_offerRecord k _ _)
  · exact onlyRun_countReport k r s
  · exact onlyRun_offerRecord k _ s
  · exact .refl s

/-! ## Frames that concern the pipe -/

theorem onlyRun_ackInPipe (b : Board) (n : Nat) (s : State) : OnlyRun s (ackInPipe b n s) := by
  unfold ackInPipe
  split
  · exact onlyRun_markAcked _ b n s
  · exact .refl s

theorem onlyRun_doneInPipe (b : Board) (d : Nat) (report : Option (TriggerId × Option (BitVec 32))) (s : State) :
    OnlyRun s (doneInPipe b d report s) := by
  unfold doneInPipe
  split
  · exact .refl s
  · dsimp only
    split
    · exact .trans (onlyRun_markDone _ b d s) (.trans (onlyRun_takeReport _ _ _) (onlyRun_retire _ _))
    · exact .trans (onlyRun_markDone _ b d s) (onlyRun_retire _ _)

theorem onlyRun_advanceOwner (b : Board) (s : State) : OnlyRun s (advanceOwner b s) := by
  unfold advanceOwner
  split
  · exact onlyRun_advance _ s
  · exact .refl s

theorem onlyRun_statusAcks (b : Board) : ∀ (n : Nat) (s : State), OnlyRun s (statusAcks b n s)
  | 0, s => .refl s
  | n + 1, s => by
    unfold statusAcks
    split
    · exact .trans (.trans (onlyRun_updLink b _ s) (onlyRun_ackInPipe b _ _)) (onlyRun_statusAcks b n _)
    · exact .refl s

theorem onlyRun_statusDones (b : Board) (trigger : Option (Tag × TriggerId)) :
    ∀ (n : Nat) (s : State), OnlyRun s (statusDones b trigger n s)
  | 0, s => .refl s
  | n + 1, s => by
    unfold statusDones
    split
    · exact .trans (.trans (onlyRun_updLink b _ s) (onlyRun_doneInPipe b _ _ _)) (onlyRun_statusDones b trigger n _)
    · exact .refl s

/-! ## Sending again -/

/-- What one step of resending does: the entry's ARM is placed when the step lies in the range and its ARM is not in the
transmit order, and otherwise the entry is passed over (R142). -/
theorem resendArms_cons (a last : Nat) (e : PipeEntry) (es : List PipeEntry) (order : List TxItem) :
    resendArms a last (e :: es) order = resendArms a last es order
      ∨ (a ≤ e.number ∧ e.number ≤ last ∧ order.any (TxItem.isArm e.number) = false
        ∧ resendArms a last (e :: es) order
          = resendArms a last es (insertArm e.number e.changed e.level order)) := by
  by_cases h : a ≤ e.number ∧ e.number ≤ last ∧ order.any (TxItem.isArm e.number) = false
  · exact .inr ⟨h.1, h.2.1, h.2.2, by rw [resendArms, if_pos h]⟩
  · exact .inl (by rw [resendArms, if_neg h])

/-- With the ARM of every step in the transmit order, resending places nothing (R142). -/
theorem resendArms_present (a last : Nat) (order : List TxItem) :
    ∀ es : List PipeEntry, (∀ e ∈ es, order.any (TxItem.isArm e.number) = true) → resendArms a last es order = order
  | [], _ => rfl
  | e :: es, h => by
    rcases resendArms_cons a last e es order with h' | ⟨_, _, h', _⟩
    · exact h'.trans (resendArms_present a last order es fun x hx => h x (List.mem_cons_of_mem _ hx))
    · simp [h e List.mem_cons_self] at h'

/-- The items of the transmit order after an ARM is placed: those that were there, and the ARM. -/
theorem mem_insertArm (step : Nat) (changed level : ClockMask) (i : TxItem) :
    ∀ order : List TxItem, i ∈ insertArm step changed level order ↔ i = .arm step changed level ∨ i ∈ order
  | [] => by simp [insertArm]
  | .poll :: rest => by simp [insertArm, mem_insertArm step changed level i rest, or_left_comm]
  | .arm n c v :: rest => by
    simp only [insertArm]
    split <;> simp [mem_insertArm step changed level i rest, or_left_comm]
  | .flush n :: rest => by simp [insertArm]
  | .sync n v :: rest => by simp [insertArm]
  | .probe :: rest => by simp [insertArm]

/-! ## Kept values -/

/-- The kept values of a list of presets, preset after preset (R59, R199). -/
theorem clampedBytes_eq_flatMap : ∀ ps : List Preset,
    clampedBytes ps = ps.flatMap fun p => BitVec.ofNat 8 p.localNo.val :: p.body.definition.wave.keptBytes
  | [] => rfl
  | p :: ps => by simp [clampedBytes, clampedBytes_eq_flatMap ps]

end Sys2Proof.Machine
end

