-- ==== Sys2Proof/Laws/Store.lean ====
section
/-! SUPPORT. The configuration memory: reading after writing, and every memory operation keeps the canonical form. -/

namespace Sys2Proof.Machine

/-- A byte written is the byte read back. -/
@[simp] theorem readCell_writeCell_self (a : Nat) (v : Byte) (m : List Host.Cell) :
    Memory.wf m = true → readCell (writeCell a v m) a = v := by
  suffices h : ∀ lo, storeFrom lo m = true → readCell (writeCell a v m) a = v from h 0
  induction m with
  | nil => intro lo _; by_cases h : v = storeFill <;> simp [writeCell, readCell, h]
  | cons c rest ih =>
    obtain ⟨b, w⟩ := c
    intro lo hm
    simp only [storeFrom, Bool.and_eq_true, decide_eq_true_eq, bne_iff_ne] at hm
    have below : ∀ l, storeFrom l rest = true → a < l → readCell rest a = storeFill := by
      clear ih hm
      induction rest with
      | nil => intros; rfl
      | cons c rest ih =>
        obtain ⟨b', w'⟩ := c
        intro l hl ha
        simp only [storeFrom, Bool.and_eq_true, decide_eq_true_eq, bne_iff_ne] at hl
        have hne : a ≠ b' := by omega
        simp only [readCell, hne, if_false]
        exact ih _ hl.2 (by omega)
    by_cases h1 : a < b
    · by_cases h : v = storeFill
      · have hne : a ≠ b := by omega
        simp only [writeCell, h1, h, if_true, readCell, hne, if_false]
        exact below _ hm.2 (by omega)
      · simp [writeCell, h1, h, readCell]
    · by_cases h2 : a = b
      · subst h2
        by_cases h : v = storeFill
        · simp only [writeCell, Nat.lt_irrefl, if_false, if_true, h]
          exact below _ hm.2 (by omega)
        · simp [writeCell, h, readCell]
      · simp only [writeCell, h1, h2, if_false, readCell]
        exact ih _ hm.2

/-- A byte written leaves every other byte as it was. -/
theorem readCell_writeCell_ne (a : Nat) (v : Byte) (m : List Host.Cell) (x : Nat) (hx : x ≠ a) :
    readCell (writeCell a v m) x = readCell m x := by
  induction m with
  | nil => by_cases h : v = storeFill <;> simp [writeCell, readCell, h, hx]
  | cons c rest ih =>
    obtain ⟨b, w⟩ := c
    by_cases h1 : a < b
    · by_cases h : v = storeFill <;> simp [writeCell, h1, h, readCell, hx]
    · by_cases h2 : a = b
      · subst h2
        by_cases h : v = storeFill <;> simp [writeCell, h, readCell, hx]
      · simp only [writeCell, h1, h2, if_false, readCell, ih]

/-- The canonical form from a lower address on. -/
theorem storeFrom_le (m : List Host.Cell) {lo lo' : Nat} (h : lo' ≤ lo) (hm : storeFrom lo m = true) :
    storeFrom lo' m = true := by
  cases m with
  | nil => rfl
  | cons c rest =>
    obtain ⟨b, w⟩ := c
    simp only [storeFrom, Bool.and_eq_true, decide_eq_true_eq] at hm ⊢
    exact ⟨⟨⟨by omega, hm.1.1.2⟩, hm.1.2⟩, hm.2⟩

/-- A write below 2048 keeps the canonical form. -/
theorem storeFrom_writeCell (a : Nat) (v : Byte) (ha : a < Config.storeBytes) (m : List Host.Cell) :
    ∀ lo, lo ≤ a → storeFrom lo m = true → storeFrom lo (writeCell a v m) = true := by
  induction m with
  | nil => intro lo hlo _; by_cases h : v = storeFill <;> simp [writeCell, storeFrom, h, hlo, ha]
  | cons c rest ih =>
    obtain ⟨b, w⟩ := c
    intro lo hlo hm
    have hm' := hm
    simp only [storeFrom, Bool.and_eq_true, decide_eq_true_eq, bne_iff_ne] at hm
    by_cases h1 : a < b
    · by_cases h : v = storeFill
      · simp only [writeCell, h1, h, if_true]; exact hm'
      · simp only [writeCell, h1, h, if_true, if_false, storeFrom, Bool.and_eq_true, decide_eq_true_eq, bne_iff_ne]
        exact ⟨⟨⟨hlo, ha⟩, h⟩, ⟨⟨by omega, hm.1.1.2⟩, hm.1.2⟩, hm.2⟩
    · by_cases h2 : a = b
      · subst h2
        by_cases h : v = storeFill
        · simp only [writeCell, Nat.lt_irrefl, if_false, if_true, h]
          exact storeFrom_le rest (by omega) hm.2
        · simp only [writeCell, Nat.lt_irrefl, if_false, if_true, h, storeFrom, Bool.and_eq_true, decide_eq_true_eq,
            bne_iff_ne]
          exact ⟨⟨⟨hlo, ha⟩, h⟩, hm.2⟩
      · simp only [writeCell, h1, h2, if_false, storeFrom, Bool.and_eq_true, decide_eq_true_eq, bne_iff_ne]
        exact ⟨⟨⟨hm.1.1.1, hm.1.1.2⟩, hm.1.2⟩, ih _ (by omega) hm.2⟩

/-- Writing one byte keeps the memory well formed. -/
theorem wf_writeCell (a : Nat) (v : Byte) (m : List Host.Cell) (ha : a < Config.storeBytes) (hm : Memory.wf m = true) :
    Memory.wf (writeCell a v m) = true := storeFrom_writeCell a v ha m 0 (Nat.zero_le _) hm

/-- Writing bytes within the memory keeps it well formed. -/
theorem wf_writeCells (vs : List Byte) :
    ∀ (a : Nat) (m : List Host.Cell), a + vs.length ≤ Config.storeBytes → Memory.wf m = true →
      Memory.wf (writeCells a vs m) = true := by
  induction vs with
  | nil => intro _ _ _ h; exact h
  | cons v vs ih =>
    intro a m ha hm
    simp only [List.length_cons] at ha
    exact ih (a + 1) _ (by omega) (wf_writeCell a v m (by omega) hm)

/-- As many bytes are read as asked for. -/
@[simp] theorem readCells_length (m : List Host.Cell) (n : Nat) : ∀ a, (readCells m a n).length = n := by
  induction n with
  | zero => intro _; rfl
  | succ n ih => intro a; simp [readCells, ih]

/-- An unfinished write leaves as many bytes as it was to write. -/
theorem mixBytes_length (news : List Byte) :
    ∀ n olds, olds.length = news.length → (mixBytes n olds news).length = news.length := by
  induction news with
  | nil => intro n olds h; cases olds with
    | nil => rfl
    | cons _ _ => simp at h
  | cons v vs ih => intro n olds h; cases olds with
    | nil => simp at h
    | cons o os => simp only [mixBytes, List.length_cons]; rw [ih _ _ (by simpa using h)]

/-- What an unfinished write leaves is well formed. -/
theorem wf_leaveUnfinished (a : Nat) (data : List Byte) (s : State) (ha : a + data.length ≤ Config.storeBytes)
    (hm : Memory.wf s.store = true) : Memory.wf (leaveUnfinished a data s).store = true := by
  refine wf_writeCells _ _ _ ?_ hm
  rw [mixBytes_length _ _ _ (by simp)]
  exact ha

/-- The memory of the reset state is well formed. -/
theorem wf_reset : Memory.wf State.reset.store = true := rfl

end Sys2Proof.Machine
end

