-- ==== Sys2Proof/Tests/Slice0.lean ====
section
/-! SUPPORT. Tests. First the words of the manual's own worked cases and the operand checks; then one small test or two for
each family of commands; then, for every statement with hypotheses, a state and operands that meet them. Every expected
value is from the manual (the comment names the case or the rule). -/

namespace Sys2Proof.Tests
open Sys2Proof.Machine

/-! ## Small states -/

/-- The state a command answers. -/
def after : Result → State
  | .next s => s
  | .fault _ => State.reset
  | .refused _ => State.reset

/-- The sequencer after a start-up without presets and probes. -/
def ready : State := { State.reset with loader := { Loader.reset with phase := .ready, status := some .loaded } }

/-- Slot 0 open and STOPPED, without boards. -/
def opened : State := ready.setPart 0 (Partition.opened Settings.builtIn)

/-- A request handed over by port 0, with sequence tag 17h. -/
def asked (r : Request) (s : State) : State :=
  s.setPort 0 { Port.reset with state := .processing, request := requestFrame 0x17#8 r, work := some .handed }

/-- Slot 0 changed. -/
def part0 (f : Partition → Partition) (s : State) : State := s.updPart 0 f

/-- Slot 0 put in a state. -/
def inState (st : PartState) (s : State) : State := part0 (fun p => { p with state := st }) s

/-- A request that waits at port 0 with slot 0 in a state. -/
def asks (st : PartState) (r : Request) : State := asked r (inState st opened)

/-- Board `b` in a link state with an owner and depth 4. -/
def withBoard (b : Board) (st : LinkState) (owner : Option Slot) (s : State) : State :=
  s.setBoard b { BoardRecord.reset with link := st, owner := owner, depth := 4 }

/-- The link of board 0 changed. -/
def link0 (f : Link → Link) (s : State) : State := s.updLink 0 f

/-- Slot 0 STOPPED with board 0 BOUND, its next acknowledgement and completion those of step 1. -/
def claimed : State :=
  link0 (fun _ => { Link.reset with nextAck := some 1, nextDone := some 1 }) (withBoard 0 .bound (some 0) opened)

/-- The response waiting in port 0. -/
def answer (o : Result) : List Byte := ((after o).port 0).response

/-- Clock 0 of the worked cases: P = 10, H = 5, O = 0. -/
def wave0 : PeriodicWave := ⟨10, 5, 0, 10, .rising, none⟩

/-- The fired state of the worked cases, three clocks ACTIVE at v = 0 (manual, chapter 1, Worked cases). -/
def threeClocks : Snapshot :=
  [⟨0, .active, false, .periodic wave0⟩, ⟨1, .active, false, .periodic ⟨4, 1, 3, 3, .rising, none⟩⟩,
   ⟨2, .active, false, .divided ⟨3, 1, 2, none⟩⟩]

/-- Slot 0 of `claimed` with those clocks in its fired state and in the pool. -/
def clocked : State :=
  (((part0 (fun p => { p with fired := threeClocks }) claimed).setRecord 0 (some ⟨0, 0, .periodic⟩)).setRecord 1
    (some ⟨0, 1, .periodic⟩)).setRecord 2 (some ⟨0, 2, .divided 0⟩)

/-- An entry of a pipe at step 1, time 3, as the engine computes it first for the worked cases. -/
def entry1 : PipeEntry := ⟨1, 3, 0x0002#16, 0x0002#16, [], .arming, 0, 0⟩

/-- Slot 0 RUNNING with step 1 armed on board 0 and its ARM sent. -/
def armed : State :=
  link0 (fun l => { l with armsOut := 1, sentThrough := 1, timer := .running 256000 })
    (part0 (fun p => { p with state := .running, pipe := [entry1] }) claimed)

/-- Slot 0 RUNNING with step 1 fired and its DONE awaited. -/
def fired1 : State :=
  link0 (fun l => { l with nextAck := some 2, donesOut := 1, sentThrough := 1, timer := .running 256000 })
    (part0 (fun p => { p with state := .running, firedFrontier := 1, vt := 3,
                              pipe := [{ entry1 with stage := .fired, acked := 1 }] }) claimed)

/-- Slot 0 with board 0 in a link state and a request being worked. -/
def working (st : LinkState) (w : Work) : State :=
  (withBoard 0 st (some 0) opened).setPort 0
    { Port.reset with state := .processing, request := requestFrame 0 .recover, work := some w }

/-! ## Operands (WellFormed) -/

theorem test_load_read_sizes : (Instr.loadReadComplete 0).wellFormed = false ∧
    (Instr.loadReadComplete 1).wellFormed = true ∧ (Instr.loadReadComplete 16).wellFormed = true ∧
    (Instr.loadReadComplete 17).wellFormed = false := by decide
theorem test_unknown_transaction_bytes : (Instr.unknownTransaction 0 0x5A#8 []).wellFormed = false ∧
    (Instr.unknownTransaction 0 0xA5#8 []).wellFormed = false ∧ (Instr.unknownTransaction 0 0x3C#8 []).wellFormed = false ∧
    (Instr.unknownTransaction 0 0x00#8 []).wellFormed = true := by decide
theorem test_unknown_kinds : (Instr.defineClock 0 0 (.unknownKind 0)).wellFormed = false ∧
    (Instr.defineClock 0 0 (.unknownKind 1)).wellFormed = false ∧
    (Instr.defineClock 0 0 (.unknownKind 2)).wellFormed = true := by decide
theorem test_id_counts : (Instr.setHashAddIds 0 1 2 [5]).wellFormed = false ∧
    (Instr.setHashAddIds 0 1 2 [5, 6]).wellFormed = true ∧ (Instr.setHashAddIds 0 1 9 []).wellFormed = true := by decide
theorem test_data_lengths : (Instr.storeWrite 0 0 2 [1]).wellFormed = false ∧
    (Instr.storeWrite 0 0 1 [1]).wellFormed = true ∧ (Instr.storeWrite 0 0 17 []).wellFormed = true := by decide
theorem test_ill_formed_has_no_effect : (exec (.loadReadComplete 17) State.reset) = .next State.reset := rfl

/-! ## Frames written out (R129, R130, R212, R213) -/

/-- ARM of step 261 with changed mask 0003h and level mask 0006h (manual, "A link frame worked through"). -/
theorem test_arm_frame : (TxItem.frame none (.arm 261 0x0003#16 0x0006#16)).bytes
    = [0x11#8, 0x05#8, 0x01#8, 0x03#8, 0x00#8, 0x06#8, 0x00#8, 0xE0#8] := by decide
/-- Its first character has parity 0. -/
theorem test_arm_parity : (goodChar 0x11#8 true).parity = false := by decide
/-- DONE of step 261 with trigger A5C3h: check byte 61h. -/
theorem test_done_frame : decodeUp [0x31#8, 0x05#8, 0x01#8, 0xC3#8, 0xA5#8, 0x61#8]
      = some (.done 0x0105#16 (some 0xA5C3#16) none)
    ∧ (UpFrame.done 0x0105#16 (some 0xA5C3#16) none).bytes = [0x31#8, 0x05#8, 0x01#8, 0xC3#8, 0xA5#8, 0x61#8] := by
  decide
/-- A line that stays low after a character yields none more (R129). -/
theorem test_low_line_is_quiet :
    (scanLine true none ((goodChar 0x21#8 true).bits.take 11 ++ List.replicate 30 false)).1.length = 1 := by decide
theorem test_set_partition_frame : decodeRequest
    [0x03#8, 0x17#8, 0x07#8, 12#8, 8#8, 24#8, 7#8, 5#8, 15#8, 1#8, 0x97#8]
    = some (.setPartition 12 8 24 7 5 15 1) := by decide
theorem test_run_frame : decodeRequest [0x16#8, 0x01#8, 0x00#8, 0xE9#8] = some .run
    ∧ malformed [0x16#8, 0x01#8, 0x00#8, 0xE9#8] false = false
    ∧ malformed [0x16#8, 0x01#8, 0x00#8, 0xEA#8] false = true := by decide
/-- DEFINE_CLOCK of local 2, divided of 0 by 3, high count 1: the ignored area is sent as 0. -/
theorem test_define_frame : decodeRequest
    [0x0C#8, 0x02#8, 0x0B#8, 2#8, 1#8, 0#8, 3#8, 0#8, 1#8, 0#8, 0#8, 0#8, 0#8, 0#8, 0xE0#8]
    = some (.defineClock 2 (.divided 0 3 1)) := by decide
theorem test_missing_fields : decodeRequest [0x05#8, 0x01#8, 0x02#8, 1#8, 0#8, 0xF7#8] = none := by decide
theorem test_response_echo : responseFrame 0xFF#8 0x17#8 .badFrame false [] = [0#8, 0x17#8, 0x01#8, 0#8, 0#8, 0xE8#8] := by
  decide

/-! ## Design clocks and the engine (manual, chapters 1 and 2, Worked cases) -/

/-- Enabling c1 at v = 0, 2, 3, 11 and 13 gives NE 3, 3, 7, 15 and 15. -/
theorem test_enable_times : [0, 2, 3, 11, 13].map (fun v => (⟨4, 1, 3, 0, .rising, none⟩ : PeriodicWave).firstRise v)
    = [3, 3, 7, 15, 15] := by decide

/-- The first `n` steps computed one from another: time, changed mask and level mask of each. -/
def steps : Nat → Snapshot → List (Nat × ClockMask × ClockMask)
  | 0, _ => []
  | n + 1, snap =>
    match computeFrom [(2, 0)] none 10 snap with
    | .step t changed level post => (t, changed, level) :: steps n post
    | .noEdges | .time | .limit => []

/-- The eleven steps of "Step sequence from enable". -/
theorem test_eleven_steps : steps 11 threeClocks =
    [(3, 2, 2), (4, 2, 0), (7, 2, 2), (8, 2, 0), (10, 5, 5), (11, 2, 7), (12, 2, 5), (15, 3, 6), (16, 2, 4),
     (19, 2, 6), (20, 7, 1)] := by decide
/-- A target time below the next edge is a TIME finding (R43). -/
theorem test_target_time : computeFrom [(2, 0)] (some 2) 10 threeClocks = .time ∧
    (computeFrom [(2, 0)] (some 3) 10 threeClocks) ≠ .time := by decide
/-- No periodic clock that can issue an edge: NO_EDGES (R44). -/
theorem test_no_edges : computeFrom [(2, 0)] none 10
    [⟨0, .gated, false, .periodic wave0⟩, ⟨2, .active, false, .divided ⟨3, 1, 2, none⟩⟩] = .noEdges := by decide
/-- A pending retime is applied at the rise (R11): P′ = 6 and H′ = 2 after a rise at 20. -/
theorem test_retime_applied : (PeriodicWave.afterRise 20 ⟨10, 5, 0, 20, .rising, some (6, 2)⟩)
    = ⟨6, 2, 2, 22, .falling, none⟩ := by decide
/-- Order 2, 3, 0, 1 after position 1 (manual, "Round-robin service"). -/
theorem test_round_robin : roundRobin 1 = [2, 3, 0, 1] := by decide

/-! ## Settings, filter and store values from the worked cases -/

/-- Window 0, horizon 20, retry limit 0, backoff limit 9 and timeout code 70 are brought into range (manual, chapter 3). -/
theorem test_settings_clamped : (((after (exec (.setPartition 0 0 20 24 0 9 70 1)
      (asks .stopped (.setPartition 0 20 24 0 9 70 1)))).part 0).settings = ⟨1, 15, 24, 1, 7, 63, true⟩)
    ∧ (answer (exec (.setPartition 0 0 20 24 0 9 70 1) (asks .stopped (.setPartition 0 20 24 0 9 70 1)))).take 14
      = [0x03#8, 0x17#8, 0#8, 1#8, 9#8, 1#8, 15#8, 24#8, 1#8, 7#8, 63#8, 1#8, 1#8, 15#8] := by decide
/-- Gap code 24 is 1 µs, backoff limit 7 ends at 81.92 µs, timeout code 63 is 1.024 ms (manual, chapter 3). -/
theorem test_durations : gapNs 24 = 1000 ∧ backoffNs 9 7 = 81920 ∧ timeoutNs 63 = 1024000 := by decide
/-- Hash indices worked by the rule R158. -/
theorem test_hash_index : hashIndex 0xA5C3#16 = (0x03 ^^^ 0x17 ^^^ 0x0A) ∧ hashIndex 0x0043#16 = 2 := by decide
/-- Header of the load with skipped entries: window 12 becomes 8 and retry limit 0 becomes 1 (manual, chapter 10). -/
theorem test_header : headerValid [0x46#8, 0x54#8, 0x47#8, 0x43#8, 1#8, 0xFF#8, 0x0F#8, 0#8, 12#8, 6#8, 24#8, 0#8, 5#8,
      15#8, 1#8] = true
    ∧ headerSettings [0x46#8, 0x54#8, 0x47#8, 0x43#8, 1#8, 0xFF#8, 0x0F#8, 0#8, 12#8, 6#8, 24#8, 0#8, 5#8, 15#8, 1#8]
      = ⟨8, 6, 24, 1, 5, 15, true⟩
    ∧ headerMask [0x46#8, 0x54#8, 0x47#8, 0x43#8, 1#8, 0xFF#8, 0x0F#8, 0#8, 12#8, 6#8, 24#8, 0#8, 5#8, 15#8, 1#8]
      = 0x000FFF#24 := by decide

/-- The table of the load with skipped entries: entries 1 and 4 are kept, 2 and 3 skipped (manual, chapter 10). -/
theorem test_preset_table : readTable 60 ⟨[], 0, 0x32,
      [0x05#8, 0#8, 0#8, 10#8, 0#8, 0#8,
       0x31#8, 5#8, 1#8, 8#8, 0#8, 0#8, 3#8, 0#8, 0#8, 0#8, 0#8, 0#8,
       0x06#8, 0#8, 2#8, 0#8, 0x2C#8, 0x01#8,
       0x12#8, 1#8, 0#8, 4#8, 4#8, 0#8, 9#8, 0#8, 0x00#8], false⟩
    = ⟨[⟨0, 0, .periodic 10 5 0, true⟩, ⟨1, 0, .divided 4 4 9, false⟩], 2, 0x52, [0x00#8], true⟩ := by decide

/-! ## Commands: one event each on a small state -/

/-- A preset of a parent that does not exist is skipped; entry a of "Opening with presets" starts at NE 100. -/
theorem test_presets : (applyPreset 0 ⟨0, 3, .divided 5 2 1, false⟩ opened).2.1 = .skipped ∧
    findClock ((applyPreset 0 ⟨0, 0, .periodic 100 50 0, true⟩ opened).1.part 0).fired 0
      = some ⟨0, .active, false, .periodic ⟨100, 50, 0, 100, .rising, none⟩⟩ := by decide
/-- With one entry free a LINK record is dropped and a STOP record stored (R175, R176). -/
theorem test_space_rule :
    let full : Partition := { Partition.reset with queue := ⟨List.replicate 31 (.link 0 0 .pollRecovered), 0, false⟩ }
    ((full.offer (.link 0 0 .pollRecovered)).queue.records.length,
      (full.offer (.link 0 0 .pollRecovered)).queue.drops) = (31, 1)
    ∧ (full.offer (.stop 5 50 .count {})).queue.records.length = 32 := by decide
/-- A claim of an IDLE board: owned, SYNCING, a SYNC with next tag 1 queued (R66, R127). -/
theorem test_claim :
    let t := after (exec (.claimBoards 0 1#24) (asked (.claimBoards 1#24) (withBoard 0 .idle none opened)))
    ((t.board 0).owner, (t.board 0).link, (t.link 0).order) = (some 0, .syncing, [.sync 1 0]) := by decide
/-- The SYNC_ACK binds the board and answers the claim (R66, R127). -/
theorem test_sync_ack :
    let t := after (exec (.claimBoards 0 1#24) (asked (.claimBoards 1#24) (withBoard 0 .idle none opened)))
    let u := after (exec (.syncAck 0 1) t)
    ((u.board 0).link, (u.port 0).state, (u.part 0).syncPending) = (.bound, .responseReady, false) := by decide
/-- The last acknowledgement of step 1 arms it and it fires at once, the first of the run (R109, R113, R114). -/
theorem test_arm_ack_fires :
    let t := after (exec (.armAck 0 1) armed)
    ((t.part 0).firedFrontier, (t.part 0).vt, (t.link 0).strobe, (t.link 0).donesOut) = (1, 3, true, 1) := by decide
/-- Refusal n waits 2^n × 640 ns (R142). -/
theorem test_arm_nak_backoff : ((after (exec (.armNak 0 1 0) armed)).link 0).backoff = .running 1280 := by decide
/-- A DONE retires the entry (R119); with a trigger in mode ANY it sets a stop point at 1 + Heff (R162, R163). -/
theorem test_done :
    ((after (exec (.boardDone 0 1 none none) fired1)).part 0).pipe = []
    ∧ ((after (exec (.boardDone 0 1 (some 0x0C21#16) none)
        (part0 (fun p => { p with filter := { p.filter with mode := .any } }) fired1))).part 0).stop
      = some ⟨9, .trigger 0 0x0C21#16⟩ := by decide
/-- A claim SYNC that a fault's muting ends: the board is dropped with cause TIMEOUT, LINK_FAULT is set beside the SEQUENCE of
the first fault, and the record of the dropped board follows (R67, R100, R149). -/
theorem test_muting_drops_claimed :
    let t := boardFault 0 .sequence (withBoard 1 .syncing (some 0) (working .bound (.claiming 3#24 0 0)))
    ((t.board 1).owner, (t.board 1).cause, (t.part 0).queue.records)
      = (none, some .timeout, [.link 0 0 (.fault .sequence), .link 1 0 (.fault .timeout)])
    ∧ (t.part 0).sticky = { linkFault := true, sequence := true } := by decide +kernel
/-- The attention line follows the queue and the enable (R181, R196). -/
theorem test_attention :
    let s := part0 (fun p => { p with queue := ⟨[.link 0 0 .pollRecovered], 0, false⟩ }) opened
    s.attention 0 = true ∧ opened.attention 0 = false
    ∧ (part0 (fun p => { p with settings := { p.settings with attention := false } }) s).attention 0 = false
    ∧ (inState .closed s).attention 0 = false := by decide
/-- A wrong tag is a sequence error: FAULTED with FAULT at the fired frontier (R140, R98). -/
theorem test_sequence_fault :
    let t := after (exec (.armAck 0 7) armed)
    ((t.part 0).state, (t.part 0).stop, (t.board 0).cause)
      = (.faulted, some ⟨0, .fault 0 .sequence⟩, some .sequence) := by decide +kernel
/-- The first expiry queues a POLL; the second is a fault (R144). -/
theorem test_response_timeout :
    let t := after (exec (.responseTimeout 0) armed)
    (t.link 0).order = [.poll]
    ∧ ((after (exec (.responseTimeout 0) (link0 (fun l => { l with timer := .running 256000 }) t))).board 0).cause
      = some .timeout := by decide +kernel
/-- A STOP below the frontier rewinds and flushes (R87, R120, R121). -/
theorem test_stop_rewinds :
    let t := after (exec (.stop 0) (asked .stop armed))
    ((t.part 0).state, (t.part 0).pipe, (t.link 0).order, (t.link 0).discarded)
      = (.stopping, [], [.flush 0], some (1, 1)) := by decide
/-- The FLUSH_ACK completes the stop: STOPPED, with its STOP record (R90, R91, R122). -/
theorem test_flush_ack_completes :
    let t := after (exec (.flushAck 0 0) (after (exec (.stop 0) (asked .stop armed))))
    ((t.part 0).state, (t.part 0).queue.records) = (.stopped, [.stop 0 0 .controller {}]) := by decide
/-- A group stop makes the other member STOPPING at its own fired frontier (R94). -/
theorem test_group_stop :
    let t := after (exec (.groupStopTaken 0) (part0 (fun p => { p with groupStops := [1] }) fired1))
    ((t.part 0).state, (t.part 0).stop) = (.stopping, some ⟨1, .group⟩) := by decide
/-- A partition that leaves its group is reached no more by a group stop that waited (R73, R93). -/
theorem test_leave_group_drops_offers :
    let t := after (exec (.leaveGroup 0) (part0 (fun p => { p with group := some 1, groupStops := [3] })
      (asks .stopped .leaveGroup)))
    ((t.part 0).group, (t.part 0).groupStops) = (none, []) := by decide
/-- The downstream line through a PROBE, 15h and EBh (R129, R213): start bit, data bits least significant first, marker,
parity and stop bit of each; then it rests high. -/
theorem test_probe_levels :
    let s := link0 (fun l => { l with sending := some .probe }) ready
    (List.range 26).map (s.downstreamLevel 0)
      = [false, true, false, true, false, true, false, false, false, true, true, true,
         false, true, true, false, true, false, true, true, true, false, true, true, true, true] := by decide
/-- A byte is sent most significant bit first, and a byte left incomplete is not counted (R183): data in of a frame's first
byte 16h and five bits more. -/
theorem test_bits_of_a_byte :
    receivedBytes [false, false, false, true, false, true, true, false, true, true, true, true, true] = [0x16#8]
    ∧ bitsOfByte 0x16#8 = [false, false, false, true, false, true, true, false]
    ∧ transactionOf 0x5A#8 = some .writeRequest ∧ transactionOf 0xA5#8 = some .readResponse
    ∧ transactionOf 0x3C#8 = some .readPortStatus := by decide
/-- A response of 6 bytes read whole, in 48 clock periods, is released; one read in part, in 47, stays (R183, R192). -/
theorem test_read_response :
    let s := after (exec (.selectFall 0) (after (exec (.pause 0) (asks .running .pause))))
    let whole := after (exec (.readResponse 0 (List.replicate 48 false)) s)
    let part := after (exec (.readResponse 0 (List.replicate 47 false)) s)
    ((after (exec (.selectRise 0) whole)).port 0).state = .idle
    ∧ ((after (exec (.selectRise 0) part)).port 0).state = .responseReady := by decide
/-- A break is always followed by its PROBE, of a board that has replied already too (R136). -/
theorem test_break_ends_with_probe :
    ((after (exec (.breakRecoveryEnd 0) (link0 (fun l => { l with breakPhase := .recovery }) claimed))).link 0).sending
      = some .probe := by decide
/-- A board BOUND already that faults while a TIME_RESET waits is listed in its response (R29, R99): body 00h, one byte. -/
theorem test_time_reset_lists_fault :
    let s := (link0 (fun l => { l with timer := .running 256000, expiry := true }) (asked .timeReset claimed)).updPort 0
      fun p => { p with work := some (.timeReset 0) }
    let t := after (exec (.responseTimeout 0) s)
    ((t.part 0).state, ((t.port 0).response.drop 4).take 2) = (.faulted, [1, 0]) := by decide +kernel
/-- A STATUS settles a FLUSH that still waits; when it is sent after that the response timer stays stopped (R122, R143). -/
theorem test_settled_flush_starts_no_timer :
    ((after (exec (.frameSend 0) (link0 (fun l => { l with order := [.flush 0] }) claimed))).link 0).timer = .stopped := by
  decide
/-- A SYNC whose SYNC_ACK was taken while it waited starts no response timer in BOUND (R143); one sent in SYNCING does. -/
theorem test_acknowledged_sync_starts_no_timer :
    let s := fun st => link0 (fun l => { l with order := [.sync 1 0] }) (withBoard 0 st (some 0) opened)
    ((after (exec (.frameSend 0) (s .bound))).link 0).timer = .stopped
    ∧ ((after (exec (.frameSend 0) (s .syncing))).link 0).timer = .running 256000 := by decide
/-- The end of a backoff places no ARM that stands in the transmit order already (R142). -/
theorem test_backoff_places_no_arm_twice :
    ((after (exec (.backoffEnd 0) (link0 (fun l => { l with
      backoff := .running 1280, timer := .suspended, order := [.flush 0, .arm 1 2 2] }) armed))).link 0).order
      = [.flush 0, .arm 1 2 2] := by decide
/-- The values a clamp keeps are in the response (R16, R199): H = 0 kept as 1 beside P = 4 and O = 3, by DEFINE_CLOCK with
pool index 3, and by a RETIME_CLOCK of clock 0, whose phase stays 0. -/
theorem test_kept_values_answered :
    ((answer (exec (.defineClock 0 5 (.periodic 4 0 3)) (asked (.defineClock 5 (.periodic 4 0 3)) clocked))).drop 2).take 13
      = [0#8, 1#8, 10#8, 3#8, 4#8, 0#8, 0#8, 1#8, 0#8, 0#8, 3#8, 0#8, 0#8]
    ∧ ((answer (exec (.retimeClock 0 0 4 0) (asked (.retimeClock 0 4 0) clocked))).drop 2).take 12
      = [0#8, 1#8, 9#8, 4#8, 0#8, 0#8, 1#8, 0#8, 0#8, 0#8, 0#8, 0#8] := by decide
/-- A run at the largest step number ends at its start with LIMIT, and no step is fired (R78). -/
theorem test_run_ends_at_start :
    let t := after (exec (.run 0) (part0 (fun p => { p with firedFrontier := 4294967295 }) (asked .run clocked)))
    ((t.part 0).state, (t.part 0).queue.records) = (.stopped, [.stop 4294967295 0 .limit {}]) := by decide +kernel
/-- Reset keeps a select line found low ignored until it rises (R184). -/
theorem test_reset_ports :
    ((after (exec .deviceReset (after (exec (.selectFall 0) ready)))).port 0).transaction = .ignored := by decide

/-! ## States and operands that meet the hypotheses of the statements -/

/-- A queue of 31 records under a run that is about to take a STOP. -/
def busy : State :=
  { part0 (fun p => { p with queue := ⟨List.replicate 31 (.link 0 0 .pollRecovered), 0, false⟩ })
      (asked .stop armed) with pending := [.stop 0] }

/-- A store write in progress for port 0, of two bytes at the end of the memory. -/
def writing : State :=
  { asked (.storeWrite 2046 2 [1, 2]) opened with
    loader := { ready.loader with op := some (.write 0 2046 [1, 2]) }, pending := [.storeWriteComplete] }

theorem witness_StepRunsFrontCommand : State.reset.pending = [] := rfl

theorem witness_EveryCommandAnswersNextState :
    let s := after (exec .resetAsserted ready)
    let c := Instr.run 0
    s.resetHeld = true ∧ c ≠ .deviceReset ∧ c ≠ .resetAsserted ∧ (∀ k, c ≠ .selectFall k) ∧ (∀ k, c ≠ .selectRise k) := by
  decide

theorem witness_StepKeepsEventQueues : QueueInv busy ∧ ∃ s', step busy = .next s' := ⟨by decide, _, rfl⟩

theorem witness_StepKeepsConfigurationMemory : StoreInv writing ∧ ∃ s', step writing = .next s' := ⟨by decide, _, rfl⟩

theorem witness_StepKeepsPorts : PortInv busy ∧ ∃ s', step busy = .next s' := ⟨by decide, _, rfl⟩

theorem witness_StepKeepsStepPipes : PipeInv busy ∧ ∃ s', step busy = .next s' := ⟨by decide, _, rfl⟩

/-- Slot 0 of `clocked` in a run, with three sound clocks, an ARMED entry whose snapshot is the second one of the worked
cases, and the entry about to fire. -/
def clockedRun : State :=
  let post : Snapshot := [⟨0, .active, false, .periodic wave0⟩, ⟨1, .active, true, .periodic ⟨4, 1, 3, 4, .falling, none⟩⟩,
    ⟨2, .active, false, .divided ⟨3, 1, 2, none⟩⟩]
  { part0 (fun p => { p with state := .running, gap := .running 40, pipe := [{ entry1 with stage := .armed, post := post }] })
      clocked with pending := [.settleGapExpiry 0] }

theorem witness_StepKeepsStepPipes_clocks :
    ClockInv clockedRun ∧ (clockedRun.part 0).pipe.any (fun e => e.post.any fun c => c.level) = true
    ∧ ∃ s', step clockedRun = .next s' := ⟨by decide +kernel, by decide, _, rfl⟩

theorem witness_StepKeepsStepPipes_groups :
    let offered := { part0 (fun p => { p with group := some 1, groupStops := [3] }) armed with pending := [.groupStopTaken 0] }
    GroupInv offered ∧ (offered.part 0).groupStops ≠ [] ∧ ∃ s', step offered = .next s' := ⟨by decide, by decide, _, rfl⟩

theorem witness_SlotCommandsKeepOtherSlots :
    ownSlot (.stop 0) = some 0 ∧ (1 : Slot) ≠ 0 ∧ ∃ t, exec (.stop 0) busy = .next t := ⟨rfl, by decide, _, rfl⟩

theorem witness_RequestsRefusedByState :
    requestOf (.run 0) = some (0, .run) ∧ Waits (asks .closed .run) 0 .run ∧ Request.run.anySlot = false
    ∧ ((asks .closed .run).part 0).state = .closed ∧ Waits (asks .faulted .run) 0 .run
    ∧ Request.run.stoppedOnly = true ∧ ((asks .faulted .run).part 0).state ≠ .closed
    ∧ ((asks .faulted .run).part 0).state ≠ .stopped := by decide

theorem witness_ResponseFrameBuilt : (1 : Slot) ≠ 0 := by decide

theorem witness_RequestFrameRoundTrip : (Request.setHashAddIds 1 8 [1, 2, 3, 4, 5, 6, 7, 8]).wellFormed = true
    ∧ (Request.storeWrite 2032 16 (List.replicate 16 7)).wellFormed = true
    ∧ (Request.defineClock 0 (.unknownKind 2)).wellFormed = true := by decide

theorem witness_SampledFrameReceived : (State.reset.link 23).upHigh = true := by decide

/-- A work item of slot 0 of `clocked` in a run. -/
def item : WorkItem := ⟨0, threeClocks, [(2, 0)], 0, none, false⟩

theorem witness_ComputedStepAdvancesTime : (∀ e ∈ threeClocks, e.sound 0 = true)
    ∧ ∃ post, computeFrom [(2, 0)] (some 3) 10 threeClocks = .step 3 2 2 post :=
  ⟨by decide, _, rfl⟩

/-- Instants judged: no clock bound to an edge; t = 3 against targets 2 and 3; t at the end of virtual time and beyond it; an
instant at which the one edge is suppressed. -/
theorem witness_ComputedStepAdvancesTime_instants :
    let gated : ClockEntry := ⟨0, .gated, false, .periodic wave0⟩
    let late := fun next => (⟨1, .active, false, .periodic ⟨4, 1, 3, next, .rising, none⟩⟩ : ClockEntry)
    (¬ ∃ e ∈ [gated], e.state = .active ∨ e.state = .gatePending ∨ e.state = .ungatePending ∨ e.state = .offPending)
    ∧ (∃ e ∈ threeClocks, (e.wave = .periodic wave0) ∧ e.state = .active)
    ∧ (∃ e ∈ threeClocks, e.state ≠ .off ∧ e.wave = .periodic ⟨4, 1, 3, 3, .rising, none⟩)
    ∧ (threeClocks.all fun e => match e.wave with
      | .periodic w => decide (3 ≤ w.next)
      | .divided _ => true) = true
    ∧ (2 : Nat) < 3 ∧ (late 281474976710655).sound 0 = true ∧ 281474976710655 < 281474976710656
    ∧ (∃ c ∈ handleInstant [(2, 0)] 3 threeClocks, c.2 ≠ .none)
    ∧ (∀ c ∈ handleInstant [] 10 [gated, late 15], c.2 = .none) ∧ (∀ e ∈ item.copy, e.sound 0 = true) := by decide

theorem witness_FirstEdgeIsNextOnGrid : 0 < wave0.period ∧ 9 < wave0.phase + 1 * wave0.period := by decide

/-- A periodic clock in every state with its edge due, and not due; a rise with and without a retime, and a fall. -/
theorem witness_FirstEdgeIsNextOnGrid_periodic :
    let e := fun (st : ClockState) (w : PeriodicWave) => (⟨0, st, false, .periodic w⟩ : ClockEntry)
    let falling : PeriodicWave := { wave0 with next := 15, polarity := .falling, retime := some (6, 2) }
    (∀ st w, (e st w).wave = .periodic w) ∧ (e .off wave0).state = .off ∧ wave0.next ≠ 11 ∧ wave0.next = 10
    ∧ wave0.polarity = .rising ∧ (e .active wave0).state = .active ∧ (e .ungatePending wave0).state ≠ .off
    ∧ (e .gated wave0).state = .gated ∧ falling.next = 15 ∧ falling.polarity = .falling
    ∧ (e .gatePending falling).state = .gatePending ∧ (e .offPending falling).state = .offPending :=
  ⟨fun _ _ => rfl, by decide⟩

/-- A divided clock with C at its three kinds of place: the count comes to 0, to K, and between. -/
theorem witness_FirstEdgeIsNextOnGrid_divided :
    let w := fun c => (⟨4, 2, c, some (6, 1)⟩ : DividedWave)
    (∀ st c, (⟨2, st, false, .divided (w c)⟩ : ClockEntry).wave = .divided (w c))
    ∧ ((w 3).count + 1) % (w 3).divisor = 0 ∧ ((w 1).count + 1) % (w 1).divisor = (w 1).high
    ∧ ((w 1).count + 1) % (w 1).divisor ≠ 0 ∧ ((w 0).count + 1) % (w 0).divisor ≠ (w 0).high
    ∧ ((w 0).count + 1) % (w 0).divisor ≠ 0 := ⟨fun _ _ => rfl, by decide⟩

theorem witness_RoundRobinServesRequesters :
    let s := inState .running claimed
    s.engine.item = none ∧ (s.part 0).requests = true ∧ (s.part 0).pipe = []
    ∧ (armed.part 0).pipe = [] ++ [entry1] ∧ (∀ k, (claimed.part k).requests = false) := by decide

/-- Slot 0 of `clocked` in a state with a stop point, and a work item in progress. -/
def computing (st : PartState) (stop : Option StopPoint) (w : WorkItem) : State :=
  { part0 (fun p => { p with state := st, stop := stop }) clocked with engine := ⟨some w, 0⟩ }

/-- A run whose frontier has reached its limit, one whose frontier is one below it, and one whose limit has been found. -/
theorem witness_ComputationEndJudged_limit :
    let s := fun limit found => part0 (fun p => { p with runMode := .count, runLimit := limit, limitFound := found }) fired1
    ((s 1 false).part 0).state = .running ∧ ((s 1 false).part 0).limitFound = false
    ∧ ((s 1 false).part 0).frontier = ((s 1 false).part 0).runLimit
    ∧ ((s 2 false).part 0).frontier ≠ ((s 2 false).part 0).runLimit ∧ ((s 1 true).part 0).limitFound ≠ false := by decide

theorem witness_ComputationEndJudged_discarded :
    (computing .running none { item with void := true }).resetHeld = false
    ∧ (computing .running none { item with void := true }).engine.item = some { item with void := true }
    ∧ ¬ ({ item with void := true }.void = false ∧ PartState.isRun .running = true)
    ∧ ¬ (item.void = false ∧ ((computing .stopped none item).part 0).state.isRun = true) := by decide

/-- A step with no stop point, one at the stop point, and one just above it. -/
theorem witness_ComputationEndJudged_step :
    (∃ post, item.compute = .step 3 2 2 post) ∧ item.void = false
    ∧ ((computing .running none item).part 0).state.isRun = true
    ∧ ((computing .running none item).part 0).stop = none
    ∧ ((computing .stopping (some ⟨1, .count⟩) item).part 0).stop = some ⟨1, .count⟩ ∧ item.frontier + 1 ≤ 1
    ∧ ((computing .stopping (some ⟨0, .count⟩) item).part 0).stop = some ⟨0, .count⟩ ∧ 0 < item.frontier + 1 :=
  ⟨⟨_, rfl⟩, by decide⟩

theorem witness_ComputationEndJudged_finding :
    ({ item with target := some 2 } : WorkItem).compute = .time
    ∧ ({ item with copy := [⟨0, .gated, false, .periodic wave0⟩] } : WorkItem).compute = .noEdges
    ∧ ({ item with copy := [⟨0, .active, false, .periodic { wave0 with next := 281474976710656 }⟩] } : WorkItem).compute
      = .limit := ⟨rfl, rfl, rfl⟩

theorem witness_DeviceResetLeavesResetValues : ∀ k base data, writing.loader.op = some (.write k base data) →
    2045 < base ∨ base + data.length ≤ 2045 := by
  intro k base data h
  simp only [writing] at h
  injection h with h
  injection h with _ h1 _
  exact .inl (by omega)

/-- The header read whole in one operation of 16 bytes, and the table's end read by one of 1 byte. -/
theorem witness_StartUpReadJudged :
    State.reset.resetHeld = false ∧ State.reset.loader.phase = .loading ∧ 1 ≤ 16 ∧ 16 ≤ 16
    ∧ State.reset.loader.load = .header []
    ∧ (let s : State := { State.reset with
          store := [(2047, 0)], loader := { Loader.reset with load := .table Settings.builtIn 0 [] 0 2047 [] } }
       s.loader.phase = .loading ∧ s.loader.load = .table Settings.builtIn 0 [] 0 2047 [] ∧ 2047 < 2048
       ∧ readCell s.store 2047 = 0) := by decide

/-- The end of memory inside the table, an entry that is not a preset's, one that runs past the end, one read in part, and
one whole, kept and skipped; presets with and without their optional fields. -/
theorem witness_StartUpReadJudged_table :
    2048 ≤ 2048 ∧ 0x32 < 2048 ∧ entrySize 0x03#8 = none ∧ (0x03#8 : Byte) ≠ 0
    ∧ entrySize 0x05#8 = some 6 ∧ 2048 < 2043 + 6 ∧ 2042 + 6 ≤ 2048 ∧ [0x05#8].length < 6
    ∧ entryPreset ([0x05#8, 0#8, 0#8, 1#8, 0#8, 0#8].take 6) = none
    ∧ entryPreset ([0x05#8, 0#8, 0#8, 2#8, 0#8, 0#8].take 6) = some ⟨0, 0, .periodic 2 1 0, true⟩
    ∧ 3 < ([0x05#8, 4#8].getD 1 0).toNat ∧ 15 < ([0x05#8, 0#8, 16#8].getD 2 0).toNat
    ∧ ([0x05#8, 3#8].getD 1 0).toNat = (3 : Slot).val ∧ ([0x05#8, 0#8, 15#8].getD 2 0).toNat = (15 : LocalNo).val
    ∧ (0x35#8).toNat % 4 = 1 ∧ (0x16#8).toNat % 4 = 2 ∧ fieldAt [0x05#8, 0#8, 0#8, 2#8, 0#8, 0#8] 3 3 = 2
    ∧ fieldAt [0x06#8, 0#8, 0#8, 15#8, 0#8, 1#8] 4 2 = 256 ∧ fieldAt [0x06#8, 0#8, 0#8, 15#8, 1#8, 1#8] 4 2 = 257 := by
  decide

theorem witness_StartUpReadJudged_end :
    let probing := { (withBoard 0 .probing none ready) with
      loader := { Loader.reset with phase := .probing, probeMask := 1#24 } }
    maskHas 1#24 (0 : Board) = true ∧ maskHas 1#24 (1 : Board) = false ∧ probing.loader.phase = .probing
    ∧ (∃ b, maskHas probing.loader.probeMask b = true ∧ (probing.board b).link = .probing)
    ∧ (∀ b, maskHas probing.loader.probeMask b = true →
      ((withBoard 0 .idle none probing).board b).link ≠ .probing) := by decide +kernel

theorem witness_FailedMemoryOperation :
    State.reset.resetHeld = false ∧ State.reset.loader.phase = .loading
    ∧ (Instr.storeAddressNak = .storeAddressNak) ∧ writing.resetHeld = false ∧ writing.loader.phase ≠ .loading
    ∧ writing.loader.op = some (.write 0 2046 [1, 2])
    ∧ ({ ready with loader := { ready.loader with op := some (.read 3 2047 1) } } : State).loader.op
      = some (.read 3 2047 1) := by decide

theorem witness_StoreRequestsWorked :
    Waits (asked (.storeRead 2047 1) ready) 0 (.storeRead 2047 1)
    ∧ Waits (asked (.storeRead 2047 2) ready) 0 (.storeRead 2047 2)
    ∧ Waits (asked (.storeWrite 15 1 [9]) ready) 0 (.storeWrite 15 1 [9])
    ∧ Waits (asked (.storeWrite 15 2 [9, 9]) ready) 0 (.storeWrite 15 2 [9, 9])
    ∧ StoreInv writing ∧ writing.resetHeld = false ∧ writing.loader.op = some (.write 0 2046 [1, 2]) := by decide

/-- Port 0 in a port state with a transaction. -/
def portIn (st : PortState) (t : Transaction) : State :=
  ready.setPort 0 { Port.reset with state := st, transaction := t, inactivity := true, response := [1, 2] }

theorem witness_TransactionsBegin :
    (ready.port 0).transaction = .none ∧ ready.resetHeld = false
    ∧ ((portIn .idle .begun).port 0).transaction = .begun ∧ ((portIn .idle .begun).port 0).state = .idle
    ∧ ((portIn .processing .begun).port 0).state = .processing
    ∧ ((portIn .responseReady .begun).port 0).state = .responseReady
    ∧ transactionOf 0#8 = none ∧ [true, false, true].length < 8 := by decide

theorem witness_TransactionsEnd :
    ((portIn .responseReady .reading).port 0).transaction = .reading
    ∧ ((portIn .receiving .writing).port 0).transaction = .writing
    ∧ ((portIn .receiving .writing).port 0).inactivity = true
    ∧ ((portIn .idle .status).port 0).transaction ≠ .none ∧ ((portIn .idle .status).port 0).transaction ≠ .writing
    ∧ ((portIn .idle .status).port 0).transaction ≠ .reading ∧ (portIn .idle .status).resetHeld = false := by decide

/-- Port 0 with a frame written. -/
def wrote (frame : List Byte) (s : State) : State :=
  s.setPort 0 { Port.reset with state := .receiving, transaction := .writing, request := frame }

theorem witness_RequestFrameJudged :
    ((wrote [1, 2, 3] ready).port 0).transaction = .writing ∧ [1#8, 2#8, 3#8].length < 4
    ∧ (State.reset.loader.phase ≠ .ready) ∧ sumBytes (requestFrame 0 .run) = 0
    ∧ decodeRequest (requestFrame 0 .run) = some .run
    ∧ sumBytes [0x23#8, 0#8, 0#8, 0xDD#8] = 0 ∧ 0x22 < (0x23#8).toNat
    ∧ decodeRequest [0x05#8, 0#8, 0#8, 0xFB#8] = none
    ∧ decodeRequest (requestFrame 0 (.setHashOther 1 4)) = some (.setHashOther 1 4) := by decide

/-- Slot 0 opening, with a preset to come. -/
def openingWith (p : Preset) : State :=
  opened.setPort 0 { Port.reset with state := .processing, request := requestFrame 0 .openSlot,
                                     work := some (.opening [p] 0 0 0 []) }

theorem witness_OpenAppliesPresets :
    Waits (asks .stopped .openSlot) 0 .openSlot ∧ ((asks .stopped .openSlot).part 0).state ≠ .closed
    ∧ WaitsIn (asks .closed .openSlot) 0 .closed .openSlot
    ∧ (openingWith ⟨0, 3, .divided 5 2 1, false⟩).resetHeld = false
    ∧ ((openingWith ⟨0, 3, .divided 5 2 1, false⟩).port 0).work
      = some (.opening [⟨0, 3, .divided 5 2 1, false⟩] 0 0 0 []) := by decide

theorem witness_OpenAppliesPresets_outcomes :
    definitionRecord 0 3 (PresetBody.divided 5 2 1).definition.kind (openingWith ⟨0, 3, .divided 5 2 1, false⟩)
      = .error .parentInvalid
    ∧ definitionRecord 0 0 (PresetBody.periodic 100 50 0).definition.kind
        (openingWith ⟨0, 0, .periodic 100 50 0, true⟩) = .ok 0
    ∧ (PresetBody.periodic 2 0 1).definition.clamped = true ∧ 2 ≤ 2 ∧ 255 ≤ 255 := ⟨rfl, rfl, rfl, by decide⟩

/-- A local number in use, a parent that is divided, and the lowest FREE record. -/
theorem witness_OpenAppliesPresets_checks :
    findClock (clocked.part 0).fired 0 ≠ none ∧ findClock (clocked.part 0).fired 5 = none
    ∧ clocked.periodicClock 0 2 = false ∧ clocked.periodicClock 0 1 = true ∧ clocked.record 3 = none
    ∧ (∀ j, j < 3 → clocked.record j ≠ none) := by decide

theorem witness_CloseGivesEverythingBack :
    Waits (asks .running .closeSlot) 0 .closeSlot ∧ ((asks .running .closeSlot).part 0).state.isRun = true
    ∧ Waits (asked .closeSlot claimed) 0 .closeSlot ∧ ((asked .closeSlot claimed).part 0).state = .stopped
    ∧ ((asked .closeSlot claimed).board 0).owner = some 0
    ∧ { asked .closeSlot clocked with engine := ⟨some item, 0⟩ }.engine.item = some item := by decide

theorem witness_SettingsReplacedWithClamps :
    Waits (asks .stopped (.setPartition 0 16 255 15 8 64 2)) 0 (.setPartition 0 16 255 15 8 64 2)
    ∧ ((asks .stopped (.setPartition 0 16 255 15 8 64 2)).part 0).state = .stopped
    ∧ Waits (asks .paused (.setPartition 1 1 0 1 0 0 0)) 0 (.setPartition 1 1 0 1 0 0 0)
    ∧ Waits (asks .closed (.setPartition 8 15 0 1 7 63 0)) 0 (.setPartition 8 15 0 1 7 63 0) := by decide

theorem witness_EffectiveWindowIsLeast : (claimed.board 0).owner = some 0 := by decide

theorem witness_ReadRequestsOnlyAnswer :
    Waits (asks .faulted .readPartition) 0 .readPartition ∧ ((asks .faulted .readPartition).part 0).state ≠ .closed
    ∧ Waits (asks .closed .readCabinet) 0 .readCabinet
    ∧ Waits (asks .stopped (.readBoard 23)) 0 (.readBoard 23) ∧ (23#8).toNat = (23 : Board).val
    ∧ Waits (asks .stopped (.readBoard 24)) 0 (.readBoard 24) ∧ 23 < (24#8).toNat
    ∧ Waits (asks .stopped (.readClock 15)) 0 (.readClock 15)
    ∧ findClock ((asks .stopped (.readClock 15)).part 0).fired 15 = none
    ∧ Waits (asks .stopped (.readClock 16)) 0 (.readClock 16) ∧ 15 < (16#8).toNat
    ∧ Waits (asked (.readClock 2) clocked) 0 (.readClock 2) ∧ (asked (.readClock 2) clocked).clockIndex 0 2 = some 2
    ∧ (asked (.readClock 2) clocked).clockKind 0 2 = some (.divided 0) := by decide

/-- A claim that waits, of board 0 in a link state with an owner. -/
def claims (st : LinkState) (owner : Option Slot) : State :=
  asked (.claimBoards 1#24) (withBoard 0 st owner opened)

theorem witness_ClaimTakesBoardsOver :
    WaitsIn (asks .stopped (.claimBoards 0)) 0 .stopped (.claimBoards 0)
    ∧ WaitsIn (claims .bound (some 1)) 0 .stopped (.claimBoards 1#24)
    ∧ takenBoards 0 1#24 (claims .bound (some 1)) ≠ 0
    ∧ takenBoards 0 1#24 (claims .failed none) = 0 ∧ absentBoards 1#24 (claims .failed none) ≠ 0
    ∧ absentBoards 1#24 (claims .probing none) = 0 ∧ busyBoards 1#24 (claims .probing none) ≠ 0
    ∧ busyBoards 1#24 (claims .idle none) = 0 ∧ 1#24 &&& ~~~((claims .idle none).ownedMask 0) ≠ 0
    ∧ WaitsIn (claims .bound (some 0)) 0 .stopped (.claimBoards 1#24)
    ∧ 1#24 &&& ~~~((claims .bound (some 0)).ownedMask 0) = 0 := by decide

/-- A claim of board 0 that waits, and one that ends: BOUND, and dropped. -/
theorem witness_ClaimTakesBoardsOver_end :
    let s := fun st failed => working st (.claiming 1#24 0 failed)
    (∀ st failed, ((s st failed).port 0).work = some (.claiming 1#24 0 failed)) ∧ maskHas 1#24 (0 : Board) = true
    ∧ ((s .syncing 0).board 0).link ≠ .bound ∧ ((s .syncing 0).board 0).link ≠ .failed
    ∧ maskHas 0#24 (0 : Board) = false ∧ ((s .bound 0).board 0).link = .bound
    ∧ (∀ b : Board, maskHas 1#24 b = true → maskHas 1#24 b = true ∨ ((s .syncing 1#24).board b).link = .bound) :=
  ⟨fun _ _ => rfl, by decide⟩

theorem witness_ReleaseMakesBoardsUnowned :
    Waits (asked (.releaseBoards 1#24) armed) 0 (.releaseBoards 1#24)
    ∧ ((asked (.releaseBoards 1#24) armed).part 0).state.isRun = true
    ∧ Waits (asked (.releaseBoards 1#24) claimed) 0 (.releaseBoards 1#24)
    ∧ 1#24 &&& ~~~((asked (.releaseBoards 1#24) claimed).ownedMask 0) = 0
    ∧ Waits (asked (.releaseBoards 3#24) claimed) 0 (.releaseBoards 3#24)
    ∧ 3#24 &&& ~~~((asked (.releaseBoards 3#24) claimed).ownedMask 0) ≠ 0 := by decide

theorem witness_ReprobeBreaksUnownedBoards :
    Waits (asks .closed (.reprobe 0)) 0 (.reprobe 0)
    ∧ Waits (asked (.reprobe 1#24) claimed) 0 (.reprobe 1#24) ∧ ownedOf 1#24 (asked (.reprobe 1#24) claimed) ≠ 0
    ∧ busyBoards 1#24 (asked (.reprobe 1#24) (withBoard 0 .probing none ready)) ≠ 0
    ∧ Waits (asked (.reprobe 1#24) (withBoard 0 .failed none ready)) 0 (.reprobe 1#24)
    ∧ ownedOf 1#24 (asked (.reprobe 1#24) (withBoard 0 .failed none ready)) = 0
    ∧ busyBoards 1#24 (asked (.reprobe 1#24) (withBoard 0 .failed none ready)) = 0 := by decide

/-- A REPROBE of two boards, of which one has been found: a board that waits, one that does not, and the end. -/
theorem witness_ReprobeBreaksUnownedBoards_end :
    let s := fun absent => working .idle (.reprobing 3#24 1#24 absent)
    (∀ absent, ((s absent).port 0).work = some (.reprobing 3#24 1#24 absent))
    ∧ (maskHas 3#24 (1 : Board) && !maskHas 1#24 (1 : Board) && !maskHas 0#24 (1 : Board)) = true
    ∧ (maskHas 3#24 (0 : Board) && !maskHas 1#24 (0 : Board)) = false ∧ 3#24 ≠ 1#24 ||| 0#24 ∧ 3#24 = 1#24 ||| 2#24 :=
  ⟨fun _ => rfl, by decide⟩

theorem witness_GroupMembershipChanges :
    WaitsIn (asks .stopped (.joinGroup 2)) 0 .stopped (.joinGroup 2) ∧ 1 < (2#8).toNat
    ∧ WaitsIn (asks .stopped (.joinGroup 1)) 0 .stopped (.joinGroup 1) ∧ (1#8).toNat = (1 : Group).val
    ∧ ((asks .stopped (.joinGroup 1)).part 0).group = none
    ∧ ((part0 (fun p => { p with group := some 0 }) (asks .stopped (.joinGroup 1))).part 0).group = some 0
    ∧ WaitsIn (asks .stopped .leaveGroup) 0 .stopped .leaveGroup ∧ ((asks .stopped .leaveGroup).part 0).group = none
    ∧ ((part0 (fun p => { p with group := some 0 }) (asks .stopped .leaveGroup)).part 0).group ≠ none := by decide

theorem witness_ClocksDefinedAndDeleted_define :
    WaitsIn (asks .stopped (.defineClock 15 (.periodic 2 0 1))) 0 .stopped (.defineClock 15 (.periodic 2 0 1))
    ∧ definitionOf (.periodic 1 1 1) = none ∧ definitionOf (.divided 0 257 1) = none
    ∧ (definitionOf (.divided 15 256 1)).isSome = true
    ∧ (findClock (clocked.part 0).fired 0).isSome = true ∧ clocked.periodicClock 0 2 = false
    ∧ clocked.periodicClock 0 0 = true ∧ clocked.record 3 = none ∧ (∀ j : Fin 48, j < 3 → clocked.record j ≠ none) := by
  decide

theorem witness_ClocksDefinedAndDeleted_full :
    let s : State := { opened with pool := Vector.replicate 48 (some ⟨1, 0, .periodic⟩) }
    ∀ i, s.record i ≠ none := by decide

theorem witness_ClocksDefinedAndDeleted_delete :
    let off := part0 (fun p => { p with fired := [⟨0, .off, false, .periodic wave0⟩] }) clocked
    WaitsIn (asked (.deleteClock 0) clocked) 0 .stopped (.deleteClock 0)
    ∧ (findClock (clocked.part 0).fired 0).any (fun e => e.state ≠ .off) = true
    ∧ (findClock (off.part 0).fired 0).any (fun e => e.state = .off) = true ∧ off.hasChild 0 0 = true
    ∧ (off.setRecord 2 none).hasChild 0 0 = false ∧ (off.setRecord 2 none).clockIndex 0 0 = some 0
    ∧ WaitsIn (asked (.deleteClock 15) clocked) 0 .stopped (.deleteClock 15) ∧ findClock (clocked.part 0).fired 15 = none
    ∧ (15#8).toNat = (15 : LocalNo).val ∧ WaitsIn (asked (.deleteClock 16) clocked) 0 .stopped (.deleteClock 16)
    ∧ 15 < (16#8).toNat := by decide

/-- Definitions at both ends of their ranges, and just beyond. -/
theorem witness_ClocksDefinedAndDeleted_definitions :
    2 ≤ (2#24).toNat ∧ (1#24).toNat < 2 ∧ (15#8).toNat = (15 : LocalNo).val ∧ 15 < (16#8).toNat ∧ 2 ≤ (2#16).toNat
    ∧ (256#16).toNat ≤ 256 ∧ (1#16).toNat < 2 ∧ 256 < (257#16).toNat := by decide

theorem witness_ClockRequestTable :
    Waits (asked (.enableClock 0) clocked) 0 (.enableClock 0) ∧ (clocked.part 0).state = .stopped
    ∧ (findClock (clocked.part 0).fired 0).isSome = true
    ∧ Waits (asked (.disableClock 0) clocked) 0 (.disableClock 0)
    ∧ Waits (asked (.gateClock 2) clocked) 0 (.gateClock 2)
    ∧ Waits (asked (.ungateClock 2) clocked) 0 (.ungateClock 2)
    ∧ Waits (asked (.enableClock 16) clocked) 0 (.enableClock 16) ∧ 15 < (16#8).toNat
    ∧ Waits (asked (.gateClock 15) clocked) 0 (.gateClock 15) ∧ (15#8).toNat = (15 : LocalNo).val
    ∧ findClock (clocked.part 0).fired 15 = none := by decide

theorem witness_ClockRetimed :
    WaitsIn (asked (.retimeClock 0 2 1) clocked) 0 .stopped (.retimeClock 0 2 1)
    ∧ (findClock (clocked.part 0).fired 0) = some ⟨0, .active, false, .periodic wave0⟩
    ∧ (clocked.part 0).fired.filter (fun c => c.localNo = 0) = [⟨0, .active, false, .periodic wave0⟩]
    ∧ WaitsIn (asked (.retimeClock 2 256 1) clocked) 0 .stopped (.retimeClock 2 256 1)
    ∧ (clocked.part 0).fired.filter (fun c => c.localNo = 2) = [⟨2, .active, false, .divided ⟨3, 1, 2, none⟩⟩]
    ∧ WaitsIn (asked (.retimeClock 16 2 1) clocked) 0 .stopped (.retimeClock 16 2 1) ∧ 15 < (16#8).toNat
    ∧ WaitsIn (asked (.retimeClock 15 2 1) clocked) 0 .stopped (.retimeClock 15 2 1)
    ∧ findClock (clocked.part 0).fired 15 = none := by
  decide

theorem witness_TimeResetSyncsBoards :
    WaitsIn (asks .stopped .timeReset) 0 .stopped .timeReset
    ∧ (∀ b, ((asks .stopped .timeReset).board b).owner ≠ some 0)
    ∧ WaitsIn (asked .timeReset clocked) 0 .stopped .timeReset
    ∧ (∃ b, ((asked .timeReset clocked).board b).owner = some 0) := by decide

/-- The clock states and kinds that R28 takes in turn, and a TIME_RESET that waits and one that ends. -/
theorem witness_TimeResetSyncsBoards_clocks :
    let e := fun st w => (⟨0, st, false, w⟩ : ClockEntry)
    let w := Wave.divided ⟨3, 1, 2, some (5, 2)⟩
    (e .off w).state = .off ∧ (e .offPending w).state = .offPending ∧ (e .gatePending w).state ≠ .off
    ∧ (e .gatePending w).state ≠ .offPending ∧ (e .gated (.periodic wave0)).wave = .periodic wave0
    ∧ ((working .syncing (.timeReset 0)).port 0).work = some (.timeReset 0)
    ∧ (∃ b, ((working .syncing (.timeReset 0)).board b).owner = some 0
      ∧ ((working .syncing (.timeReset 0)).board b).link = .syncing)
    ∧ (∀ b, ((working .bound (.timeReset 0)).board b).owner = some 0 →
      ((working .bound (.timeReset 0)).board b).link ≠ .syncing) := by decide

theorem witness_RunSetUpAndStarted :
    WaitsIn (asks .stopped (.setupRun 2 17)) 0 .stopped (.setupRun 2 17)
    ∧ WaitsIn (asks .stopped (.setupRun 3 0)) 0 .stopped (.setupRun 3 0) ∧ 2 < (3#8).toNat
    ∧ WaitsIn (asks .stopped .run) 0 .stopped .run ∧ (∀ b, ((asks .stopped .run).board b).owner ≠ some 0)
    ∧ WaitsIn (asked .run clocked) 0 .stopped .run ∧ (∃ b, ((asked .run clocked).board b).owner = some 0)
    ∧ ((asked .run clocked).part 0).queue.records.length < 32 ∧ ((asked .run clocked).part 0).pipe = []
    ∧ ((asked .run clocked).part 0).sticky.linkFault = false
    ∧ ((asked .run clocked).part 0).firedFrontier < 4294967295 := by decide

/-- Runs that end at their start: a target time at VT, with the fired frontier below the largest step and at it, and a FREE
run at it. -/
theorem witness_RunSetUpAndStarted_ended :
    let s := fun mode fired => part0 (fun p => { p with runMode := mode, firedFrontier := fired }) (asked .run clocked)
    WaitsIn (s .until 4294967294) 0 .stopped .run ∧ ((s .until 4294967294).part 0).runArgument ≤ ((s .until 0).part 0).vt
    ∧ ((s .until 4294967295).part 0).firedFrontier = 4294967295 ∧ WaitsIn (s .free 4294967295) 0 .stopped .run
    ∧ ((s .free 4294967295).part 0).pipe = [] ∧ (∃ b, ((s .free 4294967295).board b).owner = some 0)
    ∧ (∀ b, ((s .until 4294967295).board b).owner = some 0 → ((s .until 4294967295).link b).flushPending = false)
    ∧ ((s .free 4294967295).part 0).queue.records.length < 32 := by decide

/-- A queue of 32 records under a RUN, and one sticky error. -/
theorem witness_RunSetUpAndStarted_refused :
    let full := part0 (fun p => { p with queue := ⟨List.replicate 32 (.link 0 0 .pollRecovered), 0, false⟩ })
      (asked .run clocked)
    let sick := part0 (fun p => { p with sticky := { p.sticky with sequence := true } }) (asked .run clocked)
    WaitsIn full 0 .stopped .run ∧ 32 ≤ (full.part 0).queue.records.length
    ∧ WaitsIn sick 0 .stopped .run ∧ (sick.part 0).sticky.sequence = true := by decide

theorem witness_GroupRunStartsEveryMember :
    let grouped := part0 (fun p => { p with group := some 1 }) (asked .groupRun clocked)
    Waits grouped 0 .groupRun ∧ (grouped.part 0).state ≠ .closed ∧ (grouped.part 0).group = some 1
    ∧ memberReady 0 grouped = true ∧ memberReady 0 (part0 (fun p => { p with group := some 1 }) opened) = false
    ∧ Waits (asked .groupRun clocked) 0 .groupRun ∧ ((asked .groupRun clocked).part 0).group = none := by decide

/-- One partition, and two of them, that request service of an idle engine; and none. -/
theorem witness_GroupRunStartsEveryMember_selects :
    let one := inState .running claimed
    let two := one.setPart 3 (one.part 0)
    one.engine.item = none ∧ (∀ k, (one.part k).requests = true ↔ k = 0) ∧ two.engine.item = none
    ∧ (two.part 0).requests = true ∧ (two.part 3).requests = true ∧ (∀ k, (claimed.part k).requests = false) := by decide

theorem witness_PauseAndResume :
    WaitsIn (asks .running .pause) 0 .running .pause ∧ WaitsIn (asks .paused .pause) 0 .paused .pause
    ∧ Waits (asks .faulted .pause) 0 .pause ∧ Waits (asks .stopping .resume) 0 .resume
    ∧ WaitsIn (asks .paused .resume) 0 .paused .resume ∧ ((asks .paused .resume).part 0).stop = none
    ∧ ((part0 (fun p => { p with stop := some ⟨4, .group⟩ }) (asks .paused .resume)).part 0).stop
      = some ⟨4, .group⟩ := by decide

theorem witness_StopOffersFiredFrontier :
    Waits (asks .stopped .stop) 0 .stop ∧ Waits (asks .faulted .stop) 0 .stop ∧ Waits (asked .stop armed) 0 .stop
    ∧ ((asked .stop armed).part 0).state.isRun = true ∧ ((asked .stop armed).part 0).stop = none
    ∧ ((asked .stop armed).part 0).state = .running := by decide

theorem witness_RecoverAndClearErrors :
    Waits (asks .running .recover) 0 .recover ∧ WaitsIn (asks .faulted .recover) 0 .faulted .recover
    ∧ (∀ b, ((asks .faulted .recover).board b).owner ≠ some 0)
    ∧ WaitsIn (asked .recover (inState .faulted claimed)) 0 .faulted .recover
    ∧ (∃ b, ((asked .recover (inState .faulted claimed)).board b).owner = some 0)
    ∧ WaitsIn (asks .stopped .clearErrors) 0 .stopped .clearErrors := by decide

/-- A RECOVER that waits for a board, and one that ends with the board BOUND, and FAILED. -/
theorem witness_RecoverAndClearErrors_end :
    let s := fun st => inState .faulted (working st (.recovering 1#24))
    ((s .probing).port 0).work = some (.recovering 1#24)
    ∧ (∃ b, ((s .probing).board b).owner = some 0 ∧ ((s .probing).board b).link ≠ .bound
      ∧ ((s .probing).board b).link ≠ .failed)
    ∧ (∀ b, ((s .bound).board b).owner = some 0 → ((s .bound).board b).link = .bound)
    ∧ (maskWhere fun b => ((s .bound).board b).owner == some 0 && ((s .bound).board b).link == .failed) = 0
    ∧ (∀ b, ((s .failed).board b).owner = some 0 → ((s .failed).board b).link = .failed)
    ∧ (maskWhere fun b => ((s .failed).board b).owner == some 0 && ((s .failed).board b).link == .failed) ≠ 0 := by
  decide

/-- No stop point, a candidate below the stop point and one equal to it, and a rewind of a link with an ARM sent above the
stop point and of one with none. -/
theorem witness_StopCandidateCombined :
    let low := part0 (fun p => { p with state := .stopping, stop := some ⟨5, .count⟩ }) armed
    (opened.part 0).state.isRun = false ∧ (armed.part 0).state.isRun = true ∧ (armed.part 0).stop = none
    ∧ (low.part 0).state.isRun = true ∧ (low.part 0).stop = some ⟨5, .count⟩ ∧ 4 < 5 ∧ 5 ≤ 5 ∧ 0 < (low.part 0).frontier
    ∧ (armed.board 0).owner = some 0 ∧ 0 < (armed.link 0).sentThrough ∧ 0 < (armed.part 0).frontier
    ∧ ((link0 (fun l => { l with sentThrough := 0 }) armed).link 0).sentThrough ≤ 0
    ∧ (armed.part 0).frontier ≤ 1 ∧ (armed.board 1).owner ≠ some 0 ∧ (1 : Slot) ≠ 0 := by decide

/-- The unowned board, the owner FAULTED with and without a RECOVER of its own, and the newly claimed board. -/
theorem witness_BoardFaultTakenByOwner :
    let recovering := inState .faulted (working .syncing (.recovering 0))
    let claiming := working .syncing (.claiming 1#24 0 0)
    (ready.board 0).owner = none
    ∧ (recovering.board 0).owner = some 0 ∧ (recovering.part 0).state = .faulted ∧ isRecovering 0 recovering = true
    ∧ (recovering.board 0).link = .syncing ∧ ((inState .faulted claimed).part 0).state = .faulted
    ∧ isRecovering 0 (inState .faulted claimed) = false
    ∧ (claiming.board 0).owner = some 0 ∧ (claiming.part 0).state = .stopped ∧ (claiming.board 0).link = .syncing
    ∧ (claiming.port 0).work = some (.claiming 1#24 0 0) ∧ maskHas 1#24 (0 : Board) = true := by decide

/-- A fault in a run and in STOPPED, with no other board SYNCING, and in a TIME_RESET with another board SYNCING. -/
theorem witness_BoardFaultTakenByOwner_entry :
    let resetting := withBoard 1 .syncing (some 0) (working .bound (.timeReset 0))
    (armed.board 0).owner = some 0 ∧ (armed.part 0).state.isRun = true
    ∧ (∀ b', b' ≠ 0 → (armed.board b').owner = some 0 → (armed.board b').link ≠ .syncing)
    ∧ (claimed.board 0).owner = some 0 ∧ (claimed.part 0).state = .stopped
    ∧ ¬ ((claimed.board 0).link = .syncing ∧ freshClaim 0 0 claimed = true)
    ∧ (∀ b', b' ≠ 0 → (claimed.board b').owner = some 0 → (claimed.board b').link ≠ .syncing)
    ∧ (resetting.board 0).owner = some 0 ∧ (resetting.part 0).state = .stopped ∧ (resetting.board 0).link = .bound
    ∧ (resetting.port 0).work = some (.timeReset 0) ∧ (resetting.board 1).owner = some 0
    ∧ (resetting.board 1).link = .syncing ∧ (armed.board 1).owner ≠ some 0 ∧ (1 : Slot) ≠ 0
    ∧ ({ armed with engine := ⟨some item, 0⟩ } : State).engine.item = some item := by decide

/-- A claim in which board 0 is BOUND already and faults while board 1 is SYNCING still. -/
def claimingTwo : State :=
  withBoard 1 .syncing (some 0) (link0 (fun _ => { Link.reset with nextAck := some 1 })
    (working .bound (.claiming 3#24 0 0)))

theorem witness_BoardFaultTakenByOwner_claim :
    (claimingTwo.board 0).owner = some 0 ∧ (claimingTwo.part 0).state = .stopped
    ∧ ¬ ((claimingTwo.board 0).link = .syncing ∧ freshClaim 0 0 claimingTwo = true)
    ∧ (claimingTwo.port 0).work = some (.claiming 3#24 0 0)
    ∧ ((1 : Board) ≠ 0 ∧ (claimingTwo.board 1).owner = some 0 ∧ (claimingTwo.board 1).link = .syncing)
    ∧ maskHas 3#24 (1 : Board) = true := by decide

theorem witness_GroupStopTakenByState :
    let offered := fun st => part0 (fun p => { p with groupStops := [3, 1] }) (inState st armed)
    (offered .paused).resetHeld = false ∧ ((offered .paused).part 0).groupStops = [3, 1]
    ∧ ((offered .paused).part 0).state = .paused ∧ ((offered .stopping).part 0).state = .stopping
    ∧ ((offered .faulted).part 0).state.isRun = false := by decide

/-- An entry that fires at the stop point with the gap elapsed and with no last fire; one above the stop point, one not
ARMED, one in PAUSED, one in the gap; and a pipe of FIRED entries alone. -/
theorem witness_SettleGapFiresAndStrobesFall :
    let e : PipeEntry := { entry1 with stage := .armed, acked := 1 }
    let s := fun st gap last stop => part0 (fun p => { p with
      gap := gap, lastFire := last, stop := some ⟨stop, .count⟩, state := st, pipe := [e] }) armed
    (s .stopping (.running 40) true 1).resetHeld = false ∧ ((s .stopping (.running 40) true 1).part 0).gap = .running 40
    ∧ ((s .stopping .elapsed true 1).part 0).pipe = [] ++ e :: [] ∧ e.stage = .armed ∧ e.stage ≠ .fired
    ∧ ((s .stopping .elapsed true 1).part 0).state = .stopping ∧ ((s .stopping .elapsed true 1).part 0).gap = .elapsed
    ∧ e.number ≤ 1 ∧ ((s .running (.running 40) false 1).part 0).lastFire = false
    ∧ ((s .stopping .elapsed true 0).part 0).stop = some ⟨0, .count⟩ ∧ ¬ e.number ≤ 0
    ∧ ((s .paused .elapsed true 1).part 0).state = .paused ∧ entry1.stage ≠ .armed ∧ entry1.stage ≠ .fired
    ∧ ¬ (((s .running (.running 40) true 1).part 0).lastFire = false
      ∨ ((s .running (.running 40) true 1).part 0).gap = .elapsed)
    ∧ (∀ x ∈ (fired1.part 0).pipe, x.stage = .fired) ∧ (armed.board 0).owner = some 0 := by decide

/-- A stop that is complete, and one that is not yet. -/
theorem witness_SettleGapFiresAndStrobesFall_stop :
    let s := part0 (fun p => { p with state := .stopping, stop := some ⟨0, .controller⟩ }) claimed
    (s.part 0).state = .stopping ∧ (s.part 0).stop = some ⟨0, .controller⟩ ∧ 0 = (s.part 0).firedFrontier
    ∧ (∀ e ∈ (s.part 0).pipe, e.stage ≠ .fired) ∧ (∀ b, (s.board b).owner = some 0 → (s.link b).flushPending = false)
    ∧ (∀ point, (armed.part 0).stop ≠ some point) :=
  ⟨rfl, rfl, rfl, by decide, by decide, fun _ h => nomatch h⟩

theorem witness_MatchEntryComparesCaredBits : Filter.reset.hashEnabled = false
    ∧ (⟨0x0C00#16, 0xFF00#16, true⟩ : MatchEntry).recognises 0x0C21#16 = true
    ∧ (⟨0x0C00#16, 0xFF00#16, true⟩ : MatchEntry).recognises 0x8C21#16 = false := by decide

theorem witness_FilterModeQualifies :
    let s := fun m => part0 (fun p => { p with filter := { p.filter with
      mode := m, entries := p.filter.entries.set 0 ⟨0, 0, true⟩ } }) opened
    (opened.part 0).filter.mode = .off ∧ ((s .normal).part 0).filter.mode = .normal
    ∧ ((part0 (fun p => { p with filter := { p.filter with mode := .normal } }) opened).part 0).filter.recognises 5 = false
    ∧ ((s .inverse).part 0).filter.mode = .inverse ∧ ((s .inverse).part 0).filter.recognises 5 = true := by decide

theorem witness_QualifyingReportCountsAndStops :
    ((part0 (fun p => { p with filter := { p.filter with mode := .any } }) fired1).part 0).filter.qualifies 0x0C21#16
      = true := by decide

theorem witness_FilterSettingsReplaced :
    Waits (asks .running (.setFilter 3 0 1)) 0 (.setFilter 3 0 1) ∧ FilterMode.code .any = 3
    ∧ ((asks .running (.setFilter 3 0 1)).part 0).state ≠ .closed
    ∧ Waits (asks .running (.setFilter 4 1 0)) 0 (.setFilter 4 1 0) ∧ 3 < (4#8).toNat
    ∧ Waits (asks .running (.setMatch 7 1 2 1)) 0 (.setMatch 7 1 2 1) ∧ (7#8).toNat = (7 : Fin 8).val
    ∧ Waits (asks .running (.setMatch 8 1 2 1)) 0 (.setMatch 8 1 2 1) ∧ 7 < (8#8).toNat := by decide

theorem witness_HashTableChanged :
    ((asks .paused (.setHashKeep 1)).part 0).state ≠ .closed
    ∧ Waits (asks .paused (.setHashKeep 1)) 0 (.setHashKeep 1)
    ∧ Waits (asks .paused (.setHashReplace 0 5)) 0 (.setHashReplace 0 5)
    ∧ Waits (asks .paused (.setHashClear 1)) 0 (.setHashClear 1)
    ∧ Waits (asks .paused (.setHashAddIds 1 9 [])) 0 (.setHashAddIds 1 9 []) ∧ 8 < (9#8).toNat
    ∧ Waits (asks .paused (.setHashAddIds 1 1 [0x0043])) 0 (.setHashAddIds 1 1 [0x0043]) ∧ (1#8) ≠ 0
    ∧ (1#8).toNat ≤ 8 := by decide

theorem witness_OldestEventsRead :
    Waits (asks .stopped (.readEvents 0)) 0 (.readEvents 0) ∧ ((asks .stopped (.readEvents 0)).part 0).state ≠ .closed
    ∧ Waits (asks .stopped (.readEvents 5)) 0 (.readEvents 5)
    ∧ Waits (asks .closed (.readEvents 1)) 0 (.readEvents 1) ∧ ((asks .closed (.readEvents 1)).part 0).state = .closed := by
  decide

/-- A link with a frame waiting, one with a frame in transmission, and one in each phase of a break. -/
theorem witness_FramesSentAndBreaksPassed :
    let waiting := link0 (fun l => { l with order := [.arm 1 2 2] }) claimed
    waiting.resetHeld = false ∧ (waiting.link 0).order = [.arm 1 2 2]
    ∧ ((waiting.link 0).sending = none ∧ (waiting.link 0).breakPhase = .none ∧ (waiting.link 0).backoff = .idle
      ∧ (waiting.link 0).muted = false) ∧ (waiting.link 0).timer = .stopped
    ∧ ((link0 (fun l => { l with order := [.poll] }) claimed).link 0).order = [.poll]
    ∧ ((link0 (fun l => { l with sending := some .probe, breakPhase := .waitingForFrame }) claimed).link 0).sending
      = some .probe
    ∧ ((link0 (fun l => { l with breakPhase := .low }) claimed).link 0).breakPhase = .low
    ∧ ((link0 (fun l => { l with breakPhase := .recovery }) (withBoard 0 .probing none ready)).board 0).link = .probing
    ∧ ((link0 (fun l => { l with breakPhase := .recovery }) claimed).board 0).link ≠ .probing
    ∧ ((link0 (fun l => { l with breakPhase := .recovery, muted := true }) claimed).link 0).muted = true
    ∧ ((link0 (fun l => { l with order := [.flush 0] }) claimed).link 0).order = [.flush 0]
    ∧ ((link0 (fun l => { l with order := [.sync 1 0] }) claimed).link 0).order = [.sync 1 0]
    ∧ ((link0 (fun l => { l with breakPhase := .low }) claimed).link 0).sending = none
    ∧ 1 < DownFrame.probe.bytes.length := by decide

/-- The response timer running in each link state concerned. -/
theorem witness_ResponseTimeoutByLinkState :
    let running := fun st owner => link0 (fun l => { l with timer := .running 16000 }) (withBoard 0 st owner opened)
    ((running .probing none).link 0).timer = .running 16000 ∧ ((running .probing none).board 0).link = .probing
    ∧ ((running .probing none).board 0).owner = none ∧ ((running .probing (some 0)).board 0).owner ≠ none
    ∧ ((running .syncing (some 0)).board 0).link = .syncing
    ∧ ((running .bound (some 0)).board 0).link = .bound ∧ ((running .bound (some 0)).link 0).expiry = false
    ∧ ((running .bound (some 0)).link 0).pollOut = false
    ∧ ((link0 (fun l => { l with pollOut := true }) (running .bound (some 0))).link 0).pollOut = true
    ∧ ((link0 (fun l => { l with expiry := true }) (running .bound (some 0))).link 0).expiry = true := by decide

theorem witness_ReceiveErrorCounted :
    claimed.resetHeld = false ∧ (claimed.link 0).upHigh = true ∧ (claimed.link 0).muted = false
    ∧ (claimed.board 0).owner = some 0 ∧ (claimed.board 1).owner = none
    ∧ ((link0 (fun l => { l with muted := true }) claimed).link 0).muted = true := by decide

/-- A character of each kind, an assembly in each state, a queue of 30, 31 and 32 records, and a frame that comes while
another is open. -/
theorem witness_ReceiveErrorCounted_kinds :
    (goodChar 0x31#8 true).stop = true ∧ (goodChar 0x31#8 true).badParity = false ∧ (goodChar 0x31#8 true).marker = true
    ∧ upLength 0x31#8 = some 6 ∧ upLength 0x00#8 = none ∧ (goodChar 0x00#8 false).marker = false
    ∧ ({ goodChar 0x00#8 false with parity := false } : LineChar).badParity = true
    ∧ ({ goodChar 0x00#8 false with stop := false } : LineChar).stop = false
    ∧ ([0x21#8, 1#8] ++ [0#8]).length ≠ 4 ∧ ([0x21#8, 1#8, 0#8] ++ [0xDE#8]).length = 4
    ∧ sumBytes ([0x21#8, 1#8, 0#8] ++ [0xDE#8]) = 0 ∧ sumBytes ([0x21#8, 1#8, 0#8] ++ [0xDF#8]) ≠ 0
    ∧ 30 + 2 ≤ 32 ∧ 32 < 31 + 2 ∧ 31 + 1 ≤ 32 ∧ 32 < 32 + 1
    ∧ ((link0 (fun l => { l with rx := .collecting [0x21#8] 4 }) claimed).link 0).rx = .collecting [0x21#8] 4
    ∧ ((link0 (fun l => { l with rx := .discard }) claimed).link 0).rx = .discard := by decide

/-- The expected tag, a tag of the discarded range, and neither with the loss marker set and clear. -/
theorem witness_ArmAckJudged :
    let flushed := link0 (fun l => { l with discarded := some (2, 3), flushPending := true }) armed
    Linked armed 0 0 ∧ (armed.link 0).nextAck = some 1 ∧ 0 < ((lineAtRest 0 armed).link 0).armsOut
    ∧ (1 : Tag) = BitVec.ofNat 16 1
    ∧ Linked flushed 0 0 ∧ ((lineAtRest 0 flushed).link 0).inDiscarded 3 = true
    ∧ ((lineAtRest 0 flushed).link 0).inDiscarded 4 = false
    ∧ ((lineAtRest 0 armed).link 0).inDiscarded 2 = false ∧ ((lineAtRest 0 armed).link 0).loss = false
    ∧ ((lineAtRest 0 (link0 (fun l => { l with loss := true }) armed)).link 0).loss = true := by decide

theorem witness_ArmNakBacksOffAndResends :
    let worn := link0 (fun l => { l with retries := 7 }) armed
    let backing := link0 (fun l => { l with backoff := .running 1280, armsOut := 0, timer := .suspended }) armed
    Linked armed 0 0 ∧ (armed.link 0).nextAck = some 1 ∧ ((lineAtRest 0 armed).link 0).inDiscarded 1 = false
    ∧ ((lineAtRest 0 armed).link 0).retries + 1 ≤ (armed.part 0).settings.retryLimit
    ∧ Linked worn 0 0 ∧ (worn.part 0).settings.retryLimit < ((lineAtRest 0 worn).link 0).retries + 1
    ∧ backing.resetHeld = false ∧ (backing.link 0).backoff = .running 1280 ∧ (backing.board 0).owner = some 0
    ∧ (backing.link 0).nextAck = some 1 ∧ (backing.link 0).order = [] ∧ PipeInv backing ∧ 1 ≤ 2
    ∧ ((backing.part 0).pipe.filter fun e => e.stage != .fired && decide (2 ≤ e.number)) = [] := by decide

/-- A FLUSH that waits before the ARM of step 1, with m at A; and before none, with m one above the youngest step. -/
theorem witness_ArmNakBacksOffAndResends_flush :
    let backing := fun order => link0 (fun l => { l with
      backoff := .running 1280, armsOut := 0, timer := .suspended, order := order }) armed
    let armsFrom := fun n => ((((backing []).part 0).pipe.filter fun e => e.stage != .fired).filter fun e =>
      n ≤ e.number).map fun e => TxItem.arm e.number e.changed e.level
    ((backing [.flush 0, .arm 1 2 2]).link 0).order = [] ++ .flush 0 :: armsFrom 1
    ∧ ((backing [.flush 0]).link 0).order = [] ++ .flush 0 :: armsFrom 2
    ∧ PipeInv (backing [.flush 0, .arm 1 2 2]) ∧ PipeInv (backing [.flush 0]) := by decide

theorem witness_DoneMarksAndRetires :
    Linked fired1 0 0 ∧ (fired1.link 0).nextDone = some 1 ∧ 0 < ((lineAtRest 0 fired1).link 0).donesOut
    ∧ (fired1.part 0).pipe.find? (fun e => e.number == 1) = some { entry1 with stage := .fired, acked := 1 }
    ∧ ((lineAtRest 0 fired1).link 0).inDiscarded 2 = false ∧ ((lineAtRest 0 fired1).link 0).loss = false := by decide

/-- A FIRED entry reported done by the one board of the set, before one that is not FIRED though its done flag is set. -/
theorem witness_DoneMarksAndRetires_retired :
    let complete : PipeEntry := { entry1 with stage := .fired, doneBy := 1 }
    (∀ e ∈ [complete], e.stage = .fired ∧ ∀ b ∈ [(0 : Board)], maskHas e.doneBy b = true)
    ∧ ¬ (({ entry1 with doneBy := 1 } : PipeEntry).stage = .fired)
    ∧ ¬ (∀ b ∈ [(0 : Board), 1], maskHas complete.doneBy b = true) := by decide

theorem witness_FlushAndSyncAcknowledged :
    let flushed := link0 (fun l => { l with discarded := some (2, 3), flushPending := true }) fired1
    let syncing := link0 (fun _ => { Link.reset with nextAck := some 1 }) (withBoard 0 .syncing (some 0) opened)
    Linked flushed 0 0 ∧ ((lineAtRest 0 flushed).link 0).flushPending = true
    ∧ ((lineAtRest 0 flushed).link 0).discarded = some (2, 3) ∧ (1 : Tag) = BitVec.ofNat 16 (2 - 1)
    ∧ Linked fired1 0 0 ∧ ((lineAtRest 0 fired1).link 0).flushPending = false
    ∧ syncing.resetHeld = false ∧ (syncing.board 0).link = .syncing ∧ (syncing.link 0).muted = false
    ∧ (syncing.link 0).rx = .hunt ∧ (syncing.link 0).nextAck = some 1 ∧ (2 : Tag) ≠ BitVec.ofNat 16 1 := by decide

/-- A POLL outstanding; tags at both ends of their ranges, and one just beyond. -/
theorem witness_StatusReconciled :
    let polled := link0 (fun l => { l with pollOut := true, pollMark := some 1 }) armed
    Linked polled 0 0 ∧ (polled.link 0).nextAck = some 1 ∧ (polled.link 0).nextDone = some 1
    ∧ ((lineAtRest 0 polled).link 0).pollOut = true ∧ ((lineAtRest 0 armed).link 0).pollOut = false
    ∧ expandTag 0 (1 - 1) (1 - 1 + 1) = some 0 ∧ expandTag 1 (1 - 1) (1 - 1 + 1) = some 1
    ∧ expandTag 2 (1 - 1) (1 - 1 + 1) = none ∧ expandTag 0 (1 - 1) (1 - 1 + 0) = some 0 := by decide

/-- An acknowledgement and a completion taken from a STATUS, a FLUSH settled in each way, and steps to send again within
the retry limit and beyond it. -/
theorem witness_StatusReconciled_steps :
    let flushed := { Link.reset with flushPending := true, discarded := some (2, 3) }
    let polled := link0 (fun l => { l with pollMark := some 1 }) armed
    let worn := link0 (fun l => { l with retries := 7 }) polled
    (armed.board 0).owner = some 0 ∧ (armed.link 0).nextAck = some 1 ∧ (fired1.link 0).nextDone = some 1
    ∧ (fired1.part 0).pipe.find? (fun e => e.number == 1) = some { entry1 with stage := .fired, acked := 1 }
    ∧ Link.reset.flushPending = false ∧ flushed.flushPending = true ∧ flushed.discarded = some (2, 3) ∧ 1 < 2 ∧ 2 ≤ 2
    ∧ ({ flushed with pollAfterFlush := true } : Link).pollAfterFlush = true ∧ flushed.pollAfterFlush = false
    ∧ (polled.link 0).pollMark = some 1 ∧ min (polled.link 0).armsOut (1 + 1 - 1) = 1
    ∧ (polled.link 0).retries + 1 ≤ (polled.part 0).settings.retryLimit
    ∧ (worn.part 0).settings.retryLimit < (worn.link 0).retries + 1
    ∧ (fired1.link 0).pollMark = none
    ∧ ((fired1.part 0).pipe.map PipeEntry.number).Pairwise (· < ·) := by decide

theorem witness_ProbeReplyTaken :
    (claimed.link 0).muted = false ∧ (claimed.link 0).rx = .hunt ∧ (claimed.board 0).link ≠ .probing
    ∧ claimed.resetHeld = false ∧ ((withBoard 0 .probing none opened).board 0).owner = none
    ∧ ((withBoard 0 .probing none opened).board 0).link = .probing
    ∧ ((withBoard 0 .probing (some 0) opened).board 0).owner = some 0
    ∧ ((link0 (fun l => { l with rx := .collecting [0x61#8] 5 }) claimed).link 0).rx = .collecting [0x61#8] 5
    ∧ ((link0 (fun l => { l with rx := .discard }) claimed).link 0).rx = .discard
    ∧ ((working .probing (.recovering 0)).port 0).work = some (.recovering 0) := by decide

end Sys2Proof.Tests
end

section
/-! SUPPORT. The clocks of a snapshot at one instant (R7 to R13, R36 to R38): what the parts of a sound clock are, and that
every edge of a sound clock leaves it sound at the instant of the edge. -/

namespace Sys2Proof.Machine

/-! ## Sound waveforms -/

/-- The parameters of a periodic clock, and a retime pending for it, are in the ranges of R4 and R25. -/
def PeriodicWave.inRange (w : PeriodicWave) : Prop :=
  w.period ≤ 16777215 ∧ 0 < w.high ∧ w.high < w.period ∧ w.phase < w.period ∧ retimeSound 16777215 w.retime = true

/-- The parameters of a divided clock, and a retime pending for it, are in the ranges of R5 and R25. -/
def DividedWave.inRange (w : DividedWave) : Prop :=
  w.divisor ≤ 256 ∧ 0 < w.high ∧ w.high < w.divisor ∧ retimeSound 256 w.retime = true

/-- The waveform of a clock that is not OFF is in its ranges, with its next edge after time `v` (R4 to R6, R8). -/
def Wave.soundAfter (v : Nat) : Wave → Prop
  | .periodic w => w.inRange ∧ v < w.next ∧ w.next < 2 ^ 50
  | .divided w => w.inRange ∧ w.count < w.divisor

/-- The placeholders of OFF are those of any clock at rest (R6). -/
@[simp] theorem Wave.atRest_atRest (w : Wave) : w.atRest.atRest = w.atRest := by cases w <;> rfl

theorem retimeSound_some {top first high : Nat} :
    retimeSound top (some (first, high)) = true ↔ first ≤ top ∧ 0 < high ∧ high < first := by
  simp [retimeSound, and_assoc]

/-- A clock that is not OFF is sound when its waveform is, and its level is that of its state (R4 to R8). -/
theorem ClockEntry.sound_iff {e : ClockEntry} (h : e.state ≠ .off) (v : Nat) :
    e.sound v = true ↔ e.wave.soundAfter v ∧ e.levelSound = true := by
  obtain ⟨n, st, level, wave⟩ := e
  have hst : (st == .off) = false := by simpa using h
  cases wave with
  | periodic w =>
    simp only [ClockEntry.sound, ClockEntry.waveSound, ClockEntry.restSound, bne, hst, Wave.soundAfter,
      PeriodicWave.inRange, Bool.and_eq_true, decide_eq_true_eq, Bool.or_eq_true]
    grind
  | divided w =>
    simp only [ClockEntry.sound, ClockEntry.waveSound, ClockEntry.restSound, bne, hst, Wave.soundAfter,
      DividedWave.inRange, Bool.and_eq_true, decide_eq_true_eq, Bool.or_eq_true]
    grind

/-- A clock in OFF has no edge to come, so that it is sound at every time or at none (R6). -/
theorem ClockEntry.sound_off {e : ClockEntry} (h : e.state = .off) (v t : Nat) : e.sound v = e.sound t := by
  obtain ⟨n, st, level, wave⟩ := e
  subst h
  cases wave <;> simp [ClockEntry.sound, ClockEntry.waveSound]

/-- A divided clock has no time of its own. -/
theorem ClockEntry.sound_divided {e : ClockEntry} {w : DividedWave} (h : e.wave = .divided w) (v t : Nat) :
    e.sound v = e.sound t := by
  simp [ClockEntry.sound, ClockEntry.waveSound, h]

/-! ## Retimes -/

/-- A pending retime applied at a phase inside the new period leaves the parameters in their ranges (R11, R13). -/
theorem PeriodicWave.inRange_applyRetime {w : PeriodicWave} {phase : Nat → Nat} (h : w.inRange)
    (hp : ∀ n, 0 < n → phase n < n) : (w.applyRetime phase).inRange := by
  obtain ⟨hper, hlow, hhigh, hphase, hre⟩ := h
  unfold PeriodicWave.applyRetime
  split
  · rename_i period high heq
    rw [heq, retimeSound_some] at hre
    obtain ⟨hle, hpos, hlt⟩ := hre
    exact ⟨hle, hpos, hlt, hp _ (by omega), rfl⟩
  · exact ⟨hper, hlow, hhigh, hphase, hre⟩

/-- A pending retime applied leaves the parameters of a divided clock in their ranges (R12, R13). -/
theorem DividedWave.inRange_applyRetime {w : DividedWave} (h : w.inRange) : w.applyRetime.inRange := by
  obtain ⟨hdiv, hlow, hhigh, hre⟩ := h
  unfold DividedWave.applyRetime
  split
  · rename_i divisor high heq
    rw [heq, retimeSound_some] at hre
    obtain ⟨hle, hpos, hlt⟩ := hre
    exact ⟨hle, hpos, hlt, rfl⟩
  · exact ⟨hdiv, hlow, hhigh, hre⟩

@[simp] theorem DividedWave.applyRetime_count (w : DividedWave) : w.applyRetime.count = w.count := by
  unfold DividedWave.applyRetime
  split <;> rfl

/-- A sound waveform brought to rest, its retime applied, is that of a sound clock in OFF (R6, R13). -/
theorem ClockEntry.enterOff_sound {e : ClockEntry} {v : Nat} (h : e.wave.soundAfter v) (t : Nat) :
    e.enterOff.sound t = true := by
  obtain ⟨n, st, level, wave⟩ := e
  cases wave with
  | periodic w =>
    obtain ⟨hr, _, _⟩ := h
    obtain ⟨hper, hlow, hhigh, hphase, _⟩ :=
      PeriodicWave.inRange_applyRetime hr (fun n hn => Nat.mod_lt w.phase hn)
    simp [ClockEntry.enterOff, ClockEntry.sound, ClockEntry.waveSound, ClockEntry.levelSound, ClockEntry.restSound,
      Wave.settleRetime, Wave.atRest, retimeSound, hper, hlow, hhigh, hphase]
  | divided w =>
    obtain ⟨hdiv, hlow, hhigh, _⟩ := DividedWave.inRange_applyRetime h.1
    simp [ClockEntry.enterOff, ClockEntry.sound, ClockEntry.waveSound, ClockEntry.levelSound, ClockEntry.restSound,
      Wave.settleRetime, Wave.atRest, retimeSound, hdiv, hlow, hhigh, hlow.trans hhigh]

/-! ## Edges -/

@[simp] theorem ClockEntry.enterOff_localNo (e : ClockEntry) : e.enterOff.localNo = e.localNo := rfl

@[simp] theorem ClockEntry.rise_localNo (e : ClockEntry) (wave : Wave) : (e.rise wave).1.localNo = e.localNo := by
  unfold ClockEntry.rise
  split <;> rfl

@[simp] theorem ClockEntry.fall_localNo (e : ClockEntry) (wave : Wave) : (e.fall wave).1.localNo = e.localNo := by
  unfold ClockEntry.fall
  split <;> rfl

@[simp] theorem ClockEntry.atInstant_localNo (t : Nat) (e : ClockEntry) :
    (e.atInstant t).1.localNo = e.localNo := by
  unfold ClockEntry.atInstant
  split
  · split
    · split <;> simp
    · rfl
  · rfl

@[simp] theorem ClockEntry.atParentRise_localNo (e : ClockEntry) : e.atParentRise.1.localNo = e.localNo := by
  unfold ClockEntry.atParentRise
  split
  · rfl
  · dsimp only
    split_ifs <;> simp

/-- A clock whose waveform moves on at the same height stays sound. -/
theorem ClockEntry.sound_withWave {e : ClockEntry} {wave : Wave} {t : Nat} (he : e.state ≠ .off)
    (hl : e.levelSound = true) (hw : wave.soundAfter t) (hh : wave.high = e.wave.high) :
    ({ e with wave := wave } : ClockEntry).sound t = true := by
  refine (ClockEntry.sound_iff (e := { e with wave := wave }) he t).2 ⟨hw, ?_⟩
  simpa [ClockEntry.levelSound, hh] using hl

/-- A rising edge of a sound clock whose waveform was low leaves it sound: GATE_PENDING and OFF_PENDING, whose waveform is
high, have none (R9). -/
theorem ClockEntry.rise_sound {e : ClockEntry} {wave : Wave} {t : Nat} (he : e.state ≠ .off)
    (hl : e.levelSound = true) (hlow : e.wave.high = false) (hw : wave.soundAfter t) (hh : wave.high = true) :
    (e.rise wave).1.sound t = true := by
  obtain ⟨n, st, level, old⟩ := e
  dsimp only at he hlow
  cases st <;> simp only [ClockEntry.levelSound, hlow, Bool.and_false, Bool.false_eq_true] at hl <;>
    simp only [ClockEntry.rise, ClockState.onRising]
  case off => exact absurd rfl he
  case active => exact (ClockEntry.sound_iff (by simp) t).2 ⟨hw, by simp [ClockEntry.levelSound, hh]⟩
  case ungatePending => exact (ClockEntry.sound_iff (by simp) t).2 ⟨hw, by simp [ClockEntry.levelSound, hh]⟩
  case gated => exact (ClockEntry.sound_iff (by simp) t).2 ⟨hw, by simpa [ClockEntry.levelSound] using hl⟩

/-- A falling edge of a sound clock leaves it sound (R9). -/
theorem ClockEntry.fall_sound {e : ClockEntry} {wave : Wave} {t : Nat} (he : e.state ≠ .off)
    (hl : e.levelSound = true) (hw : wave.soundAfter t) (hh : wave.high = false) :
    (e.fall wave).1.sound t = true := by
  obtain ⟨n, st, level, old⟩ := e
  cases st <;> simp only [ClockEntry.levelSound] at hl <;> simp only [ClockEntry.fall, ClockState.onFalling]
  case off => exact absurd rfl he
  case offPending => exact ClockEntry.enterOff_sound hw t
  case active => exact (ClockEntry.sound_iff (by simp) t).2 ⟨hw, by simp [ClockEntry.levelSound, hh]⟩
  case gatePending => exact (ClockEntry.sound_iff (by simp) t).2 ⟨hw, by simp [ClockEntry.levelSound]⟩
  case gated => exact (ClockEntry.sound_iff (by simp) t).2 ⟨hw, by simpa [ClockEntry.levelSound] using hl⟩
  case ungatePending => exact (ClockEntry.sound_iff (by simp) t).2 ⟨hw, by simpa [ClockEntry.levelSound] using hl⟩

/-- After a rising edge at `t` the waveform is high and falls later (R8, R11). -/
theorem PeriodicWave.afterRise_sound {w : PeriodicWave} {t : Nat} (h : w.inRange) (ht : t ≤ Config.maxTime) :
    (Wave.periodic (w.afterRise t)).soundAfter t ∧ (Wave.periodic (w.afterRise t)).high = true := by
  have hr : (w.applyRetime fun period => t % period).inRange :=
    PeriodicWave.inRange_applyRetime h fun n hn => Nat.mod_lt t hn
  obtain ⟨hper, hlow, hhigh, _, _⟩ := id hr
  simp only [Config.maxTime] at ht
  refine ⟨⟨hr, ?_, ?_⟩, rfl⟩ <;> simp only [PeriodicWave.afterRise] <;> omega

/-- After a falling edge at `t` the waveform is low and rises later (R8). -/
theorem PeriodicWave.afterFall_sound {w : PeriodicWave} {t : Nat} (h : w.inRange) (ht : t ≤ Config.maxTime) :
    (Wave.periodic (w.afterFall t)).soundAfter t ∧ (Wave.periodic (w.afterFall t)).high = false := by
  obtain ⟨hper, hlow, hhigh, _, _⟩ := id h
  simp only [Config.maxTime] at ht
  refine ⟨⟨h, ?_, ?_⟩, rfl⟩ <;> simp only [PeriodicWave.afterFall] <;> omega

/-! ## The clocks at an instant -/

/-- NE of a clock: that of a periodic clock that is not OFF (R36). -/
theorem ClockEntry.nextEdge_eq_some {e : ClockEntry} {n : Nat} :
    e.nextEdge = some n ↔ e.state ≠ .off ∧ ∃ w, e.wave = .periodic w ∧ w.next = n := by
  unfold ClockEntry.nextEdge
  split <;> simp_all

/-- A clock sound after `v` is sound after an instant no later than its own next edge (R37). -/
theorem ClockEntry.atInstant_sound {e : ClockEntry} {v t : Nat} (h : e.sound v = true) (ht : t ≤ Config.maxTime)
    (hn : ∀ n, e.nextEdge = some n → t ≤ n) : (e.atInstant t).1.sound t = true := by
  cases hw : e.wave with
  | divided w => simpa [ClockEntry.atInstant, hw, ClockEntry.sound_divided hw t v] using h
  | periodic w =>
    by_cases he : e.state = .off
    · simpa [ClockEntry.atInstant, hw, he, ClockEntry.sound_off he t v] using h
    have hle : t ≤ w.next := hn _ (ClockEntry.nextEdge_eq_some.2 ⟨he, w, hw, rfl⟩)
    obtain ⟨hs, hl⟩ := (ClockEntry.sound_iff he v).1 h
    rw [hw] at hs
    obtain ⟨hr, _, hlim⟩ := hs
    simp only [ClockEntry.atInstant, hw]
    split_ifs with hdue
    · cases hp : w.polarity with
      | rising =>
        obtain ⟨hs', hh'⟩ := PeriodicWave.afterRise_sound hr ht
        exact ClockEntry.rise_sound he hl (by simp [hw, Wave.high, hp]) hs' hh'
      | falling =>
        obtain ⟨hs', hh'⟩ := PeriodicWave.afterFall_sound hr ht
        exact ClockEntry.fall_sound he hl hs' hh'
    · have hne : w.next ≠ t := fun e => hdue ⟨he, e⟩
      refine (ClockEntry.sound_iff he t).2 ⟨?_, hl⟩
      rw [hw]
      exact ⟨hr, by omega, hlim⟩

/-- A sound divided clock at a rise of its parent is sound (R10, R12). -/
theorem ClockEntry.atParentRise_sound {e : ClockEntry} {t : Nat} (h : e.sound t = true) :
    e.atParentRise.1.sound t = true := by
  cases hw : e.wave with
  | periodic w => simpa [ClockEntry.atParentRise, hw] using h
  | divided w =>
    by_cases he : e.state = .off
    · simpa [ClockEntry.atParentRise, hw, he] using h
    obtain ⟨hs, hl⟩ := (ClockEntry.sound_iff he t).1 h
    rw [hw] at hs
    obtain ⟨hr, hc⟩ := hs
    obtain ⟨_, hlow, hhigh, _⟩ := id hr
    have hlt : (w.count + 1) % w.divisor < w.divisor := Nat.mod_lt _ (by omega)
    have hcount : (w.count + 1) % w.divisor = 0 ∧ w.count + 1 = w.divisor
        ∨ (w.count + 1) % w.divisor = w.count + 1 := by
      rcases Nat.lt_or_ge (w.count + 1) w.divisor with hlt' | hge
      · exact .inr (Nat.mod_eq_of_lt hlt')
      · have heq : w.count + 1 = w.divisor := by omega
        exact .inl ⟨by rw [heq, Nat.mod_self], heq⟩
    simp only [ClockEntry.atParentRise, hw, he, if_false]
    split_ifs with hzero hfall
    · have hrange := DividedWave.inRange_applyRetime (w := { w with count := 0 }) hr
      obtain ⟨_, hpos, hlt', _⟩ := id hrange
      refine ClockEntry.rise_sound he hl ?_ ⟨hrange, ?_⟩ ?_
      · simp only [hw, Wave.high, decide_eq_false_iff_not]
        omega
      · simpa using hpos.trans hlt'
      · simpa [Wave.high] using hpos
    · exact ClockEntry.fall_sound he hl ⟨hr, hlt⟩ (by simp [Wave.high, hfall])
    · refine ClockEntry.sound_withWave he hl ⟨hr, hlt⟩ ?_
      simp only [hw, Wave.high, decide_eq_decide]
      omega

/-- One clock of an instant: its own edge, and for a divided clock its parent's rise (R37, R38). -/
def ClockEntry.handled (parents : List (LocalNo × LocalNo)) (rose : List LocalNo) (t : Nat) (e : ClockEntry) :
    ClockEntry × Edge :=
  match (e.atInstant t).1.wave with
  | .periodic _ => e.atInstant t
  | .divided _ =>
    if parentRose parents rose (e.atInstant t).1.localNo then (e.atInstant t).1.atParentRise else e.atInstant t

theorem handleInstant_eq_map (parents : List (LocalNo × LocalNo)) (t : Nat) (snap : Snapshot) :
    handleInstant parents t snap
      = snap.map (ClockEntry.handled parents (rises (snap.map (ClockEntry.atInstant t))) t) := by
  simp only [handleInstant, List.map_map]
  rfl

@[simp] theorem ClockEntry.handled_localNo (parents : List (LocalNo × LocalNo)) (rose : List LocalNo) (t : Nat)
    (e : ClockEntry) : (e.handled parents rose t).1.localNo = e.localNo := by
  unfold ClockEntry.handled
  split
  · simp
  · split <;> simp

/-- An instant keeps the clocks and their local numbers. -/
theorem handleInstant_localNo (parents : List (LocalNo × LocalNo)) (t : Nat) (snap : Snapshot) :
    ((handleInstant parents t snap).map Prod.fst).map ClockEntry.localNo = snap.map ClockEntry.localNo := by
  simp [handleInstant_eq_map, Function.comp_def]

/-- The clocks of a snapshot sound after `v` are sound after an instant that no next edge precedes (R37, R38). -/
theorem handleInstant_sound {parents : List (LocalNo × LocalNo)} {snap : Snapshot} {v t : Nat}
    (h : ∀ e ∈ snap, e.sound v = true) (ht : t ≤ Config.maxTime)
    (hn : ∀ e ∈ snap, ∀ n, e.nextEdge = some n → t ≤ n) :
    ∀ e ∈ (handleInstant parents t snap).map Prod.fst, e.sound t = true := by
  rw [handleInstant_eq_map, List.map_map]
  intro e' he'
  obtain ⟨e, he, rfl⟩ := List.mem_map.1 he'
  have hs : (e.atInstant t).1.sound t = true := ClockEntry.atInstant_sound (h e he) ht (hn e he)
  simp only [Function.comp_apply, ClockEntry.handled]
  split
  · exact hs
  · split
    · exact ClockEntry.atParentRise_sound hs
    · exact hs

end Sys2Proof.Machine
end

section
/-! SUPPORT. A computation instant by instant (R36 to R44): the masks bit by bit, the smallest next edge, how each instant is
judged, and the statement about computed steps. -/

namespace Sys2Proof.Machine

/-! ## Masks -/

theorem getLsbD_oneClock (m n : LocalNo) : (BitVec.twoPow 16 m.val).getLsbD n.val = true ↔ m = n := by
  simp [Fin.ext_iff, eq_comm]

/-- A bit of the level mask: a clock that is high and not OFF (R7). -/
theorem levelMask_getLsbD (snap : Snapshot) (n : LocalNo) :
    (levelMask snap).getLsbD n.val = true ↔ ∃ e ∈ snap, e.localNo = n ∧ e.level = true ∧ e.state ≠ .off := by
  induction snap with
  | nil => simp [levelMask]
  | cons e es ih =>
    rw [levelMask, BitVec.getLsbD_or, Bool.or_eq_true, ih, List.exists_mem_cons_iff]
    refine or_congr_left ?_
    split_ifs with hhigh
    · simp only [getLsbD_oneClock]
      simp_all
    · simp_all

/-- A bit of the changed mask: a clock that issued an edge (R40). -/
theorem changedMask_getLsbD (edges : List (ClockEntry × Edge)) (n : LocalNo) :
    (changedMask edges).getLsbD n.val = true ↔ ∃ c ∈ edges, c.2 ≠ .none ∧ c.1.localNo = n := by
  induction edges with
  | nil => simp [changedMask]
  | cons c cs ih =>
    obtain ⟨e, edge⟩ := c
    rw [List.exists_mem_cons_iff, ← ih]
    cases edge with
    | none => simp [changedMask]
    | rise => simp only [changedMask, BitVec.getLsbD_or, Bool.or_eq_true, getLsbD_oneClock]; simp
    | fall => simp only [changedMask, BitVec.getLsbD_or, Bool.or_eq_true, getLsbD_oneClock]; simp

/-- An instant issued an edge when some clock has one (R39). -/
theorem anyIssued_iff (edges : List (ClockEntry × Edge)) : anyIssued edges = true ↔ ∃ c ∈ edges, c.2 ≠ .none := by
  simp [anyIssued]

/-- An instant that issued an edge has a changed mask that is not 0 (R39, R40). -/
theorem changedMask_ne_zero {edges : List (ClockEntry × Edge)} (h : anyIssued edges = true) : changedMask edges ≠ 0 := by
  obtain ⟨c, hc, hne⟩ := (anyIssued_iff edges).1 h
  intro hzero
  have hbit := (changedMask_getLsbD edges c.1.localNo).2 ⟨c, hc, hne, rfl⟩
  simp [hzero] at hbit

/-! ## The instant to come -/

/-- The smallest NE is the minimum of the next edges (R36). -/
theorem earliest_eq_min? (snap : Snapshot) : earliest snap = (snap.filterMap ClockEntry.nextEdge).min? := by
  induction snap with
  | nil => rfl
  | cons e es ih =>
    rw [earliest, ih]
    cases hn : e.nextEdge with
    | none => simp [hn]
    | some a =>
      rw [List.filterMap_cons_some hn, List.min?_cons]
      cases (es.filterMap ClockEntry.nextEdge).min? <;> rfl

/-- The smallest NE is the next edge of a clock, and no next edge precedes it (R36). -/
theorem earliest_eq_some {snap : Snapshot} {t : Nat} :
    earliest snap = some t ↔
      (∃ e ∈ snap, e.nextEdge = some t) ∧ ∀ e ∈ snap, ∀ n, e.nextEdge = some n → t ≤ n := by
  rw [earliest_eq_min?, List.min?_eq_some_iff]
  simp only [List.mem_filterMap]
  grind

/-- A clock bound to issue an edge: a periodic clock in one of four states (R44). -/
theorem ClockEntry.canIssue_iff (e : ClockEntry) :
    e.canIssue = true ↔ (∃ w, e.wave = .periodic w)
      ∧ (e.state = .active ∨ e.state = .gatePending ∨ e.state = .ungatePending ∨ e.state = .offPending) := by
  unfold ClockEntry.canIssue
  split <;> simp_all

theorem any_canIssue_iff (snap : Snapshot) :
    snap.any ClockEntry.canIssue = true ↔ ∃ e ∈ snap, (∃ w, e.wave = .periodic w)
      ∧ (e.state = .active ∨ e.state = .gatePending ∨ e.state = .ungatePending ∨ e.state = .offPending) := by
  simp only [List.any_eq_true, ClockEntry.canIssue_iff]

/-- With sound clocks the next instant lies later than the one before (R41). -/
theorem earliest_later {snap : Snapshot} {v t : Nat} (h : ∀ e ∈ snap, e.sound v = true)
    (ht : earliest snap = some t) : v < t := by
  obtain ⟨⟨e, he, hn⟩, _⟩ := earliest_eq_some.1 ht
  obtain ⟨hoff, w, hw, rfl⟩ := ClockEntry.nextEdge_eq_some.1 hn
  obtain ⟨hs, _⟩ := (ClockEntry.sound_iff hoff v).1 (h e he)
  rw [hw] at hs
  obtain ⟨_, hlater, _⟩ := hs
  exact hlater

/-- The instant to come of sound clocks leaves sound clocks (R37, R38, R41). -/
theorem handleInstant_earliest_sound {parents : List (LocalNo × LocalNo)} {snap : Snapshot} {v t : Nat}
    (h : ∀ e ∈ snap, e.sound v = true) (he : earliest snap = some t) (ht : t ≤ Config.maxTime) :
    ∀ e ∈ (handleInstant parents t snap).map Prod.fst, e.sound t = true :=
  handleInstant_sound h ht (earliest_eq_some.1 he).2

/-! ## Judging an instant -/

section
variable {parents : List (LocalNo × LocalNo)} {target : Option Nat}

theorem beyond_eq_true {t : Nat} : beyond target t = true ↔ ∃ T, target = some T ∧ T < t := by
  cases target <;> simp [beyond]

/-- With no clock bound to an edge the computation ends with NO_EDGES (R44). -/
theorem computeFrom_noEdges {snap : Snapshot} (fuel : Nat) (h : snap.any ClockEntry.canIssue = false) :
    computeFrom parents target (fuel + 1) snap = .noEdges := by
  simp [computeFrom, h]

/-- With no next edge either (R44). -/
theorem computeFrom_noInstant {snap : Snapshot} (fuel : Nat) (h : earliest snap = none) :
    computeFrom parents target (fuel + 1) snap = .noEdges := by
  simp [computeFrom, h]

/-- Otherwise the next instant is judged against the target and the end of virtual time, and is the step's when it issues an
edge (R39, R42, R43). -/
theorem computeFrom_instant {snap : Snapshot} {t : Nat} (fuel : Nat) (h : snap.any ClockEntry.canIssue = true)
    (ht : earliest snap = some t) :
    computeFrom parents target (fuel + 1) snap =
      if beyond target t then .time
      else if Config.maxTime < t then .limit
      else if anyIssued (handleInstant parents t snap) then
        .step t (changedMask (handleInstant parents t snap))
          (levelMask ((handleInstant parents t snap).map Prod.fst)) ((handleInstant parents t snap).map Prod.fst)
      else computeFrom parents target fuel ((handleInstant parents t snap).map Prod.fst) := by
  rw [computeFrom, if_pos h, ht]

/-- A computation that gives a step gives it at its next instant, or crosses that instant (R39). -/
theorem computeFrom_step_cases {fuel : Nat} {snap : Snapshot} {t : Nat} {changed level : ClockMask} {post : Snapshot}
    (h : computeFrom parents target (fuel + 1) snap = .step t changed level post) :
    ∃ t₁, earliest snap = some t₁ ∧ t₁ ≤ Config.maxTime ∧ (∀ T, target = some T → t₁ ≤ T)
      ∧ let edges := handleInstant parents t₁ snap
        (anyIssued edges = true ∧ t = t₁ ∧ changed = changedMask edges ∧ level = levelMask post
          ∧ post = edges.map Prod.fst)
        ∨ computeFrom parents target fuel (edges.map Prod.fst) = .step t changed level post := by
  cases hany : snap.any ClockEntry.canIssue with
  | false => simp [computeFrom_noEdges fuel hany] at h
  | true =>
    cases ht : earliest snap with
    | none => simp [computeFrom_noInstant fuel ht] at h
    | some t₁ =>
      rw [computeFrom_instant fuel hany ht] at h
      split_ifs at h with hbeyond hlimit hissued
      · refine ⟨t₁, rfl, Nat.le_of_not_lt hlimit, fun T hT => ?_, .inl ?_⟩
        · exact Nat.le_of_not_lt fun hlt => hbeyond (beyond_eq_true.2 ⟨T, hT, hlt⟩)
        · obtain ⟨rfl, rfl, rfl, rfl⟩ := h
          exact ⟨hissued, rfl, rfl, rfl, rfl⟩
      · refine ⟨t₁, rfl, Nat.le_of_not_lt hlimit, fun T hT => ?_, .inr h⟩
        exact Nat.le_of_not_lt fun hlt => hbeyond (beyond_eq_true.2 ⟨T, hT, hlt⟩)

/-- A step computed from sound clocks is later than they are, within virtual time and the target, and leaves sound clocks
(R36 to R43). -/
theorem computeFrom_step_sound {fuel v : Nat} {snap : Snapshot} {t : Nat} {changed level : ClockMask} {post : Snapshot}
    (hs : ∀ e ∈ snap, e.sound v = true)
    (h : computeFrom parents target fuel snap = .step t changed level post) :
    v < t ∧ t ≤ Config.maxTime ∧ (∀ T, target = some T → t ≤ T) ∧ changed ≠ 0 ∧ level = levelMask post
      ∧ (∀ e ∈ post, e.sound t = true) ∧ post.map ClockEntry.localNo = snap.map ClockEntry.localNo := by
  induction fuel generalizing v snap with
  | zero => simp [computeFrom] at h
  | succ fuel ih =>
    obtain ⟨t₁, ht, hmax, htarget, hcase⟩ := computeFrom_step_cases h
    have hlater : v < t₁ := earliest_later hs ht
    have hpost := handleInstant_earliest_sound (parents := parents) hs ht hmax
    rcases hcase with ⟨hissued, rfl, rfl, rfl, rfl⟩ | hrest
    · exact ⟨hlater, hmax, htarget, changedMask_ne_zero hissued, rfl, hpost, handleInstant_localNo _ _ _⟩
    · obtain ⟨hv, hm, hT, hc, hl, hp, hn⟩ := ih hpost hrest
      exact ⟨hlater.trans hv, hm, hT, hc, hl, hp, hn.trans (handleInstant_localNo _ _ _)⟩

/-- A computation of sound clocks ends alike for any two bounds on its instants that reach past the end of virtual time
(R41, R42). -/
theorem computeFrom_fuel_irrelevant {fuel fuel' v : Nat} {snap : Snapshot} (hs : ∀ e ∈ snap, e.sound v = true)
    (hv : v ≤ Config.maxTime) (hf : Config.maxTime < v + fuel) (hf' : Config.maxTime < v + fuel') :
    computeFrom parents target fuel snap = computeFrom parents target fuel' snap := by
  induction fuel generalizing fuel' v snap with
  | zero => omega
  | succ fuel ih =>
    obtain _ | fuel' := fuel'
    · omega
    cases hany : snap.any ClockEntry.canIssue with
    | false => rw [computeFrom_noEdges fuel hany, computeFrom_noEdges fuel' hany]
    | true =>
      cases ht : earliest snap with
      | none => rw [computeFrom_noInstant fuel ht, computeFrom_noInstant fuel' ht]
      | some t =>
        have hlater : v < t := earliest_later hs ht
        rw [computeFrom_instant fuel hany ht, computeFrom_instant fuel' hany ht]
        split_ifs with _ hlimit
        · rfl
        · rfl
        · rfl
        · have hmax : t ≤ Config.maxTime := Nat.le_of_not_lt hlimit
          exact ih (handleInstant_earliest_sound hs ht hmax) hmax (by omega) (by omega)

end

/-- Settles O13, by induction on the instants crossed. -/
theorem computedStepAdvancesTime : Obligations.ComputedStepAdvancesTime := by
  refine ⟨fun parents target fuel v snap t changed level post hs h => computeFrom_step_sound hs h,
    fun parents target fuel snap => ⟨fun hbound => ?_, fun t hbound hat hleast => ?_⟩, levelMask_getLsbD,
    fun w fuel hs hfuel => ?_⟩
  · exact computeFrom_noEdges fuel (Bool.eq_false_iff.2 fun h => hbound ((any_canIssue_iff snap).1 h))
  · have hnext : earliest snap = some t := earliest_eq_some.2
      ⟨hat.imp fun _ he => ⟨he.1, ClockEntry.nextEdge_eq_some.2 he.2⟩, fun e he n hn => by
        obtain ⟨hoff, w, hw, rfl⟩ := ClockEntry.nextEdge_eq_some.1 hn
        exact hleast e he w hoff hw⟩
    have hjudged := computeFrom_instant (parents := parents) (target := target) fuel ((any_canIssue_iff snap).2 hbound)
      hnext
    refine ⟨fun T hT hlt => ?_, fun htarget => ?_⟩
    · exact hjudged.trans (if_pos (beyond_eq_true.2 ⟨T, hT, hlt⟩))
    have hwithin : ¬ beyond target t = true := fun hb => by
      obtain ⟨T, hT, hlt⟩ := beyond_eq_true.1 hb
      exact absurd (htarget T hT) (Nat.not_le.2 hlt)
    rw [if_neg hwithin] at hjudged
    refine ⟨fun hlimit => hjudged.trans (if_pos hlimit), fun hmax hissued => ?_, fun hmax hnone => ?_⟩
    · have hlimit : ¬ Config.maxTime < t := Nat.not_lt.2 hmax
      rw [if_neg hlimit, if_pos ((anyIssued_iff _).2 hissued)] at hjudged
      exact ⟨_, hjudged, changedMask_getLsbD _⟩
    · have hlimit : ¬ Config.maxTime < t := Nat.not_lt.2 hmax
      have hquiet : ¬ anyIssued (handleInstant parents t snap) = true := fun h => by
        obtain ⟨c, hc, hne⟩ := (anyIssued_iff _).1 h
        exact hne (hnone c hc)
      rwa [if_neg hlimit, if_neg hquiet] at hjudged
  · exact computeFrom_fuel_irrelevant hs (Nat.zero_le _) (by omega) (by omega)

end Sys2Proof.Machine
end

section
/-! SUPPORT. A run at its start (R45, R75 to R78, R85, R90, R93): what the checks say, what a first stop candidate does, when
the run-limit finding is made, and what entry to STOPPED leaves; then the statement about SETUP_RUN and RUN. -/

namespace Sys2Proof.Machine

/-- A partition replaced twice is replaced by the second. -/
@[simp] theorem State.setPart_setPart (s : State) (k : Slot) (p q : Partition) :
    (s.setPart k p).setPart k q = s.setPart k q := by
  simp [State.setPart]

/-! ## Owned boards -/

@[simp] theorem State.owns_iff (s : State) (k : Slot) (b : Board) : s.owns k b = true ↔ (s.board b).owner = some k := by
  simp [State.owns]

@[simp] theorem State.mem_ownedBoards (s : State) (k : Slot) (b : Board) :
    b ∈ s.ownedBoards k ↔ (s.board b).owner = some k := by
  simp [State.ownedBoards, allBoards]

/-! ## The checks and the start -/

/-- A partition with steps 1 to 5 of the start of a run taken (R77). -/
def Partition.started (p : Partition) : Partition :=
  { p with
    runLimit := if p.runMode = .count then min (p.firedFrontier + p.runArgument) 4294967295 else 4294967295
    limitClamped := decide (p.runMode = .count ∧ 4294967295 < p.firedFrontier + p.runArgument)
    stop := none, also := {}, limitFound := false, filter := { p.filter with counter := p.filter.setting }
    state := .running }

theorem startRun_eq (k : Slot) (s : State) : startRun k s = s.setPart k (s.part k).started := by
  have hclamped : (s.part k).newLimitClamped = (s.part k).started.limitClamped := by
    rw [Bool.eq_iff_iff, Partition.newLimitClamped, Bool.and_eq_true, beq_iff_eq, decide_eq_true_iff]
    exact decide_eq_true_iff.symm
  simp only [startRun, State.updPart_eq, hclamped]
  rfl

section
variable {k : Slot} {s : State}

/-- The sticky errors are checked first (R76). -/
theorem runRefusal_pending (h : (s.part k).sticky.linkFault = true ∨ (s.part k).sticky.sequence = true) :
    runRefusal k s = some .errorPending := by
  rw [← Bool.or_eq_true] at h
  rw [runRefusal, if_pos h]

/-- Then the boards (R76). -/
theorem runRefusal_noBoards (h : ¬ ((s.part k).sticky.linkFault = true ∨ (s.part k).sticky.sequence = true))
    (hb : s.ownedBoards k = []) : runRefusal k s = some .noBoards := by
  rw [← Bool.or_eq_true] at h
  simp [runRefusal, h, hb]

/-- Then the event queue (R76). -/
theorem runRefusal_queueFull (h : ¬ ((s.part k).sticky.linkFault = true ∨ (s.part k).sticky.sequence = true))
    (hb : s.ownedBoards k ≠ []) (hq : Config.queueEntries ≤ (s.part k).queue.records.length) :
    runRefusal k s = some .queueFull := by
  rw [← Bool.or_eq_true] at h
  simp [runRefusal, h, hb, hq]

/-- A partition passes the checks when it has no such error, a board and a free entry (R76). -/
theorem runRefusal_eq_none : runRefusal k s = none ↔
    (s.part k).sticky.linkFault = false ∧ (s.part k).sticky.sequence = false ∧ s.ownedBoards k ≠ []
      ∧ (s.part k).queue.records.length < Config.queueEntries := by
  unfold runRefusal
  split_ifs with herror hboards hfull
  · simp only [Bool.or_eq_true] at herror
    grind
  · simp_all
  · simpa using fun _ _ _ => hfull
  · simp_all

/-- SETUP_RUN with a mode keeps the run setup and answers it (R75). -/
theorem exec_setupRun_mode {mode : Byte} {argument : BitVec 48} {m : RunMode}
    (h : WaitsIn s k .stopped (.setupRun mode argument)) (hm : RunMode.ofByte mode = some m) :
    exec (.setupRun k mode argument) s = .next (respond k .ok (argumentClamped m argument)
      (m.code :: leBytes 6 (keptArgument m argument))
      (s.setPart k { s.part k with runMode := m, runArgument := keptArgument m argument })) := by
  refine (take_waits h.1).trans ?_
  simp [whenStopped_stopped h.2, hm, Partition.setupBytes]

/-- SETUP_RUN with a byte that is no mode is refused (R75). -/
theorem exec_setupRun_badValue {mode : Byte} {argument : BitVec 48}
    (h : WaitsIn s k .stopped (.setupRun mode argument)) (hm : RunMode.ofByte mode = none) :
    exec (.setupRun k mode argument) s = .next (refuse k .badValue s) := by
  refine (take_waits h.1).trans ?_
  simp [whenStopped_stopped h.2, hm]

/-- RUN in STOPPED that fails a check is refused (R76). -/
theorem exec_run_refused {status : Status} (h : WaitsIn s k .stopped .run) (hr : runRefusal k s = some status) :
    exec (.run k) s = .next (refuse k status s) := by
  refine (take_waits h.1).trans ?_
  simp [whenStopped_stopped h.2, hr]

/-- The machine once RUN has started a run and answered (R77). -/
def runAnswered (k : Slot) (s : State) : State :=
  respond k .ok (s.part k).started.limitClamped (s.part k).started.startBytes (s.setPart k (s.part k).started)

@[simp] theorem runAnswered_part_self (k : Slot) (s : State) : (runAnswered k s).part k = (s.part k).started := by
  simp [runAnswered]

/-- RUN in STOPPED that passes the checks starts the run, answers, and ends the run at its start if it must (R77, R78). -/
theorem exec_run_taken (h : WaitsIn s k .stopped .run) (hr : runRefusal k s = none) :
    exec (.run k) s = .next (engineSelect (endAtStart k (runAnswered k s))) := by
  refine (take_waits h.1).trans ?_
  simp [whenStopped_stopped h.2, hr, takeRun, startRun_eq, runAnswered]

/-! ## Findings and stop candidates -/

theorem PartState.isRun_iff (st : PartState) : st.isRun = true ↔ st = .running ∨ st = .paused ∨ st = .stopping := by
  cases st <;> simp [PartState.isRun]

/-- The run-limit finding is made in a run state, once, with the frontier at the run limit (R45, R46). -/
theorem runLimitFinding_reached (hrun : (s.part k).state.isRun = true) (hfound : (s.part k).limitFound = false)
    (hlimit : (s.part k).frontier = (s.part k).runLimit) :
    runLimitFinding k s = candidate k (s.part k).runLimit
      (if (s.part k).runMode = .count ∧ (s.part k).limitClamped = false then .count else .limit)
      (s.setPart k { s.part k with limitFound := true }) := by
  simp [runLimitFinding, hrun, hfound, hlimit, offerFinding]

/-- Otherwise there is none (R45, R46). -/
theorem runLimitFinding_not_reached (h : ¬ ((s.part k).state.isRun = true ∧ (s.part k).limitFound = false
    ∧ (s.part k).frontier = (s.part k).runLimit)) : runLimitFinding k s = s := by
  unfold runLimitFinding
  rw [if_neg]
  simpa [and_assoc] using h

/-- The first stop candidate of a run, at the frontier and with a reason other than GROUP: the stop point is set, RUNNING
becomes STOPPING, nothing is rewound, and the group is offered the stop (R85, R93). -/
theorem candidate_first {n : Nat} {r : StopReason} (hrun : (s.part k).state = .running) (hstop : (s.part k).stop = none)
    (hn : (s.part k).frontier ≤ n) (hr : r.name ≠ .group) :
    candidate k n r s
      = offerGroupStop k (s.setPart k { s.part k with stop := some ⟨n, r⟩, state := .stopping }) := by
  simp [candidate, hrun, PartState.isRun, hstop, setStopPoint, Nat.not_lt.2 hn, hr]

/-- A later candidate that does not lower the stop point joins the also-reasons (R85). -/
theorem candidate_joins {n : Nat} {r : StopReason} {point : StopPoint} (hrun : (s.part k).state.isRun = true)
    (hstop : (s.part k).stop = some point) (hn : point.step ≤ n) :
    candidate k n r s = s.setPart k { s.part k with also := (s.part k).also.add r.name } := by
  simp [candidate, hrun, hstop, Nat.not_lt.2 hn]

/-- From `s` to `u` every partition but `k` stays, offered a group stop of `k` when it is in the group of `k`, and of the
rest nothing changes but partition `k` and the engine (R93). -/
def GroupOffered (k : Slot) (s u : State) : Prop :=
  OnlyRun s u ∧ u.links = s.links ∧ ∀ j, j ≠ k → u.part j = { s.part j with groupStops :=
    if (s.part k).group ≠ none ∧ (s.part j).group = (s.part k).group then (s.part j).groupStops ++ [k]
    else (s.part j).groupStops }

@[simp] theorem offerGroupStop_part_self (k : Slot) (s : State) : (offerGroupStop k s).part k = s.part k := by
  unfold offerGroupStop
  split <;> simp

theorem groupOffered_offerGroupStop (k : Slot) (s : State) : GroupOffered k s (offerGroupStop k s) := by
  refine ⟨onlyRun_offerGroupStop k s, ?_⟩
  unfold offerGroupStop
  split
  · rename_i hg
    exact ⟨rfl, fun j _ => by simp [hg]⟩
  · rename_i g hg
    refine ⟨by simp, fun j hj => ?_⟩
    simp only [State.mapParts_part, hg, hj, ne_eq, not_false_eq_true, true_and, reduceCtorEq]
    split_ifs <;> rfl

/-- A stop is offered to the group alike whatever else changes in partition `k`. -/
theorem GroupOffered.of_setPart {p : Partition} {u : State} (h : GroupOffered k (s.setPart k p) u)
    (hg : p.group = (s.part k).group) : GroupOffered k s u := by
  obtain ⟨honly, hlinks, hparts⟩ := h
  refine ⟨(onlyRun_setPart k p s).trans honly, by simpa using hlinks, fun j hj => ?_⟩
  simpa [State.setPart_part_ne s k p j hj, hg] using hparts j hj

theorem GroupOffered.setPart {u : State} (h : GroupOffered k s u) (p : Partition) : GroupOffered k s (u.setPart k p) := by
  obtain ⟨honly, hlinks, hparts⟩ := h
  refine ⟨honly.trans (onlyRun_setPart k p u), by simpa using hlinks, fun j hj => ?_⟩
  rw [State.setPart_part_ne u k p j hj, hparts j hj]

/-! ## An empty pipe, and entry to STOPPED -/

/-- With nothing in the pipe the frontier is the fired frontier (R106). -/
theorem Partition.frontier_of_nil {p : Partition} (h : p.pipe = []) : p.frontier = p.firedFrontier := by
  simp [Partition.frontier, h]

/-- With nothing in the pipe nothing fires (R113). -/
theorem tryFire_of_nil (h : (s.part k).pipe = []) : tryFire k s = s := by
  simp [tryFire, Partition.fireable, oldestUnfired, h]

/-- With nothing in the pipe, outside STOPPING neither condition has an effect (R113, R124). -/
theorem advance_of_nil (h : (s.part k).pipe = []) (hs : (s.part k).state ≠ .stopping) : advance k s = s := by
  simp [advance, tryFire_of_nil h, checkStop, stopComplete, hs]

/-- With nothing in the pipe, the stop point at the fired frontier and no FLUSH pending, a partition in STOPPING enters
STOPPED (R124). -/
theorem advance_stops (h : (s.part k).pipe = []) (hs : (s.part k).state = .stopping)
    (hp : (s.part k).stopStep = some (s.part k).firedFrontier)
    (hf : ∀ b, (s.board b).owner = some k → (s.link b).flushPending = false) : advance k s = enterStopped k s := by
  have hcomplete : stopComplete k s = true := by simpa [stopComplete, h, hs, hp] using hf
  simp [advance, tryFire_of_nil h, checkStop, hcomplete]

/-- Entry to STOPPED with a stop point set: the state, and its STOP record offered (R90, R91). -/
theorem enterStopped_eq {point : StopPoint} (hp : (s.part k).stop = some point) :
    enterStopped k s = offerRecord k (.stop point.step (s.part k).vt point.primary (s.part k).also)
      (restLinks k ((voidWork k s).setPart k { s.part k with state := .stopped })) := by
  simp [enterStopped, offerStop, Partition.stopRecord, hp]

/-- Entry to STOPPED with a free entry queues the STOP record (R90, R91, R175). -/
theorem enterStopped_part_self {point : StopPoint} (hp : (s.part k).stop = some point)
    (hroom : (s.part k).queue.records.length < 32) :
    (enterStopped k s).part k = { s.part k with
      state := .stopped
      queue := { (s.part k).queue with
        records := (s.part k).queue.records ++ [.stop point.step (s.part k).vt point.primary (s.part k).also] } } := by
  rw [enterStopped_eq hp, offerRecord_eq, State.setPart_part_self, restLinks_part, State.setPart_part_self, offer_stored]
  exact hroom

/-- Entry to STOPPED leaves the other partitions. -/
theorem enterStopped_part_ne {j : Slot} (hj : j ≠ k) : (enterStopped k s).part j = s.part j := by
  unfold enterStopped offerStop
  split <;> simp [offerRecord, State.setPart_part_ne _ _ _ _ hj]

/-- Entry to STOPPED puts the links of the partition's boards at rest (R122, R143). -/
theorem enterStopped_link (b : Board) :
    (enterStopped k s).link b = if (s.board b).owner = some k then (s.link b).rest else s.link b := by
  unfold enterStopped offerStop
  split <;> simp [offerRecord, State.owns]

/-! ## A run that ends at its start -/

/-- What a run that ends at its start has become (R78, R90, R93): the partition STOPPED at its fired frontier with its STOP
record queued, the links of its boards at rest, the group offered the stop. -/
def StoppedAtStart (k : Slot) (s : State) (reason : StopReason) (also : ReasonSet) (found : Bool) (t : State) : Prop :=
  t.part k = { s.part k with
      state := .stopped, stop := some ⟨(s.part k).firedFrontier, reason⟩, also := also, limitFound := found
      queue := { (s.part k).queue with records := (s.part k).queue.records
        ++ [.stop (s.part k).firedFrontier (s.part k).vt reason also] } }
    ∧ (∀ b, t.link b = if (s.board b).owner = some k then (s.link b).rest else s.link b)
    ∧ (∀ j, j ≠ k → t.part j = { s.part j with groupStops :=
        if (s.part k).group ≠ none ∧ (s.part j).group = (s.part k).group then (s.part j).groupStops ++ [k]
        else (s.part j).groupStops })
    ∧ OnlyRun s t

/-- The first candidate at the fired frontier of a run with an empty pipe (R78, R85). -/
theorem candidate_offers {r : StopReason} (hrun : (s.part k).state = .running) (hstop : (s.part k).stop = none)
    (hpipe : (s.part k).pipe = []) (hr : r.name ≠ .group) :
    let u := candidate k (s.part k).firedFrontier r s
    GroupOffered k s u
      ∧ u.part k = { s.part k with state := .stopping, stop := some ⟨(s.part k).firedFrontier, r⟩ } := by
  dsimp only
  rw [candidate_first hrun hstop (Partition.frontier_of_nil hpipe).le hr]
  exact ⟨(groupOffered_offerGroupStop k _).of_setPart rfl, by simp⟩

/-- A run that has just started, with an empty pipe, a free queue entry and no FLUSH pending (R76, R77). -/
structure JustStarted (k : Slot) (s : State) : Prop where
  running : (s.part k).state = .running
  noStop  : (s.part k).stop = none
  noAlso  : (s.part k).also = {}
  noFind  : (s.part k).limitFound = false
  noPipe  : (s.part k).pipe = []
  room    : (s.part k).queue.records.length < 32
  noFlush : ∀ b, (s.board b).owner = some k → (s.link b).flushPending = false

/-- A run just started that has been given a stop point at its fired frontier ends (R78, R124). -/
theorem JustStarted.advance_ends {u : State} {reason : StopReason} {also : ReasonSet} {found : Bool}
    (h : JustStarted k s) (hu : GroupOffered k s u)
    (hp : u.part k = { s.part k with state := .stopping, stop := some ⟨(s.part k).firedFrontier, reason⟩, also := also,
                                     limitFound := found }) :
    StoppedAtStart k s reason also found (advance k u) := by
  obtain ⟨honly, hlinks, hparts⟩ := hu
  have hboard : ∀ b, u.board b = s.board b := fun b => by rw [State.board, State.board, honly.1]
  have hlink : ∀ b, u.link b = s.link b := fun b => by rw [State.link, State.link, hlinks]
  have hends : advance k u = enterStopped k u := by
    refine advance_stops ?_ ?_ ?_ fun b hb => ?_
    · simp [hp, h.noPipe]
    · simp [hp]
    · simp [hp, Partition.stopStep]
    · rw [hlink]
      exact h.noFlush b (hboard b ▸ hb)
  rw [hends]
  refine ⟨?_, fun b => ?_, fun j hj => ?_, honly.trans (onlyRun_enterStopped k u)⟩
  · rw [enterStopped_part_self (point := ⟨(s.part k).firedFrontier, reason⟩) (by simp [hp])
      (by simpa [hp] using h.room), hp]
  · rw [enterStopped_link, hboard, hlink]
  · rw [enterStopped_part_ne hj, hparts j hj]

/-- A run just started whose target time is ahead and whose fired frontier is below its limit goes on (R78). -/
theorem endAtStart_goes_on (hrun : (s.part k).state = .running) (hpipe : (s.part k).pipe = [])
    (hpassed : ¬ ((s.part k).runMode = .until ∧ (s.part k).runArgument ≤ (s.part k).vt))
    (hlimit : (s.part k).firedFrontier < (s.part k).runLimit) : endAtStart k s = s := by
  have hfind : runLimitFinding k s = s := runLimitFinding_not_reached fun hreached => by
    rw [Partition.frontier_of_nil hpipe] at hreached
    omega
  rw [endAtStart, if_neg hpassed, hfind, advance_of_nil hpipe (by simp [hrun])]

/-- A target time that is not ahead ends the run with TIME (R78). -/
theorem JustStarted.ends_time (h : JustStarted k s)
    (hpassed : (s.part k).runMode = .until ∧ (s.part k).runArgument ≤ (s.part k).vt)
    (hlimit : (s.part k).firedFrontier < (s.part k).runLimit) :
    StoppedAtStart k s .time {} false (endAtStart k s) := by
  obtain ⟨hu, hp⟩ := candidate_offers (r := .time) h.running h.noStop h.noPipe (by decide)
  rw [endAtStart, if_pos hpassed]
  generalize candidate k (s.part k).firedFrontier .time s = u at hu hp ⊢
  have hfront : (u.part k).frontier = (s.part k).firedFrontier :=
    hp ▸ Partition.frontier_of_nil (p := { s.part k with state := _, stop := _ }) h.noPipe
  rw [runLimitFinding_not_reached]
  · exact h.advance_ends hu (by rw [hp, ← h.noAlso, ← h.noFind])
  · rintro ⟨-, -, hreached⟩
    exact hlimit.ne (hfront.symm.trans (hreached.trans (by rw [hp])))

/-- With the fired frontier at the run limit as well, LIMIT joins the reasons (R78; assumption 10). -/
theorem JustStarted.ends_time_limit (h : JustStarted k s)
    (hpassed : (s.part k).runMode = .until ∧ (s.part k).runArgument ≤ (s.part k).vt)
    (hlimit : (s.part k).firedFrontier = (s.part k).runLimit) :
    StoppedAtStart k s .time (({} : ReasonSet).add .limit) true (endAtStart k s) := by
  obtain ⟨hu, hp⟩ := candidate_offers (r := .time) h.running h.noStop h.noPipe (by decide)
  rw [endAtStart, if_pos hpassed]
  generalize candidate k (s.part k).firedFrontier .time s = u at hu hp ⊢
  have hfront : (u.part k).frontier = (u.part k).runLimit := by
    rw [hp]
    exact (Partition.frontier_of_nil (p := { s.part k with state := _, stop := _ }) h.noPipe).trans hlimit
  have hfind : runLimitFinding k u
      = u.setPart k { u.part k with limitFound := true, also := (s.part k).also.add .limit } := by
    rw [runLimitFinding_reached (by simp [hp, PartState.isRun]) (by simp [hp, h.noFind]) hfront,
      candidate_joins (point := ⟨(s.part k).firedFrontier, .time⟩) (by simp [hp, PartState.isRun]) (by simp [hp])
        (by simp [hp, hlimit])]
    simp [hp, hpassed.1, StopReason.name]
  rw [hfind]
  refine h.advance_ends (hu.setPart _) ?_
  rw [State.setPart_part_self, hp, h.noAlso]

/-- The fired frontier at the run limit alone ends the run with LIMIT (R78). -/
theorem JustStarted.ends_limit (h : JustStarted k s)
    (hpassed : ¬ ((s.part k).runMode = .until ∧ (s.part k).runArgument ≤ (s.part k).vt))
    (hlimit : (s.part k).firedFrontier = (s.part k).runLimit)
    (hcount : (s.part k).runMode = .count → (s.part k).limitClamped = true) :
    StoppedAtStart k s .limit {} true (endAtStart k s) := by
  have hreason : ¬ ((s.part k).runMode = .count ∧ (s.part k).limitClamped = false) := fun hc => by
    simp [hcount hc.1] at hc
  obtain ⟨hu, hp⟩ := candidate_offers (r := .limit) (k := k) (s := s.setPart k { s.part k with limitFound := true })
    (by simp [h.running]) (by simp [h.noStop]) (by simp [h.noPipe]) (by decide)
  rw [State.setPart_part_self] at hu hp
  rw [endAtStart, if_neg hpassed, runLimitFinding_reached (by simp [h.running, PartState.isRun]) h.noFind
      ((Partition.frontier_of_nil h.noPipe).trans hlimit), if_neg hreason, ← hlimit]
  exact h.advance_ends (hu.of_setPart rfl) (by rw [hp, ← h.noAlso])

end

/-! ## The statement -/

/-- What a run answered is, for a partition STOPPED with an empty pipe that passes the checks: just started. -/
theorem justStarted_runAnswered {k : Slot} {s : State} (hpipe : (s.part k).pipe = [])
    (hroom : (s.part k).queue.records.length < 32)
    (hflush : ∀ b, (s.board b).owner = some k → (s.link b).flushPending = false) :
    JustStarted k (runAnswered k s) := by
  refine ⟨?_, ?_, ?_, ?_, ?_, ?_, by simpa [runAnswered] using hflush⟩ <;> rw [runAnswered_part_self]
  exacts [rfl, rfl, rfl, rfl, hpipe, hroom]

section
variable {k : Slot} {s : State}

/-- A run that ends at its start, seen from before the RUN: its partition, its links, the group's offers, and nothing else
but the response (R78, R90). -/
theorem ended_of_stoppedAtStart {reason : StopReason} {also : ReasonSet} {found : Bool} {t : State}
    (h : StoppedAtStart k (runAnswered k s) reason also found t) :
    t.port k = (runAnswered k s).port k
      ∧ t.part k = { (s.part k).started with
          state := .stopped, stop := some ⟨(s.part k).firedFrontier, reason⟩, also := also, limitFound := found,
          queue := { (s.part k).queue with
            records := (s.part k).queue.records ++ [.stop (s.part k).firedFrontier (s.part k).vt reason also] } }
      ∧ (∀ b, t.link b = if (s.board b).owner = some k then (s.link b).rest else s.link b)
      ∧ (∀ j, j ≠ k → t.port j = s.port j ∧ t.part j = { s.part j with groupStops :=
          if (s.part k).group ≠ none ∧ (s.part j).group = (s.part k).group then (s.part j).groupStops ++ [k]
          else (s.part j).groupStops })
      ∧ t.boards = s.boards ∧ t.pool = s.pool ∧ t.loader = s.loader ∧ t.store = s.store := by
  obtain ⟨hpart, hlink, hother, hboards, hpool, hports, hloader, hstore, -⟩ := h
  have hport : ∀ j, t.port j = (runAnswered k s).port j := fun j => by rw [State.port, State.port, hports]
  rw [runAnswered_part_self] at hpart hother
  refine ⟨hport k, hpart, fun b => by simpa [runAnswered] using hlink b, fun j hj => ⟨?_, ?_⟩, hboards, hpool, hloader,
    hstore⟩
  · rw [hport, runAnswered, respond_port_ne k j hj, State.setPart_port]
  · have hpart_ne : (runAnswered k s).part j = s.part j := by
      rw [runAnswered, respond_part, State.setPart_part_ne _ _ _ _ hj]
    have hoffered := hother j hj
    rw [hpart_ne] at hoffered
    exact hoffered

/-- Every run limit is 2^32 − 1 for a run from there (R45, R77). -/
theorem Partition.started_runLimit_of_max {p : Partition} (h : p.firedFrontier = 4294967295) :
    p.started.runLimit = 4294967295 := by
  simp [Partition.started, h]

theorem Partition.started_runLimit_of_until {p : Partition} (h : p.runMode = .until) :
    p.started.runLimit = 4294967295 := by
  simp [Partition.started, h]

end

/-- SETUP_RUN for each mode (R75). -/
theorem setupRun_modes {s : State} {k : Slot} {mode : Byte} {argument : BitVec 48}
    (h : WaitsIn s k .stopped (.setupRun mode argument)) :
    let put := fun (m : RunMode) (n : Nat) (clamped : Bool) =>
      Host.Outcome.next (φ := Fault) (ρ := Refusal) (respond k .ok clamped (m.code :: leBytes 6 n)
        (s.setPart k { s.part k with runMode := m, runArgument := n }))
    let count := argument.toNat % 4294967296
    (mode = 0 → exec (.setupRun k mode argument) s = put .free 0 false)
    ∧ (mode = 1 → exec (.setupRun k mode argument) s = put .count (max 1 count) (decide (count = 0)))
    ∧ (mode = 2 → exec (.setupRun k mode argument) s = put .until argument.toNat false)
    ∧ (2 < mode.toNat → exec (.setupRun k mode argument) s = .next (refuse k .badValue s)) := by
  refine ⟨?_, ?_, ?_, fun hmode => exec_setupRun_badValue h ?_⟩
  · rintro rfl
    exact exec_setupRun_mode (m := .free) h rfl
  · rintro rfl
    exact exec_setupRun_mode (m := .count) h rfl
  · rintro rfl
    exact exec_setupRun_mode (m := .until) h rfl
  · have hne : ∀ m : Byte, m.toNat ≤ 2 → mode ≠ m := fun m hm e => by
      rw [e] at hmode
      omega
    rw [RunMode.ofByte, if_neg (hne 0 (by decide)), if_neg (hne 1 (by decide)), if_neg (hne 2 (by decide))]

/-- Settles O37: the checks in their order, then the run started, which goes on or ends at its start. -/
theorem runSetUpAndStarted : Obligations.RunSetUpAndStarted := by
  refine ⟨fun s k mode argument h => setupRun_modes h, fun s k h => ⟨fun hpending => ?_, fun hclear hnone => ?_,
    fun hclear howner hfull => ?_, fun hclear howner hroom => ?_⟩, fun s k => rfl⟩
  · exact exec_run_refused h (runRefusal_pending hpending)
  · refine exec_run_refused h (runRefusal_noBoards hclear (List.eq_nil_iff_forall_not_mem.2 fun b hb => ?_))
    exact hnone b ((State.mem_ownedBoards s k b).1 hb)
  all_goals
    have howned : s.ownedBoards k ≠ [] := by
      obtain ⟨b, hb⟩ := howner
      exact List.ne_nil_of_mem ((State.mem_ownedBoards s k b).2 hb)
  · exact exec_run_refused h (runRefusal_queueFull hclear howned hfull)
  · have htaken := exec_run_taken h (runRefusal_eq_none.2 ⟨by simpa using fun e => hclear (.inl e),
      by simpa using fun e => hclear (.inr e), howned, hroom⟩)
    refine ⟨htaken, fun hpipe hahead hlimit => ?_, fun hpipe hcount hflush => ?_⟩
    · have hgoes : endAtStart k (runAnswered k s) = runAnswered k s := by
        apply endAtStart_goes_on <;> rw [runAnswered_part_self]
        · rfl
        · exact hpipe
        · exact fun hpassed => Nat.not_le.2 (hahead hpassed.1) hpassed.2
        · exact hlimit
      rw [hgoes] at htaken
      exact htaken
    · have hjust := justStarted_runAnswered hpipe hroom hflush
      refine ⟨fun hpassed hbelow => ⟨_, htaken, ended_of_stoppedAtStart (hjust.ends_time ?_ ?_)⟩,
        fun hpassed hmax => ⟨_, htaken, ended_of_stoppedAtStart (hjust.ends_time_limit ?_ ?_)⟩,
        fun hpassed hmax => ⟨_, htaken, ended_of_stoppedAtStart (hjust.ends_limit ?_ ?_ fun hmode => ?_)⟩⟩ <;>
        rw [runAnswered_part_self]
      · exact hpassed
      · exact hbelow.trans_eq (Partition.started_runLimit_of_until hpassed.1).symm
      · exact hpassed
      · exact hmax.trans (Partition.started_runLimit_of_max hmax).symm
      · exact hpassed
      · exact hmax.trans (Partition.started_runLimit_of_max hmax).symm
      · rw [runAnswered_part_self] at hmode
        have hpos : 0 < (s.part k).runArgument := hcount hmode
        exact decide_eq_true ⟨hmode, by omega⟩

end Sys2Proof.Machine
end

section
/-! SUPPORT. GROUP_RUN and the free selection (R33, R34, R79, R80): the members started in one event, and the partition an
idle engine begins to serve; then the statement about them. -/

namespace Sys2Proof.Machine

/-! ## Several partitions changed -/

/-- A change of every partition depends on what it makes of the partitions there are. -/
theorem State.mapParts_congr {s : State} {f g : Slot → Partition → Partition}
    (h : ∀ j, f j (s.part j) = g j (s.part j)) : s.mapParts f = s.mapParts g :=
  congrArg (fun parts => { s with parts := Vector.ofFn parts }) (funext h)

theorem State.mapParts_mapParts (s : State) (f g : Slot → Partition → Partition) :
    (s.mapParts f).mapParts g = s.mapParts fun j p => g j (f j p) := by
  simp only [State.mapParts, State.part, Fin.getElem_fin, Vector.getElem_ofFn]

/-- Changing nothing leaves the state. -/
theorem State.mapParts_id (s : State) : (s.mapParts fun _ p => p) = s :=
  congrArg (fun parts => { s with parts := parts }) (Vector.ext fun i hi => by simp [State.part])

theorem State.setPart_eq_mapParts (s : State) (k : Slot) (p : Partition) :
    s.setPart k p = s.mapParts fun j q => if j = k then p else q := by
  refine congrArg (fun parts => { s with parts := parts }) (Vector.ext fun i hi => ?_)
  simp [State.part, Vector.getElem_set, Fin.ext_iff, eq_comm]

/-- One partition after another changed, each once, is all of them changed together. -/
theorem forSlots_setPart (f : Partition → Partition) {ks : List Slot} (hks : ks.Nodup) (s : State) :
    forSlots (fun k s => s.setPart k (f (s.part k))) ks s = s.mapParts fun j p => if j ∈ ks then f p else p := by
  induction ks generalizing s with
  | nil => simpa [forSlots] using s.mapParts_id.symm
  | cons k ks ih =>
    obtain ⟨hk, hks⟩ := List.nodup_cons.1 hks
    rw [forSlots, ih hks, State.setPart_eq_mapParts, State.mapParts_mapParts]
    refine State.mapParts_congr fun j => ?_
    by_cases hj : j = k
    · simp [hj, hk]
    · simp [hj]

/-! ## The members of a group -/

section
variable {k : Slot} {s : State} {g : Group}

theorem State.mem_members (hg : (s.part k).group = some g) (j : Slot) :
    j ∈ s.members k ↔ (s.part j).group = some g := by
  have hall : j ∈ allSlots := by revert j; decide
  simp [State.members, hg, hall]

theorem State.members_nodup (s : State) (k : Slot) : (s.members k).Nodup := by
  unfold State.members
  split
  · exact List.nodup_nil
  · exact List.Nodup.filter _ (by decide)

/-- The mask of the members that satisfy a test, by the group they are in. -/
theorem memberBits_eq (hg : (s.part k).group = some g) (f : Slot → Bool) :
    memberBits k f s = memberMask fun j => decide ((s.part j).group = some g) && f j := by
  refine congrArg memberMask (funext fun j => congrArg (· && f j) ?_)
  rw [Bool.eq_iff_iff, List.contains_iff_mem, State.mem_members hg, decide_eq_true_iff]

/-- A member passes the checks of GROUP_RUN (R79). -/
theorem memberReady_iff (j : Slot) (s : State) : memberReady j s = decide ((s.part j).state = .stopped
    ∧ (s.part j).sticky.linkFault = false ∧ (s.part j).sticky.sequence = false ∧ s.ownedBoards j ≠ []
    ∧ (s.part j).queue.records.length < 32 ∧ (s.part j).syncPending = false) := by
  rw [Bool.eq_iff_iff, decide_eq_true_iff]
  simp only [memberReady, Bool.and_eq_true, beq_iff_eq, Option.isNone_iff_eq_none, runRefusal_eq_none,
    Bool.not_eq_true', and_assoc]
  rfl

/-- The machine with a run started in every member of a group (R80). -/
def groupStarted (g : Group) (s : State) : State :=
  s.mapParts fun j p => if (s.part j).group = some g then p.started else p

/-- Starting the members one after another starts them together (R80). -/
theorem forSlots_startRun (hg : (s.part k).group = some g) :
    forSlots startRun (s.members k) s = groupStarted g s := by
  have hstart : startRun = fun k s => s.setPart k (s.part k).started := funext₂ startRun_eq
  rw [hstart, forSlots_setPart _ (s.members_nodup k)]
  exact State.mapParts_congr fun j => if_congr (State.mem_members hg j) rfl rfl

/-- Starting a run leaves the groups as they are. -/
theorem groupStarted_group (g : Group) (s : State) (j : Slot) : ((groupStarted g s).part j).group = (s.part j).group := by
  rw [groupStarted, State.mapParts_part]
  split <;> rfl

/-- The response to a GROUP_RUN that every member passes: the members, and the start of the requester's own run (R80;
assumption 11). -/
def groupRunAnswered (k : Slot) (g : Group) (s : State) : State :=
  respond k .ok ((groupStarted g s).part k).limitClamped
    (memberMask (fun j => decide ((s.part j).group = some g)) :: ((groupStarted g s).part k).startBytes)
    (groupStarted g s)

theorem takeGroupRun_eq (hg : (s.part k).group = some g) :
    takeGroupRun k s = engineSelectFree (forSlots endAtStart (s.members k) (groupRunAnswered k g s)) := by
  have hmask : memberBits k (fun _ => true) (groupStarted g s)
      = memberMask fun j => decide ((s.part j).group = some g) := by
    rw [memberBits_eq ((groupStarted_group g s k).trans hg)]
    simp only [groupStarted_group, Bool.and_true]
  simp only [takeGroupRun, forSlots_startRun hg, hmask, groupRunAnswered]

/-! ## GROUP_RUN -/

/-- GROUP_RUN in no group (R79). -/
theorem exec_groupRun_mismatch (h : Waits s k .groupRun) (hopen : (s.part k).state ≠ .closed)
    (hg : (s.part k).group = none) : exec (.groupRun k) s = .next (refuse k .groupMismatch s) := by
  refine (take_waits h).trans ?_
  rw [whenOpen_open hopen, hg]
  rfl

/-- GROUP_RUN with every member ready starts them all (R80). -/
theorem exec_groupRun_ready (h : Waits s k .groupRun) (hopen : (s.part k).state ≠ .closed)
    (hg : (s.part k).group = some g) (hall : ∀ j, (s.part j).group = some g → memberReady j s = true) :
    exec (.groupRun k) s
      = .next (engineSelectFree (forSlots endAtStart (s.members k) (groupRunAnswered k g s))) := by
  have hready : (s.members k).all (fun j => memberReady j s) = true :=
    List.all_eq_true.2 fun j hj => hall j ((State.mem_members hg j).1 hj)
  refine (take_waits h).trans ?_
  rw [whenOpen_open hopen, hg, ← takeGroupRun_eq hg]
  exact congrArg Host.Outcome.next (if_pos hready)

/-- GROUP_RUN with a member that is not ready starts none (R79). -/
theorem exec_groupRun_notReady {j : Slot} (h : Waits s k .groupRun) (hopen : (s.part k).state ≠ .closed)
    (hg : (s.part k).group = some g) (hj : (s.part j).group = some g) (hnot : memberReady j s = false) :
    exec (.groupRun k) s = .next (respond k .groupNotReady false
      [memberMask fun j => decide ((s.part j).group = some g) && !memberReady j s] s) := by
  have hready : ¬ (s.members k).all (fun j => memberReady j s) = true := fun hall => by
    simp [List.all_eq_true.1 hall j ((State.mem_members hg j).2 hj)] at hnot
  refine (take_waits h).trans ?_
  rw [whenOpen_open hopen, hg, ← memberBits_eq hg]
  exact congrArg Host.Outcome.next (if_neg hready)

end

/-! ## The free selection -/

theorem mem_roundRobin (last k : Slot) : k ∈ roundRobin last := by revert last k; decide

theorem roundRobin_nodup (last : Slot) : (roundRobin last).Nodup := by revert last; decide

/-- The divided clocks of a partition with their parents are those of its pool records (R3). -/
theorem State.mem_parentsOf (s : State) (k : Slot) (n parent : LocalNo) :
    (n, parent) ∈ s.parentsOf k ↔ ∃ i, s.record i = some ⟨k, n, .divided parent⟩ := by
  simp only [State.parentsOf, allRecords, List.mem_filterMap, List.mem_finRange, true_and]
  refine exists_congr fun i => ?_
  rcases s.record i with _ | ⟨owner, m, _ | q⟩
  · simp
  · simp
  · by_cases hk : owner = k <;> simp [hk]

/-- Without an idle engine or a request nothing is selected (R33). -/
theorem engineSelectFree_none {s : State} (h : s.engine.item ≠ none ∨ ∀ k, (s.part k).requests = false) :
    engineSelectFree s = s := by
  unfold engineSelectFree
  split
  · rfl
  · rename_i hidle
    have hnone : (roundRobin s.engine.lastServed).filter (fun k => (s.part k).requests) = [] :=
      List.filter_eq_nil_iff.2 fun k _ => by simp [(h.resolve_left fun hbusy => hbusy hidle) k]
    rw [hnone]

/-- An idle engine begins the work item of a partition that requests service; it uses up a free value only when there are
several (R33, R34; assumption 7). -/
theorem engineSelectFree_some {s : State} (hidle : s.engine.item = none) (h : ∃ k, (s.part k).requests = true) :
    ∃ j count, (s.part j).requests = true ∧ ((∀ k, (s.part k).requests = true → k = j) → count = s.freeCount)
      ∧ engineSelectFree s = beginWork j { s with freeCount := count } := by
  obtain ⟨k, hk⟩ := h
  have hmem : ∀ j, j ∈ (roundRobin s.engine.lastServed).filter (fun k => (s.part k).requests)
      ↔ (s.part j).requests = true := fun j => by simp [mem_roundRobin]
  have hnodup := (roundRobin_nodup s.engine.lastServed).filter (fun k => (s.part k).requests)
  unfold engineSelectFree
  rw [hidle]
  dsimp only
  generalize (roundRobin s.engine.lastServed).filter (fun k => (s.part k).requests) = requesters at hmem hnodup ⊢
  match requesters, hmem, hnodup with
  | [], hmem, _ => exact absurd ((hmem k).2 hk) List.not_mem_nil
  | [j], hmem, _ => exact ⟨j, s.freeCount, (hmem j).1 List.mem_cons_self, fun _ => rfl, rfl⟩
  | j :: j' :: js, hmem, hnodup =>
    refine ⟨_, s.freeCount + 1, (hmem _).1 ?_, fun honly => ?_, rfl⟩
    · rw [List.getD_eq_getElem _ _ (Nat.mod_lt _ (by simp))]
      exact List.getElem_mem _
    · have heq : j = j' := (honly j ((hmem j).1 (by simp))).trans (honly j' ((hmem j').1 (by simp))).symm
      simp [heq] at hnodup

/-- Settles O38: the free selection by its cases, and GROUP_RUN by whether every member is ready. -/
theorem groupRunStartsEveryMember : Obligations.GroupRunStartsEveryMember := by
  refine ⟨fun s => engineSelectFree_none, fun s hidle h => ?_, fun s k h hopen =>
    ⟨exec_groupRun_mismatch h hopen, fun g hg => ⟨fun j hj hnot => ?_, fun hall => ?_⟩⟩⟩
  · obtain ⟨j, count, hj, hcount, heq⟩ := engineSelectFree_some hidle h
    exact ⟨j, count, s.parentsOf j, hj, hcount, s.mem_parentsOf j, heq⟩
  · simp only [← memberReady_iff] at hnot ⊢
    exact exec_groupRun_notReady h hopen hg (of_decide_eq_true hj) hnot
  · simp only [← memberReady_iff] at hall
    exact exec_groupRun_ready h hopen hg fun j hj => hall j (decide_eq_true hj)

end Sys2Proof.Machine
end

section
/-! SUPPORT. The end of a computation (R45 to R48, R108), and the FLUSH_ACK and SYNC_ACK of a board (R122, R127, R139,
R140); then the statements about them. -/

namespace Sys2Proof.Machine

/-! ## The end of a computation -/

section
variable {s : State} {w : WorkItem}

/-- The machine with the engine's slot emptied (R47). -/
def engineEmptied (s : State) : State := { s with engine := { s.engine with item := none } }

@[simp] theorem engineEmptied_part (s : State) (k : Slot) : (engineEmptied s).part k = s.part k := rfl
@[simp] theorem engineEmptied_board (s : State) (b : Board) : (engineEmptied s).board b = s.board b := rfl

/-- The end of a computation judges its work item and selects again (R47, R48). -/
theorem exec_computationEnd (hr : s.resetHeld = false) (hw : s.engine.item = some w) :
    exec .computationEnd s = .next (engineSelect (judgeResult w (engineEmptied s))) := by
  refine (act_running hr).trans ?_
  rw [endComputation, hw]
  rfl

/-- A void result, or one for a partition outside its run states, is discarded (R48). -/
theorem judgeResult_discarded (h : ¬ (w.void = false ∧ (s.part w.slot).state.isRun = true)) : judgeResult w s = s :=
  if_neg h

/-- A computed step is appended when it is within the stop point, and discarded otherwise (R47). -/
theorem judgeResult_step {t : Nat} {changed level : ClockMask} {post : Snapshot}
    (h : w.void = false ∧ (s.part w.slot).state.isRun = true) (hc : w.compute = .step t changed level post) :
    judgeResult w s = if (s.part w.slot).withinStop (w.frontier + 1) then
      advance w.slot (runLimitFinding w.slot (appendStep w.slot (w.frontier + 1) t changed level post s)) else s := by
  refine (if_pos h).trans ?_
  rw [hc]

/-- A finding is offered at the frontier (R48). -/
theorem judgeResult_finding {r : StopReason} (h : w.void = false ∧ (s.part w.slot).state.isRun = true)
    (hc : w.compute = .noEdges ∧ r = .noEdges ∨ w.compute = .time ∧ r = .time ∨ w.compute = .limit ∧ r = .limit) :
    judgeResult w s = advance w.slot (offerFinding w.slot w.frontier r s) := by
  refine (if_pos h).trans ?_
  rcases hc with ⟨hc, rfl⟩ | ⟨hc, rfl⟩ | ⟨hc, rfl⟩ <;> rw [hc]

/-- A step is within the stop point when there is none or it is not above it (R84). -/
theorem Partition.withinStop_iff (p : Partition) (n : Nat) : p.withinStop n = true ↔
    ∀ point, p.stop = some point → n ≤ point.step := by
  unfold Partition.withinStop Partition.stopStep
  cases p.stop <;> simp

/-- A step appended to a pipe, with its ARM at the end of the transmit order of every owned board (R108). -/
theorem appendStep_eq (k : Slot) (n t : Nat) (changed level : ClockMask) (post : Snapshot) (s : State) :
    appendStep k n t changed level post s
      = (s.setPart k { s.part k with
          pipe := (s.part k).pipe ++ [⟨n, t, changed, level, post, .arming, 0, 0⟩] }).mapLinks
        fun b l => if (s.board b).owner = some k then { l with order := l.order ++ [.arm n changed level] } else l := by
  simp only [appendStep, State.updPart_eq, State.owns_iff]

end

/-- Settles O16: the run-limit finding by its conditions, and the result by what the computation ended with. -/
theorem computationEndJudged : Obligations.ComputationEndJudged := by
  refine ⟨fun s k => ⟨fun hnot => ?_, fun ⟨hrun, hfound, hlimit⟩ => ?_⟩, fun s w hr hw =>
    ⟨fun hnot => ?_, fun t changed level post htaken hc hwithin => ?_,
      fun t changed level post point htaken hc hstop habove => ?_, fun r htaken hc => ?_⟩⟩
  · exact runLimitFinding_not_reached fun ⟨hrun, hrest⟩ => hnot ⟨(PartState.isRun_iff _).1 hrun, hrest⟩
  · exact runLimitFinding_reached ((PartState.isRun_iff _).2 hrun) hfound hlimit
  · rw [exec_computationEnd hr hw, judgeResult_discarded (s := engineEmptied s) hnot]
    rfl
  · have hbelow : (s.part w.slot).withinStop (w.frontier + 1) = true :=
      (Partition.withinStop_iff _ _).2 fun point hstop => by
        rw [hstop] at hwithin
        exact hwithin
    rw [exec_computationEnd hr hw, judgeResult_step (s := engineEmptied s) htaken hc, engineEmptied_part, if_pos hbelow,
      appendStep_eq]
    rfl
  · have hbeyond : ¬ (s.part w.slot).withinStop (w.frontier + 1) = true := fun hwithin =>
      Nat.not_le.2 habove ((Partition.withinStop_iff _ _).1 hwithin point hstop)
    rw [exec_computationEnd hr hw, judgeResult_step (s := engineEmptied s) htaken hc, engineEmptied_part, if_neg hbeyond]
    rfl
  · rw [exec_computationEnd hr hw, judgeResult_finding (s := engineEmptied s) htaken hc]
    rfl

/-! ## Frames received -/

section
variable {s : State} {b : Board}

@[simp] theorem lineAtRest_board (b c : Board) (s : State) : (lineAtRest b s).board c = s.board c := by simp [lineAtRest]
@[simp] theorem lineAtRest_part (b : Board) (k : Slot) (s : State) : (lineAtRest b s).part k = s.part k := by
  simp [lineAtRest]
@[simp] theorem lineAtRest_link (b : Board) (s : State) :
    (lineAtRest b s).link b = { s.link b with rx := .hunt, upHigh := true } := by simp [lineAtRest]

/-- The response timeout of a board depends on its owner and the settings alone (R143). -/
@[simp] theorem lineAtRest_responseNs (b c : Board) (s : State) : (lineAtRest b s).responseNs c = s.responseNs c := by
  simp [lineAtRest, State.responseNs]

/-- A frame received with none open is judged with the line at rest (R131, R133). -/
theorem received_hunt (f : UpFrame) (hr : s.resetHeld = false) (hrx : (s.link b).rx = .hunt) :
    received b f s = .next (settle (judgeFrame b f (lineAtRest b s))) := by
  refine (act_running hr).trans ?_
  rw [receiveFrame, hrx]
  rfl

/-- A frame from a BOUND board whose link is not muted is judged as R138 to R146 say (R133). -/
theorem received_bound {k : Slot} (f : UpFrame) (h : Linked s k b) :
    received b f s = .next (settle (judgeBound b f (lineAtRest b s))) := by
  obtain ⟨hr, -, hbound, hmuted, hrx⟩ := h
  rw [received_hunt f hr hrx]
  simp [judgeFrame, hmuted, hbound]

/-- A FLUSH_ACK answers the FLUSH pending when its tag is the keep-through step's (R122). -/
theorem Link.flushAnswered_iff (l : Link) (tag : Tag) : l.flushAnswered tag = true ↔
    l.flushPending = true ∧ ∃ lo hi, l.discarded = some (lo, hi) ∧ tag = BitVec.ofNat 16 (lo - 1) := by
  unfold Link.flushAnswered
  rw [Bool.and_eq_true]
  rcases l.discarded with _ | ⟨lo, hi⟩
  · simp
  · simp [tagOf]

end

/-- Settles O58: each acknowledgement by its tag. -/
theorem flushAndSyncAcknowledged : Obligations.FlushAndSyncAcknowledged := by
  refine ⟨fun s => rfl, fun s k b tag h => ⟨fun lo hi hpending hrange htag => ?_, fun hnot => ?_, ?_⟩,
    fun s b tag a hr hsyncing hmuted hrx hnext => ?_⟩
  · have hanswered := (Link.flushAnswered_iff ((lineAtRest b s).link b) tag).2 ⟨hpending, lo, hi, hrange, htag⟩
    refine (received_bound _ h).trans (congrArg (fun t => Host.Outcome.next (settle t)) ?_)
    rw [judgeBound, judgeFlushAck, if_pos hanswered]
    obtain ⟨-, howner, -⟩ := h
    simp [advanceOwner, howner]
  · have hanswered : ¬ ((lineAtRest b s).link b).flushAnswered tag = true := fun hyes => by
      obtain ⟨hpending, lo, hi, hrange, htag⟩ := (Link.flushAnswered_iff _ _).1 hyes
      rcases hnot with hnone | ⟨lo', hi', hrange', htag'⟩
      · exact Bool.false_ne_true (hnone.symm.trans hpending)
      · rw [hrange] at hrange'
        obtain ⟨rfl, rfl⟩ := Prod.mk.inj (Option.some.inj hrange')
        exact htag' htag
    refine (received_bound _ h).trans (congrArg (fun t => Host.Outcome.next (settle t)) ?_)
    rw [judgeBound, judgeFlushAck, if_neg hanswered, outOfSequence]
  · exact received_bound _ h
  · have hjudged : exec (.syncAck b tag) s = .next (settle (judgeSyncAck b tag (lineAtRest b s))) := by
      refine (received_hunt _ hr hrx).trans ?_
      simp [judgeFrame, hmuted, hsyncing]
    have hnext' : ((lineAtRest b s).link b).nextAck.map tagOf = some (BitVec.ofNat 16 a) := by simp [hnext, tagOf]
    rw [hjudged, judgeSyncAck, hnext']
    refine ⟨fun htag => ?_, fun htag => ?_⟩
    · rw [if_pos (congrArg some htag.symm)]
      simp
    · rw [if_neg fun e => htag (Option.some.inj e).symm]

end Sys2Proof.Machine
end

section
/-! SUPPORT. Board masks bit by bit (R211), several boards changed in one event, and the effective window (R55); then
the statement about Weff and Heff. -/

namespace Sys2Proof.Machine

/-! ## Board masks -/

theorem mask_ext {m n : BoardMask} (h : ∀ b, maskHas m b = maskHas n b) : m = n :=
  BitVec.eq_of_getLsbD_eq fun i hi => h ⟨i, hi⟩

@[simp] theorem maskHas_zero (b : Board) : maskHas 0#24 b = false := BitVec.getLsbD_zero
@[simp] theorem maskHas_and (m n : BoardMask) (b : Board) : maskHas (m &&& n) b = (maskHas m b && maskHas n b) :=
  BitVec.getLsbD_and
@[simp] theorem maskHas_or (m n : BoardMask) (b : Board) : maskHas (m ||| n) b = (maskHas m b || maskHas n b) :=
  BitVec.getLsbD_or
@[simp] theorem maskHas_not (m : BoardMask) (b : Board) : maskHas (~~~m) b = !maskHas m b := by simp [maskHas]
@[simp] theorem maskHas_maskAdd (m : BoardMask) (b c : Board) :
    maskHas (maskAdd m b) c = (maskHas m c || decide (b = c)) := by
  simp [maskHas, maskAdd, maskOne, Fin.ext_iff, eq_comm]

theorem maskHas_maskFrom (f : Board → Bool) (b : Board) (bs : List Board) :
    maskHas (maskFrom f bs) b = (decide (b ∈ bs) && f b) := by
  induction bs with
  | nil => exact maskHas_zero b
  | cons c cs ih =>
    rw [maskFrom]
    by_cases hb : b = c
    · subst hb
      split_ifs with hf <;> simp [ih, hf]
    · split_ifs <;> simp [ih, hb, Ne.symm hb]

@[simp] theorem maskHas_maskWhere (f : Board → Bool) (b : Board) : maskHas (maskWhere f) b = f b := by
  simp [maskWhere, maskHas_maskFrom, allBoards]

@[simp] theorem mem_maskBoards (m : BoardMask) (b : Board) : b ∈ maskBoards m ↔ maskHas m b = true := by
  simp [maskBoards, allBoards]

theorem maskBoards_nodup (m : BoardMask) : (maskBoards m).Nodup := (List.nodup_finRange 24).filter _

/-- A mask is empty when it holds no board. -/
theorem mask_eq_zero_iff (m : BoardMask) : m = 0 ↔ ∀ b, maskHas m b = false :=
  ⟨fun h b => h ▸ maskHas_zero b, fun h => mask_ext fun b => (h b).trans (maskHas_zero b).symm⟩

/-- A set with a board that satisfies a test is not empty. -/
theorem ne_zero_of_maskWhere {set : BoardMask} {f : Board → Bool} (hsub : ∀ b, f b = true → maskHas set b = true)
    (h : maskWhere f ≠ 0) : set ≠ 0 := fun hset => h <| (mask_eq_zero_iff _).2 fun b => by
  have hnot := (mask_eq_zero_iff set).1 hset b
  rw [maskHas_maskWhere, Bool.eq_false_iff]
  exact fun hf => Bool.false_ne_true (hnot.symm.trans (hsub b hf))

@[simp] theorem maskHas_ownedMask (s : State) (k : Slot) (b : Board) :
    maskHas (s.ownedMask k) b = decide ((s.board b).owner = some k) := maskHas_maskWhere (s.owns k) b

/-- The owned boards depend on the owners alone (R52, R62). -/
theorem State.owns_congr {s t : State} (h : ∀ b, (t.board b).owner = (s.board b).owner) (k : Slot) :
    t.owns k = s.owns k := by
  funext b
  rw [State.owns, State.owns, h b]

@[simp] theorem State.setPart_ownedBoards (s : State) (j k : Slot) (p : Partition) :
    (s.setPart j p).ownedBoards k = s.ownedBoards k := by
  have howns : (s.setPart j p).owns k = s.owns k := State.owns_congr (fun b => by rw [State.setPart_board]) k
  rw [State.ownedBoards, State.ownedBoards, howns]

theorem State.ownedBoards_nodup (s : State) (k : Slot) : (s.ownedBoards k).Nodup := (List.nodup_finRange 24).filter _

/-! ## Boards changed in one event -/

/-- The records and the links of the boards that satisfy a test changed, all in one event. -/
def State.changeBoards (s : State) (test : Board → Bool) (f : BoardRecord → BoardRecord) (g : Link → Link) : State :=
  { s with
    boards := Vector.ofFn fun b => if test b then f (s.board b) else s.board b
    links := Vector.ofFn fun b => if test b then g (s.link b) else s.link b }

section
variable (s : State) (test : Board → Bool) (f : BoardRecord → BoardRecord) (g : Link → Link)

@[simp] theorem State.changeBoards_parts : (s.changeBoards test f g).parts = s.parts := by
  dsimp only [State.changeBoards]
@[simp] theorem State.changeBoards_ports : (s.changeBoards test f g).ports = s.ports := by
  dsimp only [State.changeBoards]
@[simp] theorem State.changeBoards_pool : (s.changeBoards test f g).pool = s.pool := by
  dsimp only [State.changeBoards]
@[simp] theorem State.changeBoards_engine : (s.changeBoards test f g).engine = s.engine := by
  dsimp only [State.changeBoards]
@[simp] theorem State.changeBoards_loader : (s.changeBoards test f g).loader = s.loader := by
  dsimp only [State.changeBoards]
@[simp] theorem State.changeBoards_store : (s.changeBoards test f g).store = s.store := by
  dsimp only [State.changeBoards]
@[simp] theorem State.changeBoards_part (k : Slot) : (s.changeBoards test f g).part k = s.part k := by
  dsimp only [State.changeBoards, State.part]
@[simp] theorem State.changeBoards_port (k : Slot) : (s.changeBoards test f g).port k = s.port k := by
  dsimp only [State.changeBoards, State.port]
@[simp] theorem State.changeBoards_record (i : Fin 48) : (s.changeBoards test f g).record i = s.record i := by
  dsimp only [State.changeBoards, State.record]
@[simp] theorem State.changeBoards_board (b : Board) :
    (s.changeBoards test f g).board b = if test b then f (s.board b) else s.board b := by
  simp [State.changeBoards, State.board]
@[simp] theorem State.changeBoards_link (b : Board) :
    (s.changeBoards test f g).link b = if test b then g (s.link b) else s.link b := by
  simp [State.changeBoards, State.link]

end

/-- Changing no board leaves the state. -/
theorem State.changeBoards_none (s : State) (f : BoardRecord → BoardRecord) (g : Link → Link) :
    s.changeBoards (fun _ => false) f g = s := by
  refine congrArg₂ (fun boards links => { s with boards := boards, links := links })
    (Vector.ext fun i hi => ?_) (Vector.ext fun i hi => ?_)
  · simp [State.board]
  · simp [State.link]

/-- One board changed, and then others, is all of them changed. -/
theorem State.changeBoards_setBoard_setLink (s : State) {b : Board} {test : Board → Bool} (hb : test b = false)
    (f : BoardRecord → BoardRecord) (g : Link → Link) :
    ((s.setBoard b (f (s.board b))).setLink b (g (s.link b))).changeBoards test f g
      = s.changeBoards (fun c => decide (c = b) || test c) f g := by
  refine congrArg₂ (fun boards links => { s with boards := boards, links := links })
    (congrArg Vector.ofFn (funext fun c => ?_)) (congrArg Vector.ofFn (funext fun c => ?_))
  · by_cases hc : c = b
    · simp [hc, hb]
    · simp [hc, State.setBoard_board_ne]
  · by_cases hc : c = b
    · simp [hc, hb]
    · simp [hc, State.setLink_link_ne]

/-- Boards changed one after another, each once, are all changed together. -/
theorem forBoards_change (f : BoardRecord → BoardRecord) (g : Link → Link) {bs : List Board} (hbs : bs.Nodup)
    (s : State) : forBoards (fun b s => (s.updBoard b f).updLink b g) bs s
      = s.changeBoards (fun b => decide (b ∈ bs)) f g := by
  induction bs generalizing s with
  | nil => simpa [forBoards] using (s.changeBoards_none f g).symm
  | cons b bs ih =>
    obtain ⟨hb, hbs⟩ := List.nodup_cons.1 hbs
    rw [forBoards, ih hbs, State.updBoard_eq, State.updLink_eq, State.setBoard_link,
      State.changeBoards_setBoard_setLink s (by simpa using hb)]
    simp only [List.mem_cons, Bool.decide_or]

/-- Records changed, and then records and links of the same boards, is all of them changed. -/
theorem State.mapBoards_changeBoards (s : State) (test : Board → Bool) (f f' : BoardRecord → BoardRecord)
    (g : Link → Link) :
    (s.mapBoards fun b r => if test b then f r else r).changeBoards test f' g
      = s.changeBoards test (fun r => f' (f r)) g := by
  have hboard : ∀ b, (if test b then f' (if test b then f (s.board b) else s.board b)
        else if test b then f (s.board b) else s.board b)
      = if test b then f' (f (s.board b)) else s.board b := fun b => by split <;> rfl
  simp only [State.changeBoards, State.mapBoards_board, State.mapBoards_link, hboard]
  simp only [State.mapBoards]

/-- Boards broken one after another (R136). -/
theorem forBoards_breakBoard {bs : List Board} (hbs : bs.Nodup) (s : State) :
    forBoards breakBoard bs s = s.changeBoards (fun b => decide (b ∈ bs))
      (fun r => { r with link := .probing, cause := none }) Link.beginBreak :=
  forBoards_change _ _ hbs s

/-- Boards sent a SYNC one after another (R66, R127). -/
theorem forBoards_syncBoard {bs : List Board} (hbs : bs.Nodup) (next : Nat) (level : ClockMask) (s : State) :
    forBoards (fun b => syncBoard b next level) bs s = s.changeBoards (fun b => decide (b ∈ bs))
      (fun r => { r with link := .syncing }) (Link.queueSync next level) :=
  forBoards_change _ _ hbs s

/-- The record of a board made unowned (R60, R68). -/
def BoardRecord.released (r : BoardRecord) : BoardRecord :=
  { r with owner := none, link := if r.link = .bound then .idle else r.link }

/-- The link of a board made unowned (R135, R149, R150). -/
def Link.released (l : Link) : Link := { l with muted := false, strobe := false, order := [] }

theorem releaseSet_eq (set : BoardMask) (s : State) :
    releaseSet set s = s.changeBoards (maskHas set) BoardRecord.released Link.released := by
  simp only [releaseSet, State.mapBoards, State.mapLinks, State.changeBoards, BoardRecord.released, Link.released,
    State.link]

/-! ## The effective window -/

theorem weffOf_le_window (window : Nat) (depths : List Nat) : weffOf window depths ≤ window := by
  induction depths generalizing window with
  | nil => exact Nat.le_refl _
  | cons d ds ih => exact (ih (min window d)).trans (Nat.min_le_left _ _)

theorem weffOf_le_of_mem {window d : Nat} {depths : List Nat} (h : d ∈ depths) : weffOf window depths ≤ d := by
  induction depths generalizing window with
  | nil => exact absurd h List.not_mem_nil
  | cons d' ds ih =>
    rcases List.mem_cons.1 h with rfl | h
    · exact (weffOf_le_window _ ds).trans (Nat.min_le_right _ _)
    · exact ih h

theorem weffOf_attained (window : Nat) (depths : List Nat) :
    weffOf window depths = window ∨ weffOf window depths ∈ depths := by
  induction depths generalizing window with
  | nil => exact .inl rfl
  | cons d ds ih =>
    have hcons : weffOf window (d :: ds) = weffOf (min window d) ds := rfl
    rw [hcons]
    rcases ih (min window d) with h | h
    · rw [h]
      rcases Nat.le_total window d with hle | hle
      · exact .inl (Nat.min_eq_left hle)
      · exact .inr (by simp [Nat.min_eq_right hle])
    · exact .inr (List.mem_cons_of_mem d h)

/-- Weff of partition `k`, as R55 gives it. -/
def State.weffFor (s : State) (k : Slot) : Nat :=
  weffOf (s.part k).settings.window ((s.ownedBoards k).map fun b => (s.board b).depth)

theorem recompute_eq (k : Slot) (s : State) : recompute k s = s.setPart k
    { s.part k with weff := s.weffFor k, heff := max (s.part k).settings.horizon (s.weffFor k) } := rfl

section
variable {s : State} {k : Slot}

theorem State.weffFor_le_window : s.weffFor k ≤ (s.part k).settings.window := weffOf_le_window _ _

theorem State.weffFor_le_depth {b : Board} (h : (s.board b).owner = some k) : s.weffFor k ≤ (s.board b).depth :=
  weffOf_le_of_mem (List.mem_map_of_mem ((s.mem_ownedBoards k b).2 h))

theorem State.weffFor_attained : s.weffFor k = (s.part k).settings.window
    ∨ ∃ b, (s.board b).owner = some k ∧ s.weffFor k = (s.board b).depth := by
  refine (weffOf_attained _ _).imp_right fun h => ?_
  obtain ⟨b, hb, hdepth⟩ := List.mem_map.1 h
  exact ⟨b, (s.mem_ownedBoards k b).1 hb, hdepth.symm⟩

/-- With no board owned Weff is the window setting. -/
theorem State.weffFor_of_not_owned (h : ∀ b, (s.board b).owner ≠ some k) :
    s.weffFor k = (s.part k).settings.window :=
  State.weffFor_attained.resolve_right fun ⟨b, hb, _⟩ => h b hb

end

/-- Settles O27: the least of a list is below its members and is one of them. -/
theorem effectiveWindowIsLeast : Obligations.EffectiveWindowIsLeast := by
  intro s k
  rw [recompute_eq, State.setPart_part_self]
  exact ⟨State.weffFor_le_window, fun b => State.weffFor_le_depth, State.weffFor_attained, rfl, rfl⟩

end Sys2Proof.Machine
end

section
/-! SUPPORT. The requests about a partition and its group (R54, R55, R60, R72, R73), and the statements about them. -/

namespace Sys2Proof.Machine

/-! ## Occasions and responses -/

/-- A run state is none of the other three (R74). -/
theorem PartState.ne_of_isRun {st : PartState} (h : st.isRun = true) :
    st ≠ .closed ∧ ¬ (st = .stopped ∨ st = .faulted) := by
  cases st <;> simp_all [PartState.isRun]

/-- Putting back the partition that is there changes nothing. -/
@[simp] theorem State.setPart_part (s : State) (k : Slot) : s.setPart k (s.part k) = s := by
  simp [State.setPart, State.part]

/-- An operation that STOPPED and FAULTED take, in one of them (R60, R68). -/
theorem whenOpen_stoppedOrFaulted {k : Slot} {f g : State → State} {s : State}
    (hst : (s.part k).state = .stopped ∨ (s.part k).state = .faulted) :
    whenOpen k (fun s => if (s.part k).state = .stopped ∨ (s.part k).state = .faulted then f s else g s) s = f s := by
  have hopen : (s.part k).state ≠ .closed := fun hclosed => by simp [hclosed] at hst
  rw [whenOpen_open hopen, if_pos hst]

/-- An operation that STOPPED and FAULTED take, in a run state. -/
theorem whenOpen_isRun {k : Slot} {f g : State → State} {s : State} (hrun : (s.part k).state.isRun = true) :
    whenOpen k (fun s => if (s.part k).state = .stopped ∨ (s.part k).state = .faulted then f s else g s) s = g s := by
  obtain ⟨hopen, hnot⟩ := PartState.ne_of_isRun hrun
  rw [whenOpen_open hopen, if_neg hnot]

/-- An operation that needs STOPPED, in another state of an open slot. -/
theorem whenStopped_wrongState {k : Slot} {f : State → State} {s : State} (hopen : (s.part k).state ≠ .closed)
    (h : (s.part k).state ≠ .stopped) : whenStopped k f s = refuse k .wrongState s := by
  rw [whenStopped, whenOpen_open hopen, if_neg h]

/-- An operation that needs STOPPED, in a CLOSED slot. -/
theorem whenStopped_closed {k : Slot} {f : State → State} {s : State} (h : (s.part k).state = .closed) :
    whenStopped k f s = refuse k .notOpen s := whenOpen_closed h

/-- The response in a port depends on that port alone. -/
theorem respond_port_congr {k : Slot} {s t : State} (h : t.port k = s.port k) (st : Status) (c : Bool)
    (body : List Byte) : (respond k st c body t).port k = (respond k st c body s).port k := by
  rw [respond_port, respond_port, h]

@[simp] theorem respond_boards (k : Slot) (st : Status) (c : Bool) (b : List Byte) (s : State) :
    (respond k st c b s).boards = s.boards := by simp [respond]
@[simp] theorem respond_pool (k : Slot) (st : Status) (c : Bool) (b : List Byte) (s : State) :
    (respond k st c b s).pool = s.pool := by simp [respond]

/-! ## CLOSE -/

section
variable (k : Slot) (s : State)

/-- The partition after CLOSE: with no board left Weff is the window setting (R55, R60; assumption 28). -/
theorem closePartition_part_self : (closePartition k s).part k =
    { (s.part k).leaveGroup with
      state := .closed, weff := (s.part k).settings.window,
      heff := max (s.part k).settings.horizon (s.part k).settings.window, fired := [],
      queue := { (s.part k).queue with records := [] } } := by
  have hweff : (releaseSet (s.ownedMask k) (voidWork k s)).weffFor k = (s.part k).settings.window := by
    refine (State.weffFor_of_not_owned fun b => ?_).trans (by simp [releaseSet_eq])
    by_cases hb : (s.board b).owner = some k <;> simp [releaseSet_eq, hb, BoardRecord.released]
  simp only [closePartition, recompute_eq, hweff]
  simp [releaseSet_eq, Partition.leaveGroup]

theorem closePartition_part_ne {j : Slot} (hj : j ≠ k) : (closePartition k s).part j = s.part j := by
  simp [closePartition, recompute_eq, releaseSet_eq, State.setPart_part_ne _ _ _ _ hj]

@[simp] theorem closePartition_port (j : Slot) : (closePartition k s).port j = s.port j := by
  simp [closePartition, recompute_eq, releaseSet_eq]

@[simp] theorem closePartition_board (b : Board) : (closePartition k s).board b =
    if (s.board b).owner = some k then (s.board b).released else s.board b := by
  simp [closePartition, recompute_eq, releaseSet_eq]

@[simp] theorem closePartition_link (b : Board) : (closePartition k s).link b =
    if (s.board b).owner = some k then (s.link b).released else s.link b := by
  simp [closePartition, recompute_eq, releaseSet_eq]

/-- The clock records of the partition become FREE (R60). -/
theorem closePartition_record (i : Fin 48) : (closePartition k s).record i =
    (s.record i).filter fun r => decide (r.owner ≠ k) := by
  have hvoid : (voidWork k s).record i = s.record i := rfl
  simp only [closePartition, recompute_eq, releaseSet_eq, State.updPart_eq, State.setPart_record,
    State.mapRecords_record, State.changeBoards_record, hvoid]
  cases s.record i with
  | none => rfl
  | some r => by_cases hr : r.owner = k <;> simp [hr, Option.filter]

@[simp] theorem closePartition_engine : (closePartition k s).engine = (voidWork k s).engine := by
  simp [closePartition, recompute_eq, releaseSet_eq]

@[simp] theorem closePartition_loader : (closePartition k s).loader = s.loader := by
  simp [closePartition, recompute_eq, releaseSet_eq, voidWork]

@[simp] theorem closePartition_store : (closePartition k s).store = s.store := by
  simp [closePartition, recompute_eq, releaseSet_eq, voidWork]

end

section
variable {k : Slot} {s : State}

theorem exec_closeSlot_refused (h : Waits s k .closeSlot) (hrun : (s.part k).state.isRun = true) :
    exec (.closeSlot k) s = .next (refuse k .wrongState s) := by
  refine (take_waits h).trans ?_
  rw [whenOpen_isRun hrun]

theorem exec_closeSlot_taken (h : Waits s k .closeSlot)
    (hst : (s.part k).state = .stopped ∨ (s.part k).state = .faulted) :
    exec (.closeSlot k) s = .next (respond k .ok false [] (closePartition k s)) := by
  refine (take_waits h).trans ?_
  rw [whenOpen_stoppedOrFaulted hst]

end

/-- Settles O25: what CLOSE makes of each part of the state. -/
theorem closeGivesEverythingBack : Obligations.CloseGivesEverythingBack := by
  refine ⟨fun s k => exec_closeSlot_refused, fun s k h hst => ⟨_, exec_closeSlot_taken h hst, ?_⟩⟩
  simp only [respond_part, respond_board, respond_link, respond_record, respond_engine, respond_loader, respond_store,
    closePartition_part_self, closePartition_loader, closePartition_store, closePartition_board, closePartition_link,
    Partition.leaveGroup, true_and, and_true]
  refine ⟨respond_port_congr (closePartition_port k s k) _ _ _, ?_, fun j hj => ⟨closePartition_part_ne k s hj, ?_⟩,
    fun b => rfl, fun b hb => ?_, fun b hb => if_neg hb, fun i => ?_, fun w hw => ?_⟩
  · simp [State.attention, closePartition_part_self]
  · rw [respond_port_ne k j hj, closePartition_port]
  · rw [if_pos hb]
    exact ⟨rfl, rfl⟩
  · rw [closePartition_record]
    cases s.record i with
    | none => rfl
    | some r => by_cases hr : r.owner = k <;> simp [hr, Option.filter]
  · simp [voidWork, hw]

/-! ## SET_PARTITION -/

/-- The clamps of R54 as least and greatest values. -/
theorem keptSettings_eq (w h g r b t a : Byte) : keptSettings w h g r b t a =
    { window := max 1 (min 8 w.toNat), horizon := max 1 (min 15 h.toNat), gapCode := g.toNat,
      retryLimit := max 1 (min 15 r.toNat), backoffLimit := min 7 b.toNat, timeoutCode := min 63 t.toNat,
      attention := decide (a ≠ 0) } := by
  simp only [keptSettings, clampTo, Nat.zero_max, flagOf]

/-- CLAMPED is set when a value kept is not the one received (R54). -/
theorem settingsClamped_eq (w h g r b t a : Byte) : settingsClamped w h r b t =
    decide ((keptSettings w h g r b t a).window ≠ w.toNat ∨ (keptSettings w h g r b t a).horizon ≠ h.toNat
      ∨ (keptSettings w h g r b t a).retryLimit ≠ r.toNat ∨ (keptSettings w h g r b t a).backoffLimit ≠ b.toNat
      ∨ (keptSettings w h g r b t a).timeoutCode ≠ t.toNat) := by
  rw [Bool.eq_iff_iff, decide_eq_true_iff]
  simp [settingsClamped, keptSettings, or_assoc]

/-- The bytes of the settings kept: a value without a clamp is the byte received (R54, R212). -/
theorem keptSettings_bytes (w h g r b t a : Byte) : (keptSettings w h g r b t a).bytes =
    [BitVec.ofNat 8 (keptSettings w h g r b t a).window, BitVec.ofNat 8 (keptSettings w h g r b t a).horizon, g,
      BitVec.ofNat 8 (keptSettings w h g r b t a).retryLimit, BitVec.ofNat 8 (keptSettings w h g r b t a).backoffLimit,
      BitVec.ofNat 8 (keptSettings w h g r b t a).timeoutCode, if a = 0 then 0 else 1] := by
  simp [Settings.bytes, keptSettings, flagByte, flagOf]

/-- SET_PARTITION in STOPPED replaces the settings and recomputes Weff and Heff (R54, R55). -/
theorem exec_setPartition_taken {k : Slot} {s : State} {w h g r b t a : Byte}
    (hw : WaitsIn s k .stopped (.setPartition w h g r b t a)) :
    let kept := keptSettings w h g r b t a
    let weff := weffOf kept.window ((s.ownedBoards k).map fun b => (s.board b).depth)
    exec (.setPartition k w h g r b t a) s = .next (respond k .ok (settingsClamped w h r b t)
      (kept.bytes ++ [BitVec.ofNat 8 weff, BitVec.ofNat 8 (max kept.horizon weff)])
      (s.setPart k { s.part k with settings := kept, weff := weff, heff := max kept.horizon weff })) := by
  refine (take_waits hw.1).trans ?_
  rw [whenStopped_stopped hw.2]
  simp [recompute_eq, State.weffFor, Partition.windowBytes]

/-- Settles O26: the state of the slot decides, and the clamps are least and greatest values. -/
theorem settingsReplacedWithClamps : Obligations.SettingsReplacedWithClamps := by
  intro s k w h g r b t a hw
  simp only [← keptSettings_eq w h g r b t a]
  refine ⟨fun hst => ?_, fun hopen hst => ?_, fun hst => ?_⟩
  · exact (take_waits hw).trans (congrArg Host.Outcome.next (whenStopped_closed hst))
  · exact (take_waits hw).trans (congrArg Host.Outcome.next (whenStopped_wrongState hopen hst))
  · rw [exec_setPartition_taken ⟨hw, hst⟩, settingsClamped_eq w h g r b t a, keptSettings_bytes]
    rfl

/-! ## Stop groups -/

section
variable {k : Slot} {s : State}

theorem exec_joinGroup_badValue {b : Byte} (h : WaitsIn s k .stopped (.joinGroup b)) (hb : 1 < b.toNat) :
    exec (.joinGroup k b) s = .next (refuse k .badValue s) := by
  refine (take_waits h.1).trans ?_
  rw [whenStopped_stopped h.2, dif_neg (by omega)]

theorem exec_joinGroup_inRange {b : Byte} {g : Group} (h : WaitsIn s k .stopped (.joinGroup b)) (hb : b.toNat = g.val) :
    exec (.joinGroup k b) s = .next (takeJoin k g s) := by
  have hg : (⟨b.toNat, by omega⟩ : Group) = g := Fin.ext hb
  refine (take_waits h.1).trans ?_
  rw [whenStopped_stopped h.2, dif_pos (by omega), hg]

theorem takeJoin_mismatch {g other : Group} (hgroup : (s.part k).group = some other) (hne : other ≠ g) :
    takeJoin k g s = refuse k .groupMismatch s := by
  rw [takeJoin, hgroup, if_pos (by simpa using hne)]

theorem takeJoin_joins {g : Group} (hgroup : (s.part k).group = none ∨ (s.part k).group = some g) :
    takeJoin k g s = respond k .ok false [groupMask g (s.setPart k { s.part k with group := some g })]
      (s.setPart k { s.part k with group := some g }) := by
  rw [takeJoin, if_neg (by rcases hgroup with h | h <;> simp [h]), State.updPart_eq]

theorem exec_leaveGroup (h : WaitsIn s k .stopped .leaveGroup) :
    exec (.leaveGroup k) s = .next (respond k .ok false []
      (s.setPart k (if (s.part k).group.isSome then (s.part k).leaveGroup else s.part k))) := by
  refine (take_waits h.1).trans ?_
  rw [whenStopped_stopped h.2, State.updPart_eq]

end

/-- Settles O32: JOIN_GROUP by the group number and the group joined already, LEAVE_GROUP by whether there is one. -/
theorem groupMembershipChanges : Obligations.GroupMembershipChanges := by
  refine fun s k => ⟨fun b h => ⟨exec_joinGroup_badValue h, fun g hb => ⟨fun other hgroup hne => ?_, fun hgroup => ?_⟩⟩,
    fun h => ⟨fun hgroup => ?_, fun hgroup => ?_⟩⟩
  · rw [exec_joinGroup_inRange h hb, takeJoin_mismatch hgroup hne]
  · rw [exec_joinGroup_inRange h hb, takeJoin_joins hgroup, groupMask]
  · rw [exec_leaveGroup h, hgroup]
    simp
  · rw [exec_leaveGroup h, if_pos (Option.isSome_iff_ne_none.2 hgroup), Partition.leaveGroup]

end Sys2Proof.Machine
end

section
/-! SUPPORT. The requests about boards: CLAIM_BOARDS (R65 to R67), RELEASE_BOARDS (R68) and REPROBE (R69), with the ends
of those answered later; then the statements about them. -/

namespace Sys2Proof.Machine

/-! ## Claiming -/

section
variable {s : State} {k : Slot} {set fresh already failed : BoardMask}

/-- The record of a board newly claimed (R66). -/
def BoardRecord.claimedBy (k : Slot) (r : BoardRecord) : BoardRecord :=
  { r with owner := some k, link := .syncing, counters := {} }

/-- The machine with the boards of a set claimed, each sent a SYNC to the fired state, and the sync-pending flag set
(R66). -/
def boardsClaimed (k : Slot) (fresh : BoardMask) (s : State) : State :=
  (s.changeBoards (maskHas fresh) (BoardRecord.claimedBy k)
    (Link.queueSync ((s.part k).firedFrontier + 1) (levelMask (s.part k).fired))).setPart k
      { s.part k with syncPending := true }

@[simp] theorem boardsClaimed_board (b : Board) : (boardsClaimed k fresh s).board b =
    if maskHas fresh b then (s.board b).claimedBy k else s.board b := by simp [boardsClaimed]

@[simp] theorem boardsClaimed_link (b : Board) : (boardsClaimed k fresh s).link b = if maskHas fresh b then
    (s.link b).queueSync ((s.part k).firedFrontier + 1) (levelMask (s.part k).fired) else s.link b := by
  simp [boardsClaimed]

@[simp] theorem boardsClaimed_part_self : (boardsClaimed k fresh s).part k = { s.part k with syncPending := true } := by
  simp [boardsClaimed]

theorem boardsClaimed_part_ne {j : Slot} (hj : j ≠ k) : (boardsClaimed k fresh s).part j = s.part j := by
  simp [boardsClaimed, State.setPart_part_ne _ _ _ _ hj]

/-- A claim leaves the depths (R62). -/
theorem boardsClaimed_depth (b : Board) : ((boardsClaimed k fresh s).board b).depth = (s.board b).depth := by
  rw [boardsClaimed_board]
  split <;> rfl

/-- A claim sends the new boards their SYNC, and recomputes Weff and Heff (R66). -/
theorem claimFresh_eq (k : Slot) (fresh : BoardMask) (s : State) :
    claimFresh k fresh s = recompute k (boardsClaimed k fresh s) := by
  have htest : (fun b => decide (b ∈ maskBoards fresh)) = maskHas fresh := by simp
  simp only [claimFresh, forBoards_syncBoard (maskBoards_nodup fresh), htest, State.mapBoards_changeBoards,
    State.mapBoards_part, State.updPart_eq, State.changeBoards_part, boardsClaimed]
  rfl

/-- The machine once a claim has been taken: the boards claimed, Weff and Heff recomputed, and the port waiting for
their SYNCs (R66). -/
def claimBegun (k : Slot) (fresh already : BoardMask) (s : State) : State :=
  (recompute k (boardsClaimed k fresh s)).setPort k { s.port k with work := some (.claiming fresh already 0) }

@[simp] theorem claimBegun_board (b : Board) : (claimBegun k fresh already s).board b =
    if maskHas fresh b then (s.board b).claimedBy k else s.board b := by simp [claimBegun, recompute_eq]

@[simp] theorem claimBegun_link (b : Board) : (claimBegun k fresh already s).link b = if maskHas fresh b then
    (s.link b).queueSync ((s.part k).firedFrontier + 1) (levelMask (s.part k).fired) else s.link b := by
  simp [claimBegun, recompute_eq]

@[simp] theorem claimBegun_part_self : (claimBegun k fresh already s).part k =
    { s.part k with
      syncPending := true, weff := (boardsClaimed k fresh s).weffFor k,
      heff := max (s.part k).settings.horizon ((boardsClaimed k fresh s).weffFor k) } := by
  simp [claimBegun, recompute_eq]

@[simp] theorem claimBegun_port_self : (claimBegun k fresh already s).port k =
    { s.port k with work := some (.claiming fresh already 0) } := by simp [claimBegun]

/-- A claim leaves the other partitions and ports, and everything but boards and links. -/
theorem claimBegun_frame :
    (∀ j, j ≠ k → (claimBegun k fresh already s).part j = s.part j ∧ (claimBegun k fresh already s).port j = s.port j)
      ∧ (claimBegun k fresh already s).engine = s.engine ∧ (claimBegun k fresh already s).pool = s.pool
      ∧ (claimBegun k fresh already s).loader = s.loader ∧ (claimBegun k fresh already s).store = s.store := by
  refine ⟨fun j hj => ⟨?_, ?_⟩, ?_, ?_, ?_, ?_⟩
  · simp [claimBegun, recompute_eq, State.setPart_part_ne _ _ _ _ hj, boardsClaimed_part_ne hj]
  · simp [claimBegun, boardsClaimed, recompute_eq, State.setPort_port_ne _ _ _ _ hj]
  all_goals simp [claimBegun, boardsClaimed, recompute_eq]

/-- Weff after a claim is the least of the window setting and the depths owned (R55). -/
theorem claimBegun_weff :
    (∀ b, (claimBegun k fresh already s).owns k b = true → (boardsClaimed k fresh s).weffFor k ≤ (s.board b).depth)
      ∧ (boardsClaimed k fresh s).weffFor k ≤ (s.part k).settings.window
      ∧ ((boardsClaimed k fresh s).weffFor k = (s.part k).settings.window
        ∨ ∃ b, (claimBegun k fresh already s).owns k b = true
          ∧ (boardsClaimed k fresh s).weffFor k = (s.board b).depth) := by
  have howns : ∀ b, (claimBegun k fresh already s).owns k b = true
      ↔ ((boardsClaimed k fresh s).board b).owner = some k := fun b => by simp
  simp only [howns, ← boardsClaimed_depth (k := k) (fresh := fresh) (s := s)]
  have hwindow : (s.part k).settings.window = ((boardsClaimed k fresh s).part k).settings.window := by simp
  rw [hwindow]
  exact ⟨fun b => State.weffFor_le_depth, State.weffFor_le_window, State.weffFor_attained⟩

theorem exec_claimBoards (h : WaitsIn s k .stopped (.claimBoards set)) : exec (.claimBoards k set) s = .next (
    if set = 0 then refuse k .badValue s
    else if takenBoards k set s ≠ 0 then refuseMask k .boardTaken (takenBoards k set s) s
    else if absentBoards set s ≠ 0 then refuseMask k .boardAbsent (absentBoards set s) s
    else if busyBoards set s ≠ 0 then refuseMask k .boardBusy (busyBoards set s) s
    else takeClaim k set s) :=
  (take_waits h.1).trans (congrArg Host.Outcome.next (whenStopped_stopped h.2))

theorem takeClaim_owned (h : set &&& ~~~(s.ownedMask k) = 0) :
    takeClaim k set s = respond k .ok false (claimBody k 0 (set &&& s.ownedMask k) 0 s) s := if_pos h

theorem takeClaim_fresh (h : set &&& ~~~(s.ownedMask k) ≠ 0) :
    takeClaim k set s = claimBegun k (set &&& ~~~(s.ownedMask k)) (set &&& s.ownedMask k) s := by
  refine (if_neg h).trans ?_
  rw [claimFresh_eq, State.updPort_eq, claimBegun]
  simp [recompute_eq, boardsClaimed]

theorem takenBoards_eq (k : Slot) (set : BoardMask) (s : State) : takenBoards k set s =
    maskWhere fun b => maskHas set b && (s.board b).owner.isSome && (s.board b).owner != some k := by
  refine congrArg maskWhere (funext fun b => congrArg (maskHas set b && (s.board b).owner.isSome && ·) ?_)
  rw [State.owns, Bool.eq_iff_iff]
  simp

/-- The boards of partition `k` in a link state, as a mask. -/
theorem State.ownedIn_eq (s : State) (k : Slot) (st : LinkState) :
    s.ownedIn k st = maskWhere fun b => (s.board b).owner == some k && (s.board b).link == st := by
  refine congrArg maskWhere (funext fun b => congrArg (· && (s.board b).link == st) ?_)
  rw [Bool.eq_iff_iff]
  simp

theorem settlePort_claiming (h : (s.port k).work = some (.claiming fresh already failed)) :
    settlePort k s = if claimEnded fresh failed s then endClaim k fresh already failed s else s := by
  rw [settlePort, h]

/-- A claim has ended when no new board still waits for its SYNC (R66, R67). -/
theorem claimEnded_iff : claimEnded fresh failed s = true ↔ ∀ b, maskHas fresh b = true →
    maskHas failed b = true ∨ (s.board b).link = .bound ∨ (s.board b).link = .failed := by
  simp [claimEnded, or_assoc]

/-- The answer to a claim: the new boards that are BOUND, those owned before and those that failed (R66; assumption
43). -/
theorem endClaim_eq : endClaim k fresh already failed s = respond k .ok false
    (maskBytes (maskWhere fun b => maskHas fresh b && ((s.board b).owner == some k && (s.board b).link == .bound))
      ++ maskBytes already ++ maskBytes failed ++ [BitVec.ofNat 8 (s.part k).weff, BitVec.ofNat 8 (s.part k).heff])
    (s.setPart k { s.part k with syncPending := false }) := by
  have hbound : fresh &&& (s.setPart k { s.part k with syncPending := false }).ownedIn k .bound
      = maskWhere fun b => maskHas fresh b && ((s.board b).owner == some k && (s.board b).link == .bound) :=
    mask_ext fun b => by simp [State.ownedIn_eq]
  simp [endClaim, claimBody, hbound, Partition.windowBytes]

end

/-- Settles O29: the checks in their order, the boards claimed in one event, and the end by the boards still waiting. -/
theorem claimTakesBoardsOver : Obligations.ClaimTakesBoardsOver := by
  refine ⟨fun l n level => rfl, ?_, fun s k fresh already failed hwork => ⟨?_, fun hended => ?_⟩⟩
  · intro s k set h other absent busy fresh already next
    have hother : maskWhere other = takenBoards k set s := (takenBoards_eq k set s).symm
    have habsentEq : maskWhere absent = absentBoards set s := rfl
    have hbusyEq : maskWhere busy = busyBoards set s := rfl
    rw [exec_claimBoards h, hother, habsentEq, hbusyEq]
    refine ⟨fun hset => congrArg Host.Outcome.next (if_pos hset), fun htaken => ?_, fun hset htaken habsent => ?_,
      fun hset htaken habsent hbusy => ?_, fun hset htaken habsent hbusy => ?_⟩
    · have hset : set ≠ 0 := ne_zero_of_maskWhere (fun b hb => by simp_all) htaken
      rw [if_neg hset, if_pos htaken, refuseMask]
    · rw [if_neg hset, if_neg (not_not.2 htaken), if_pos habsent, refuseMask]
    · rw [if_neg hset, if_neg (not_not.2 htaken), if_neg (not_not.2 habsent), if_pos hbusy, refuseMask]
    · rw [if_neg hset, if_neg (not_not.2 htaken), if_neg (not_not.2 habsent), if_neg (not_not.2 hbusy)]
      refine ⟨fun hfresh => ?_, fun hfresh => ?_⟩
      · rw [takeClaim_owned hfresh]
        simp [claimBody, Partition.windowBytes, already]
      · obtain ⟨hdepth, hwindow, hattained⟩ := claimBegun_weff (k := k) (fresh := fresh) (already := already) (s := s)
        refine ⟨claimBegun k fresh already s, congrArg Host.Outcome.next (takeClaim_fresh hfresh), fun b hb => ?_,
          fun b hb => ?_, ?_⟩
        · rw [claimBegun_board, claimBegun_link, if_pos hb, if_pos hb]
          exact ⟨rfl, rfl⟩
        · simp [hb]
        · simp only [claimBegun_part_self, true_and]
          exact ⟨hdepth, hwindow, hattained, claimBegun_port_self, claimBegun_frame⟩
  · rintro ⟨b, hb, hwaits⟩
    rw [settlePort_claiming hwork, if_neg fun hended => hwaits (claimEnded_iff.1 hended b hb)]
  · rw [settlePort_claiming hwork, if_pos (claimEnded_iff.2 hended), endClaim_eq]

/-! ## Releasing -/

section
variable {s : State} {k : Slot} {set : BoardMask}

theorem exec_releaseBoards_refused (h : Waits s k (.releaseBoards set)) (hrun : (s.part k).state.isRun = true) :
    exec (.releaseBoards k set) s = .next (refuse k .wrongState s) := by
  refine (take_waits h).trans ?_
  rw [whenOpen_isRun hrun]

theorem exec_releaseBoards (h : Waits s k (.releaseBoards set))
    (hst : (s.part k).state = .stopped ∨ (s.part k).state = .faulted) :
    exec (.releaseBoards k set) s = .next (takeRelease k set s) := by
  refine (take_waits h).trans ?_
  rw [whenOpen_stoppedOrFaulted hst]

theorem takeRelease_refused (h : set = 0 ∨ set &&& ~~~(s.ownedMask k) ≠ 0) :
    takeRelease k set s = respond k .badValue false (maskBytes (set &&& ~~~(s.ownedMask k))) s := if_pos h

/-- The machine with the boards of a set released, and Weff and Heff recomputed (R68). -/
def boardsReleased (k : Slot) (set : BoardMask) (s : State) : State := recompute k (releaseSet set s)

@[simp] theorem boardsReleased_board (b : Board) : (boardsReleased k set s).board b =
    if maskHas set b then (s.board b).released else s.board b := by simp [boardsReleased, recompute_eq, releaseSet_eq]

@[simp] theorem boardsReleased_link (b : Board) : (boardsReleased k set s).link b =
    if maskHas set b then (s.link b).released else s.link b := by simp [boardsReleased, recompute_eq, releaseSet_eq]

@[simp] theorem boardsReleased_part_self : (boardsReleased k set s).part k =
    { s.part k with
      weff := (releaseSet set s).weffFor k
      heff := max (s.part k).settings.horizon ((releaseSet set s).weffFor k) } := by
  simp [boardsReleased, recompute_eq, releaseSet_eq]

theorem boardsReleased_part_ne {j : Slot} (hj : j ≠ k) : (boardsReleased k set s).part j = s.part j := by
  simp [boardsReleased, recompute_eq, releaseSet_eq, State.setPart_part_ne _ _ _ _ hj]

/-- A release leaves the ports, the engine, the clock records, the loader and the store. -/
theorem boardsReleased_frame : (∀ j, (boardsReleased k set s).port j = s.port j)
    ∧ (boardsReleased k set s).engine = s.engine ∧ (boardsReleased k set s).pool = s.pool
    ∧ (boardsReleased k set s).loader = s.loader ∧ (boardsReleased k set s).store = s.store := by
  refine ⟨fun j => ?_, ?_, ?_, ?_, ?_⟩ <;> simp [boardsReleased, recompute_eq, releaseSet_eq]

/-- The boards left after a release (R68). -/
theorem boardsReleased_ownedMask : (boardsReleased k set s).ownedMask k = s.ownedMask k &&& ~~~set :=
  mask_ext fun b => by by_cases hb : maskHas set b <;> simp [hb, BoardRecord.released]

/-- The boards that stay owned in a release (R68). -/
theorem releaseSet_owner (b : Board) : ((releaseSet set s).board b).owner = some k ↔
    (s.board b).owner = some k ∧ maskHas set b = false := by
  by_cases hb : maskHas set b <;> simp [releaseSet_eq, hb, BoardRecord.released]

theorem releaseSet_depth (b : Board) : ((releaseSet set s).board b).depth = (s.board b).depth := by
  by_cases hb : maskHas set b <;> simp [releaseSet_eq, hb, BoardRecord.released]

/-- Weff after a release is the least of the window setting and the depths of the boards still owned (R55). -/
theorem weffFor_releaseSet (k : Slot) (set : BoardMask) (s : State) :
    (releaseSet set s).weffFor k ≤ (s.part k).settings.window
      ∧ (∀ b, (s.board b).owner = some k → maskHas set b = false → (releaseSet set s).weffFor k ≤ (s.board b).depth)
      ∧ ((releaseSet set s).weffFor k = (s.part k).settings.window
        ∨ ∃ b, (s.board b).owner = some k ∧ maskHas set b = false
          ∧ (releaseSet set s).weffFor k = (s.board b).depth) := by
  have hwindow : (s.part k).settings.window = ((releaseSet set s).part k).settings.window := by simp [releaseSet_eq]
  rw [hwindow]
  refine ⟨State.weffFor_le_window, fun b howner hleft => ?_, State.weffFor_attained.imp_right fun ⟨b, hb, hdepth⟩ => ?_⟩
  · exact (State.weffFor_le_depth ((releaseSet_owner b).2 ⟨howner, hleft⟩)).trans_eq (releaseSet_depth b)
  · obtain ⟨howner, hleft⟩ := (releaseSet_owner b).1 hb
    exact ⟨b, howner, hleft, hdepth.trans (releaseSet_depth b)⟩

theorem takeRelease_taken (hset : set ≠ 0) (hforeign : set &&& ~~~(s.ownedMask k) = 0) :
    takeRelease k set s = respond k .ok false
      (maskBytes (s.ownedMask k &&& ~~~set) ++ ((boardsReleased k set s).part k).windowBytes)
      (boardsReleased k set s) := by
  have hnot : ¬ (set = 0 ∨ set &&& ~~~(s.ownedMask k) ≠ 0) := fun h => h.elim hset fun hne => hne hforeign
  rw [takeRelease]
  dsimp only
  rw [if_neg hnot, ← boardsReleased, boardsReleased_ownedMask]

end

/-- Settles O30: the boards released in one event, and Weff the least of what is left. -/
theorem releaseMakesBoardsUnowned : Obligations.ReleaseMakesBoardsUnowned := by
  refine fun s k set h => ⟨exec_releaseBoards_refused h, fun hst => ⟨fun hbad => ?_, fun hset hforeign => ?_⟩⟩
  · rw [exec_releaseBoards h hst, takeRelease_refused hbad]
  · obtain ⟨hwindow, hdepth, hattained⟩ := weffFor_releaseSet k set s
    obtain ⟨hport, hengine, hpool, hloader, hstore⟩ := boardsReleased_frame (k := k) (set := set) (s := s)
    refine ⟨_, (exec_releaseBoards h hst).trans (congrArg Host.Outcome.next (takeRelease_taken hset hforeign)), ?_⟩
    simp only [respond_part, respond_board, respond_link, respond_engine, respond_loader, respond_store,
      boardsReleased_board, boardsReleased_link, boardsReleased_part_self, Partition.windowBytes, true_and]
    refine ⟨fun b => rfl, fun b hb => if_pos hb, fun b hb => if_neg (Bool.eq_false_iff.1 hb), hwindow, hdepth,
      hattained, respond_port_congr (hport k) _ _ _, fun j hj => ⟨boardsReleased_part_ne hj, ?_⟩, hengine, ?_, hloader,
      hstore⟩
    · rw [respond_port_ne k j hj, hport j]
    · rw [respond_pool, hpool]

/-! ## Probing again -/

section
variable {s : State} {k : Slot} {set found absent : BoardMask}

theorem exec_reprobe (h : Waits s k (.reprobe set)) : exec (.reprobe k set) s = .next (
    if set = 0 then refuseMask k .badValue 0 s
    else if ownedOf set s ≠ 0 then refuseMask k .boardTaken (ownedOf set s) s
    else if busyBoards set s ≠ 0 then refuseMask k .boardBusy (busyBoards set s) s
    else (forBoards breakBoard (maskBoards set) s).updPort k fun p =>
      { p with work := some (.reprobing set 0 0) }) := by
  rw [exec, execReprobe, take_waits h]

/-- A REPROBE that passes its checks breaks the boards of its set, and waits for their probes (R69, R136). -/
def reprobeBegun (k : Slot) (set : BoardMask) (s : State) : State :=
  (s.changeBoards (maskHas set) (fun r => { r with link := .probing, cause := none }) Link.beginBreak).setPort k
    { s.port k with work := some (.reprobing set 0 0) }

theorem forBoards_breakBoard_mask (k : Slot) (set : BoardMask) (s : State) :
    ((forBoards breakBoard (maskBoards set) s).updPort k fun p => { p with work := some (.reprobing set 0 0) })
      = reprobeBegun k set s := by
  rw [forBoards_breakBoard (maskBoards_nodup set), State.updPort_eq, reprobeBegun]
  simp

theorem settlePort_reprobing (h : (s.port k).work = some (.reprobing set found absent)) :
    settlePort k s = if set = found ||| absent then endReprobe k found absent s else s := by
  rw [settlePort, h]

/-- A probe that ends is noted by a REPROBE that names the board and has not noted it yet (R69; assumption 49). -/
theorem Work.noteProbe_reprobing (b : Board) (answered : Bool) (set found absent : BoardMask) :
    Work.noteProbe b answered (.reprobing set found absent) = .reprobing set
      (if (maskHas set b && !maskHas found b && !maskHas absent b) && answered then maskAdd found b else found)
      (if (maskHas set b && !maskHas found b && !maskHas absent b) && !answered then maskAdd absent b else absent) := by
  rw [Work.noteProbe]
  cases maskHas set b && !maskHas found b && !maskHas absent b <;> cases answered <;> rfl

theorem noteProbe_port (b : Board) (answered : Bool) (s : State) (k : Slot) : (noteProbe b answered s).port k =
    { s.port k with work := (s.port k).work.map (Work.noteProbe b answered) } := by
  simp [noteProbe, State.port]

theorem noteProbe_frame (b : Board) (answered : Bool) (s : State) : (noteProbe b answered s).boards = s.boards
    ∧ (noteProbe b answered s).links = s.links ∧ (noteProbe b answered s).parts = s.parts := by
  simp only [noteProbe, and_self]

end

/-- Settles O31: the checks in their order, the boards broken in one event, and the end of each probe noted. -/
theorem reprobeBreaksUnownedBoards : Obligations.ReprobeBreaksUnownedBoards := by
  refine ⟨?_, fun s k set found absent hwork => ⟨fun b answered => ⟨?_, noteProbe_frame b answered s⟩, fun hleft => ?_,
    fun hended => ?_⟩⟩
  · intro s k set h owned busy
    have howned : owned = ownedOf set s := rfl
    have hbusyEq : busy = busyBoards set s := rfl
    rw [exec_reprobe h, forBoards_breakBoard_mask, howned, hbusyEq]
    refine ⟨fun hset => ?_, fun htaken => ?_, fun hset htaken hbusy => ?_, fun hset htaken hbusy =>
      ⟨reprobeBegun k set s, ?_, fun b hb => ?_, fun b hb => ?_, ?_, fun j hj => ?_, ?_⟩⟩
    · rw [if_pos hset, refuseMask]
    · have hset : set ≠ 0 := ne_zero_of_maskWhere (fun b hb => by simp_all) htaken
      rw [if_neg hset, if_pos htaken, refuseMask]
    · rw [if_neg hset, if_neg (not_not.2 htaken), if_pos hbusy, refuseMask]
    · rw [if_neg hset, if_neg (not_not.2 htaken), if_neg (not_not.2 hbusy)]
    · simp only [reprobeBegun, State.setPort_board, State.setPort_link, State.changeBoards_board,
        State.changeBoards_link, hb, if_true, true_and]
      rfl
    · simp [reprobeBegun, hb]
    · simp [reprobeBegun]
    · simp [reprobeBegun, State.setPort_port_ne _ _ _ _ hj]
    · simp [reprobeBegun]
  · rw [noteProbe_port, hwork, Option.map_some, Work.noteProbe_reprobing]
    rfl
  · rw [settlePort_reprobing hwork, if_neg hleft]
  · rw [settlePort_reprobing hwork, if_pos hended, endReprobe]
    rfl

end Sys2Proof.Machine
end

section
/-! SUPPORT. RECOVER, its end, and CLEAR_ERRORS (R102 to R104), and the statement about them. -/

namespace Sys2Proof.Machine

/-! ## The end of a RECOVER -/

section
variable {s : State} {k : Slot} {replied : BoardMask}

/-- The partition once board `b` has been reported failed, at fired frontier `fired` (R103; assumption 35). -/
def Partition.reportFailed (fired : Nat) (b : Board) (p : Partition) : Option FaultCause → Partition
  | some cause => Partition.offer (.link b fired (.fault cause)) { p with sticky := p.sticky.addCause cause }
  | none => p

theorem Partition.offer_firedFrontier (r : EventRecord) (p : Partition) :
    (p.offer r).firedFrontier = p.firedFrontier := by
  unfold Partition.offer
  split <;> rfl

theorem Partition.reportFailed_firedFrontier (fired : Nat) (b : Board) (p : Partition) (cause : Option FaultCause) :
    (p.reportFailed fired b cause).firedFrontier = p.firedFrontier := by
  cases cause with
  | none => rfl
  | some cause => exact Partition.offer_firedFrontier _ _

theorem reportFailed_eq (k : Slot) (b : Board) (s : State) : reportFailed k b s =
    s.setPart k ((s.part k).reportFailed (s.part k).firedFrontier b (s.board b).cause) := by
  unfold reportFailed
  cases (s.board b).cause with
  | none => simp [Partition.reportFailed]
  | some cause => simp [Partition.reportFailed, offerLink, offerRecord]

/-- The failed boards reported one after another (R103). -/
theorem forBoards_reportFailed (k : Slot) (bs : List Board) (s : State) : forBoards (reportFailed k) bs s =
    s.setPart k (bs.foldl (fun p b => p.reportFailed (s.part k).firedFrontier b (s.board b).cause) (s.part k)) := by
  induction bs generalizing s with
  | nil => simp [forBoards]
  | cons b bs ih =>
    rw [forBoards, ih, reportFailed_eq]
    simp [Partition.reportFailed_firedFrontier]

/-- A partition as it stands when its RECOVER ends, before its state is settled (R103). -/
def State.recoveredPart (s : State) (k : Slot) : Partition :=
  { s.part k with
    weff := s.weffFor k, heff := max (s.part k).settings.horizon (s.weffFor k), syncPending := false }

/-- The boards of partition `k` in a link state depend on the board records alone. -/
theorem State.ownedIn_congr {t : State} (h : ∀ b, t.board b = s.board b) (st : LinkState) :
    t.ownedIn k st = s.ownedIn k st := by simp only [State.ownedIn_eq, h]

/-- The machine as a RECOVER ends, before the answer: STOPPED with the links at rest, or FAULTED with the failed boards
reported and the links muted (R103, R143, R149). -/
def recoverEnded (k : Slot) (s : State) : State :=
  if s.ownedIn k .failed = 0 then restLinks k (s.setPart k { s.recoveredPart k with state := .stopped })
  else muteBoards k (s.setPart k ((maskBoards (s.ownedIn k .failed)).foldl
    (fun p b => p.reportFailed (s.part k).firedFrontier b (s.board b).cause) (s.recoveredPart k)))

theorem endRecover_eq : endRecover k replied s =
    respond k .ok false (recoverBody k replied (recoverEnded k s)) (recoverEnded k s) := by
  have hfailed : (s.setPart k (s.recoveredPart k)).ownedIn k .failed = s.ownedIn k .failed :=
    State.ownedIn_congr (fun b => by simp) _
  have hpart : ((recompute k s).updPart k fun p => { p with syncPending := false })
      = s.setPart k (s.recoveredPart k) := by simp [recompute_eq, State.recoveredPart]
  have hfired : (s.recoveredPart k).firedFrontier = (s.part k).firedFrontier := rfl
  have hended : (if s.ownedIn k .failed = 0 then
      restLinks k ((s.setPart k (s.recoveredPart k)).updPart k fun p => { p with state := .stopped })
    else muteBoards k (forBoards (reportFailed k) (maskBoards (s.ownedIn k .failed)) (s.setPart k (s.recoveredPart k))))
      = recoverEnded k s := by
    simp only [recoverEnded, forBoards_reportFailed, State.updPart_eq, State.setPart_setPart, State.setPart_part_self,
      State.setPart_board, hfired]
  simp only [endRecover, hpart, hfailed, hended]

theorem muteBoards_link (k : Slot) (s : State) (b : Board) : (muteBoards k s).link b =
    if (s.board b).owner = some k then { (s.link b).cleared with muted := true } else s.link b := by
  simp [muteBoards]

/-- The end of a RECOVER leaves the boards, the ports and the other partitions. -/
theorem recoverEnded_frame : (recoverEnded k s).boards = s.boards ∧ (recoverEnded k s).engine = s.engine
    ∧ (recoverEnded k s).pool = s.pool ∧ (recoverEnded k s).loader = s.loader ∧ (recoverEnded k s).store = s.store
    ∧ (∀ j, (recoverEnded k s).port j = s.port j) ∧ (∀ j, j ≠ k → (recoverEnded k s).part j = s.part j) := by
  unfold recoverEnded
  split <;> refine ⟨?_, ?_, ?_, ?_, ?_, fun j => ?_, fun j hj => ?_⟩ <;>
    simp [restLinks, muteBoards, State.setPart_part_ne, *]

/-- The end of a RECOVER leaves the links of the boards that partition `k` does not own. -/
theorem recoverEnded_link_ne {b : Board} (hb : (s.board b).owner ≠ some k) : (recoverEnded k s).link b = s.link b := by
  unfold recoverEnded
  split <;> simp [muteBoards_link, hb]

/-- With every board BOUND the partition enters STOPPED, its links at rest (R103, R143). -/
theorem recoverEnded_stopped (h : s.ownedIn k .failed = 0) :
    (recoverEnded k s).part k = { s.recoveredPart k with state := .stopped }
      ∧ ∀ b, (s.board b).owner = some k → (recoverEnded k s).link b = (s.link b).rest := by
  rw [recoverEnded, if_pos h]
  exact ⟨by simp, fun b hb => by simp [hb]⟩

/-- With a FAILED board the failed boards are reported and the links muted (R103, R149). -/
theorem recoverEnded_faulted (h : s.ownedIn k .failed ≠ 0) :
    (recoverEnded k s).part k = (maskBoards (s.ownedIn k .failed)).foldl
        (fun p b => p.reportFailed (s.part k).firedFrontier b (s.board b).cause) (s.recoveredPart k)
      ∧ ∀ b, (s.board b).owner = some k → (recoverEnded k s).link b = { (s.link b).cleared with muted := true } := by
  rw [recoverEnded, if_neg h]
  exact ⟨by simp [muteBoards], fun b hb => by simp [muteBoards_link, hb]⟩

/-- The answer to a RECOVER, from the board records as they stand (R103; assumptions 43, 48). -/
theorem recoverBody_eq (k : Slot) (replied : BoardMask) {s t : State} (h : ∀ b, t.board b = s.board b) :
    recoverBody k replied t = [(t.part k).state.code] ++ maskBytes (s.ownedIn k .bound)
      ++ maskBytes (s.ownedIn k .failed)
      ++ boardList (fun b => [faultCode (s.board b).cause]) (maskBoards (s.ownedIn k .failed))
      ++ boardList (fun b => leBytes 2 (s.board b).id.toNat ++ [BitVec.ofNat 8 (s.board b).depth]) (maskBoards replied)
      ++ [BitVec.ofNat 8 (t.part k).weff, BitVec.ofNat 8 (t.part k).heff] := by
  have hidentity : t.identityBytes = fun b => leBytes 2 (s.board b).id.toNat ++ [BitVec.ofNat 8 (s.board b).depth] :=
    funext fun b => by rw [State.identityBytes, h]
  simp only [recoverBody, State.ownedIn_congr h, h, hidentity, Partition.windowBytes]

/-- A RECOVER has ended when every owned board is BOUND or FAILED (R103). -/
theorem settlePort_recovering (h : (s.port k).work = some (.recovering replied)) : settlePort k s =
    if ∀ b, (s.board b).owner = some k → (s.board b).link = .bound ∨ (s.board b).link = .failed then
      endRecover k replied s
    else s := by
  simp [settlePort, h]

end

/-! ## RECOVER and CLEAR_ERRORS -/

section
variable {s : State} {k : Slot}

theorem exec_recover_refused (h : Waits s k .recover) (hopen : (s.part k).state ≠ .closed)
    (hst : (s.part k).state ≠ .faulted) : exec (.recover k) s = .next (refuse k .wrongState s) := by
  refine (take_waits h).trans ?_
  rw [whenOpen_open hopen, if_neg hst]

theorem exec_recover (h : WaitsIn s k .faulted .recover) : exec (.recover k) s = .next (takeRecover k s) := by
  obtain ⟨h, hst⟩ := h
  refine (take_waits h).trans ?_
  rw [whenOpen_open (fun hclosed => by simp [hst] at hclosed), if_pos hst]

/-- With no board to recover a RECOVER ends at once (R102, R103). -/
theorem takeRecover_none (h : ∀ b, (s.board b).owner ≠ some k) :
    takeRecover k s = endRecover k 0 (s.setPart k { s.part k with syncPending := true }) := by
  have hnone : s.ownedBoards k = [] :=
    List.eq_nil_iff_forall_not_mem.2 fun b hb => h b ((s.mem_ownedBoards k b).1 hb)
  simp [takeRecover, hnone]

/-- The machine once a RECOVER has been taken: every owned board broken, under the sync-pending flag (R102). -/
def recoverBegun (k : Slot) (s : State) : State :=
  ((s.setPart k { s.part k with syncPending := true }).changeBoards (fun b => decide ((s.board b).owner = some k))
    (fun r => { r with link := .probing, cause := none }) Link.beginBreak).setPort k
      { s.port k with work := some (.recovering 0) }

theorem takeRecover_some (h : ∃ b, (s.board b).owner = some k) : takeRecover k s = recoverBegun k s := by
  obtain ⟨b, hb⟩ := h
  have hsome : s.ownedBoards k ≠ [] := List.ne_nil_of_mem ((s.mem_ownedBoards k b).2 hb)
  simp [takeRecover, hsome, forBoards_breakBoard (s.ownedBoards_nodup k), recoverBegun]

theorem exec_clearErrors (h : WaitsIn s k .stopped .clearErrors) : exec (.clearErrors k) s =
    .next (respond k .ok false ((s.part k).sticky.byte :: leBytes 2 (s.part k).queue.drops)
      (s.setPart k { s.part k with
        sticky := {}, queue := { (s.part k).queue with drops := 0, overflow := false } })) :=
  (take_waits h.1).trans (congrArg Host.Outcome.next (whenStopped_stopped h.2))

end

/-- A RECOVER with no board: what of it R103 names. -/
theorem takeRecover_none_part {s : State} {k : Slot} (h : ∀ b, (s.board b).owner ≠ some k) :
    ((takeRecover k s).part k).state = .stopped ∧ ((takeRecover k s).part k).syncPending = false
      ∧ ((takeRecover k s).part k).stop = (s.part k).stop
      ∧ ((takeRecover k s).part k).firedFrontier = (s.part k).firedFrontier
      ∧ ((takeRecover k s).part k).sticky = (s.part k).sticky
      ∧ ((takeRecover k s).port k).state = .responseReady := by
  have hfailed : (s.setPart k { s.part k with syncPending := true }).ownedIn k .failed = 0 :=
    (mask_eq_zero_iff _).2 fun b => by simp [State.ownedIn_eq, h b]
  obtain ⟨hpart, -⟩ := recoverEnded_stopped hfailed
  rw [takeRecover_none h, endRecover_eq]
  simp [hpart, respond_port, State.recoveredPart]

/-- Settles O41: RECOVER by the boards there are to break and by how their probes and SYNCs end, and CLEAR_ERRORS. -/
theorem recoverAndClearErrors : Obligations.RecoverAndClearErrors := by
  refine ⟨fun s k => ⟨exec_recover_refused, fun h hnone => ⟨_, exec_recover h, takeRecover_none_part hnone⟩,
    fun h hsome => ⟨recoverBegun k s, ?_, ?_, fun b hb => ?_, fun b hb => ?_, ?_, fun j hj => ?_, ?_⟩,
    exec_clearErrors⟩, ?_⟩
  · rw [exec_recover h, takeRecover_some hsome]
  · simp [recoverBegun]
  · simp [recoverBegun, hb]
  · simp [recoverBegun, hb]
  · simp [recoverBegun]
  · simp [recoverBegun, State.setPart_part_ne _ _ _ _ hj, State.setPort_port_ne _ _ _ _ hj]
  · simp [recoverBegun]
  · intro s k replied hwork inState failed t weff p
    have hstate : ∀ st, inState st = s.ownedIn k st := fun st => (s.ownedIn_eq k st).symm
    refine ⟨fun ⟨b, hb, hbound, hfailed⟩ => ?_, fun hended => ?_⟩
    · exact (settlePort_recovering hwork).trans (if_neg fun hended => (hended b hb).elim hbound hfailed)
    · have ht : t = respond k .ok false (recoverBody k replied (recoverEnded k s)) (recoverEnded k s) :=
        (settlePort_recovering hwork).trans ((if_pos hended).trans endRecover_eq)
      obtain ⟨hboards, hengine, hpool, hloader, hstore, hport, hpart⟩ := recoverEnded_frame (s := s) (k := k)
      have hboard : ∀ b, (recoverEnded k s).board b = s.board b := fun b => by rw [State.board, hboards, State.board]
      have hfold : (fun (p : Partition) b => p.reportFailed (s.part k).firedFrontier b (s.board b).cause)
          = fun p b => match (s.board b).cause with
            | some cause => Partition.offer (.link b (s.part k).firedFrontier (.fault cause))
              { p with sticky := p.sticky.addCause cause }
            | none => p := by
        funext p b
        cases (s.board b).cause <;> rfl
      simp only [failed, hstate, ht, respond_boards, respond_engine, respond_pool, respond_loader, respond_store,
        respond_part, respond_link, recoverBody_eq k replied hboard]
      refine ⟨hboards, hengine, hpool, hloader, hstore, fun j hj => ⟨hpart j hj, ?_⟩, fun b => recoverEnded_link_ne,
        respond_port_congr (hport k) _ _ _, fun hnone => recoverEnded_stopped hnone, fun hsome => ?_⟩
      · rw [respond_port_ne k j hj, hport j]
      · obtain ⟨hfaulted, hmuted⟩ := recoverEnded_faulted hsome
        exact ⟨hmuted, hfaulted.trans (by rw [hfold]; rfl)⟩

end Sys2Proof.Machine
end

section
/-! SUPPORT. The event queues (R92, R172, R175, R176): what the invariant says of one partition, which changes of a
partition keep it, and the operations of the pipe, of run control, of the filter and of faults in turn. -/

namespace Sys2Proof.Machine

/-! ## The queue of one partition -/

/-- The queue of a partition is as R92, R172, R175 and R176 say: what `queueInvAt` tests. -/
structure Partition.QueueSound (p : Partition) : Prop where
  atMost    : p.queue.records.length ≤ Config.queueEntries
  fullStop  : p.queue.records.length < Config.queueEntries
    ∨ ∃ step vt primary also, p.queue.records.getLast? = some (.stop step vt primary also)
  freeInRun : p.state.isRun = true → p.queue.records.length < Config.queueEntries
  drops     : p.queue.drops ≤ Config.maxDrops
  overflow  : p.queue.overflow = decide (0 < p.queue.drops)
  sticky    : p.sticky.overflow = p.queue.overflow

theorem queueInvAt_iff (s : State) (k : Slot) : queueInvAt s k = true ↔ (s.part k).QueueSound := by
  generalize hp : s.part k = p
  have hiff : queueInvAt s k = true ↔ p.queue.records.length ≤ Config.queueEntries
      ∧ (p.queue.records.length < Config.queueEntries
        ∨ ∃ step vt primary also, p.queue.records.getLast? = some (.stop step vt primary also))
      ∧ (p.state.isRun = true → p.queue.records.length < Config.queueEntries) ∧ p.queue.drops ≤ Config.maxDrops
      ∧ p.queue.overflow = decide (0 < p.queue.drops) ∧ p.sticky.overflow = p.queue.overflow := by
    rw [queueInvAt, hp]
    rcases p.queue.records.getLast? with _ | (_ | _ | _) <;> simp [and_assoc, imp_iff_not_or]
  rw [hiff]
  exact ⟨fun ⟨a, b, c, d, e, f⟩ => ⟨a, b, c, d, e, f⟩, fun ⟨a, b, c, d, e, f⟩ => ⟨a, b, c, d, e, f⟩⟩

/-- The queue of `q` is that of `p`, and `q` is in a run only when `p` is. -/
def Partition.KeepsQueue (p q : Partition) : Prop :=
  q.queue = p.queue ∧ q.sticky.overflow = p.sticky.overflow ∧ (q.state.isRun = true → p.state.isRun = true)

namespace Partition.QueueSound

variable {p q : Partition}

theorem of_keepsQueue (h : p.QueueSound) (hq : p.KeepsQueue q) : q.QueueSound := by
  obtain ⟨hqueue, hsticky, hrun⟩ := hq
  constructor
  all_goals rw [hqueue]
  · exact h.atMost
  · exact h.fullStop
  · exact fun hq => h.freeInRun (hrun hq)
  · exact h.drops
  · exact h.overflow
  · exact hsticky.trans h.sticky

/-- A record dropped is counted, with the overflow flag and OVERFLOW set (R176). -/
theorem offer_dropped {r : EventRecord} (h : p.QueueSound)
    (hfull : Config.queueEntries < p.queue.records.length + r.needs) : (p.offer r).QueueSound := by
  rw [Machine.offer_dropped hfull]
  exact ⟨h.atMost, h.fullStop, h.freeInRun, Nat.min_le_right _ _, by simp [Config.maxDrops], rfl⟩

/-- A TRIGGER or LINK record is stored only where it leaves an entry free (R175). -/
theorem offer_needs_two {r : EventRecord} (h : p.QueueSound) (hr : r.needs = 2) : (p.offer r).QueueSound := by
  by_cases hroom : p.queue.records.length + r.needs ≤ Config.queueEntries
  · have hfree : (p.queue.records ++ [r]).length < Config.queueEntries := by
      rw [List.length_append, List.length_singleton]
      omega
    rw [offer_stored hroom]
    exact ⟨hfree.le, .inl hfree, fun _ => hfree, h.drops, h.overflow, h.sticky⟩
  · exact h.offer_dropped (Nat.lt_of_not_le hroom)

/-- A STOP record may take the last entry, once the run is over (R92, R175). -/
theorem offer_stop {step vt : Nat} {primary : StopReason} {also : ReasonSet} (h : p.QueueSound)
    (hrun : p.state.isRun = false) : (p.offer (.stop step vt primary also)).QueueSound := by
  by_cases hroom : p.queue.records.length + 1 ≤ Config.queueEntries
  · rw [offer_stored hroom]
    exact ⟨by simpa using hroom, .inr ⟨step, vt, primary, also, by simp⟩, by simp [hrun], h.drops, h.overflow,
      h.sticky⟩
  · exact h.offer_dropped (Nat.lt_of_not_le hroom)

/-- Taking the oldest records leaves the youngest where it is, or frees an entry (R179). -/
theorem drop {n : Nat} (h : p.QueueSound) :
    { p with queue := { p.queue with records := p.queue.records.drop n } : Partition}.QueueSound := by
  have hle : (p.queue.records.drop n).length ≤ p.queue.records.length := by simp
  refine ⟨hle.trans h.atMost, ?_, fun hrun => hle.trans_lt (h.freeInRun hrun), h.drops, h.overflow, h.sticky⟩
  by_cases hlen : p.queue.records.length ≤ n
  · simp [List.drop_eq_nil_of_le hlen, Config.queueEntries]
  · exact h.fullStop.imp hle.trans_lt (by simp [List.getLast?_drop, hlen])

end Partition.QueueSound

/-- The queue after device reset and after OPEN is empty (R57, R172). -/
theorem Partition.queueSound_empty {p : Partition} (hqueue : p.queue = ⟨[], 0, false⟩)
    (hsticky : p.sticky.overflow = false) : p.QueueSound := by
  constructor <;> simp [hqueue, hsticky, Config.queueEntries]

/-! ## Changes of the state -/

/-- A sticky error set for a cause is never OVERFLOW (R97). -/
theorem StickyErrors.addCause_overflow (e : StickyErrors) (cause : FaultCause) :
    (e.addCause cause).overflow = e.overflow := by cases cause <;> rfl

/-- Every event queue is as R92, R172, R175 and R176 say. -/
def QueuesSound (s : State) : Prop := ∀ k : Slot, (s.part k).QueueSound

theorem queueInv_iff (s : State) : QueueInv s ↔ QueuesSound s := forall_congr' (queueInvAt_iff s)

namespace QueuesSound

variable {s t : State} {k : Slot}

/-- What leaves the partitions leaves their queues. -/
theorem of_parts (h : QueuesSound s) (ht : t.parts = s.parts) : QueuesSound t := fun k => by
  have hpart : t.part k = s.part k := by rw [State.part, ht, State.part]
  rw [hpart]
  exact h k

theorem setPart {p : Partition} (h : QueuesSound s) (hp : p.QueueSound) : QueuesSound (s.setPart k p) := fun j => by
  by_cases hj : j = k
  · rw [hj, State.setPart_part_self]
    exact hp
  · rw [State.setPart_part_ne _ _ _ _ hj]
    exact h j

theorem setPart_keeps {p : Partition} (h : QueuesSound s) (hp : (s.part k).KeepsQueue p) :
    QueuesSound (s.setPart k p) :=
  h.setPart ((h k).of_keepsQueue hp)

/-- A change of one partition that leaves its queue, and starts no run. -/
theorem updPart {f : Partition → Partition} (h : QueuesSound s) (hf : ∀ p : Partition, p.KeepsQueue (f p)) :
    QueuesSound (s.updPart k f) := h.setPart_keeps (hf _)

theorem updLink (h : QueuesSound s) (b : Board) (f : Link → Link) : QueuesSound (s.updLink b f) := h.of_parts rfl

theorem updBoard (h : QueuesSound s) (b : Board) (f : BoardRecord → BoardRecord) : QueuesSound (s.updBoard b f) :=
  h.of_parts rfl

theorem updPort (h : QueuesSound s) (f : Port → Port) : QueuesSound (s.updPort k f) := h.of_parts rfl

theorem mapLinks (h : QueuesSound s) (f : Board → Link → Link) : QueuesSound (s.mapLinks f) :=
  h.of_parts (State.mapLinks_parts s f)

theorem voidWork (h : QueuesSound s) : QueuesSound (voidWork k s) := h.of_parts rfl

theorem restLinks (h : QueuesSound s) : QueuesSound (restLinks k s) := h.mapLinks _

theorem mapParts {f : Slot → Partition → Partition} (h : QueuesSound s)
    (hf : ∀ j (p : Partition), p.KeepsQueue (f j p)) :
    QueuesSound (s.mapParts f) := fun j => by
  rw [State.mapParts_part]
  exact (h j).of_keepsQueue (hf j _)

/-! ## Records and responses -/

theorem offerRecord {r : EventRecord} (h : QueuesSound s) (hr : r.needs = 2) : QueuesSound (offerRecord k r s) := by
  rw [offerRecord_eq]
  exact h.setPart ((h k).offer_needs_two hr)

theorem offerLink (h : QueuesSound s) (b : Board) (e : LinkEvent) : QueuesSound (offerLink k b e s) := h.offerRecord rfl

/-- The STOP record is offered once the run is over (R90, R98). -/
theorem offerStop (h : QueuesSound s) (hrun : (s.part k).state.isRun = false) : QueuesSound (offerStop k s) := by
  unfold Machine.offerStop Partition.stopRecord
  cases (s.part k).stop with
  | none => exact h
  | some point => exact h.setPart ((h k).offer_stop hrun)

theorem respond (h : QueuesSound s) (status : Status) (clamped : Bool) (body : List Byte) :
    QueuesSound (respond k status clamped body s) := h.of_parts rfl

theorem refuse (h : QueuesSound s) (status : Status) : QueuesSound (refuse k status s) := h.of_parts rfl

theorem whenOpen {f : State → State} (h : QueuesSound s) (hf : QueuesSound (f s)) : QueuesSound (whenOpen k f s) := by
  unfold Machine.whenOpen
  split
  · exact h.refuse _
  · exact hf

theorem whenStopped {f : State → State} (h : QueuesSound s) (hf : QueuesSound (f s)) :
    QueuesSound (whenStopped k f s) := by
  rcases whenStopped_cases k f s with heq | heq | ⟨_, heq⟩ <;> rw [heq]
  · exact h.refuse _
  · exact h.refuse _
  · exact hf

theorem recompute (h : QueuesSound s) : QueuesSound (recompute k s) := h.updPart fun _ => ⟨rfl, rfl, id⟩

theorem engineSelect (h : QueuesSound s) : QueuesSound (engineSelect s) := by
  rcases engineSelect_cases s with heq | ⟨j, _, _, heq⟩ <;> rw [heq]
  · exact h
  · exact h.of_parts rfl

/-! ## The pipe and stops -/

theorem tryFire (h : QueuesSound s) : QueuesSound (tryFire k s) := by
  rcases tryFire_cases k s with heq | ⟨e, _, heq⟩ <;> rw [heq]
  · exact h
  · unfold fire
    refine mapLinks (updPart h fun _ => ?_) _
    exact ⟨rfl, rfl, id⟩

theorem checkStop (h : QueuesSound s) : QueuesSound (checkStop k s) := by
  rcases checkStop_cases k s with heq | ⟨_, heq⟩ <;> rw [heq]
  · exact h
  · have hstopped : QueuesSound ((Machine.voidWork k s).updPart k fun p => { p with state := .stopped }) :=
      updPart h.voidWork fun _ => ⟨rfl, rfl, fun hrun => nomatch hrun⟩
    unfold enterStopped
    exact offerStop (restLinks hstopped) (by simp [PartState.isRun])

theorem advance (h : QueuesSound s) : QueuesSound (advance k s) := h.tryFire.checkStop

theorem rewind (h : QueuesSound s) (n : Nat) : QueuesSound (rewind k n s) := by
  unfold Machine.rewind
  refine mapLinks (voidWork (updPart h fun _ => ?_)) _
  exact ⟨rfl, rfl, id⟩

theorem retire (h : QueuesSound s) : QueuesSound (retire k s) := by
  unfold Machine.retire
  exact updPart h fun _ => ⟨rfl, rfl, id⟩

theorem markAcked (h : QueuesSound s) (b : Board) (n : Nat) : QueuesSound (markAcked k b n s) := by
  unfold Machine.markAcked
  exact tryFire (updPart h fun _ => ⟨rfl, rfl, id⟩)

theorem markDone (h : QueuesSound s) (b : Board) (n : Nat) : QueuesSound (markDone k b n s) := by
  unfold Machine.markDone
  exact updPart h fun _ => ⟨rfl, rfl, id⟩

theorem appendStep (h : QueuesSound s) (n time : Nat) (changed level : ClockMask) (post : Snapshot) :
    QueuesSound (appendStep k n time changed level post s) := by
  unfold Machine.appendStep
  refine mapLinks (updPart h fun _ => ?_) _
  exact ⟨rfl, rfl, id⟩

theorem offerGroupStop (h : QueuesSound s) : QueuesSound (offerGroupStop k s) := by
  unfold Machine.offerGroupStop
  split
  · exact h
  · refine h.mapParts fun j p => ?_
    split <;> exact ⟨rfl, rfl, id⟩

/-- A stop point takes RUNNING to STOPPING, which is a run state too (R85). -/
theorem setStopPoint (h : QueuesSound s) (n : Nat) (r : StopReason) : QueuesSound (setStopPoint k n r s) := by
  have hset : QueuesSound (s.updPart k fun p =>
      { p with stop := some ⟨n, r⟩,
               also := (match p.stop with
                 | some point => p.also.add point.primary.name
                 | none => p.also),
               state := if p.state = .running then .stopping else p.state }) :=
    h.updPart fun p => ⟨rfl, rfl, fun hrun => by
      cases hst : p.state <;> simp_all [PartState.isRun]⟩
  unfold Machine.setStopPoint
  dsimp only
  split <;> split
  · exact (hset.rewind n).offerGroupStop
  · exact hset.offerGroupStop
  · exact hset.rewind n
  · exact hset

theorem candidate (h : QueuesSound s) (n : Nat) (r : StopReason) : QueuesSound (candidate k n r s) := by
  cases hrun : (s.part k).state.isRun with
  | false => rwa [candidate_not_run hrun]
  | true =>
    rcases candidate_run (n := n) (r := r) hrun with heq | ⟨point, _, _, heq⟩ <;> rw [heq]
    · exact h.setStopPoint n r
    · exact h.updPart fun _ => ⟨rfl, rfl, id⟩

theorem takeGroupStop (h : QueuesSound s) : QueuesSound (takeGroupStop k s) := by
  unfold Machine.takeGroupStop
  split
  · exact (h.candidate _ _).advance
  · exact (h.candidate _ _).advance
  · exact h.updPart fun _ => ⟨rfl, rfl, id⟩
  all_goals exact h

theorem offerFinding (h : QueuesSound s) (n : Nat) (r : StopReason) : QueuesSound (offerFinding k n r s) := by
  unfold Machine.offerFinding
  refine candidate (updPart h fun _ => ?_) n r
  exact ⟨rfl, rfl, id⟩

theorem runLimitFinding (h : QueuesSound s) : QueuesSound (runLimitFinding k s) := by
  unfold Machine.runLimitFinding
  dsimp only
  split
  · exact h.offerFinding _ _
  · exact h

/-- A run starts with an entry free (R76, R92). -/
theorem startRun (h : QueuesSound s) (hroom : (s.part k).queue.records.length < Config.queueEntries) :
    QueuesSound (startRun k s) := by
  obtain ⟨hle, hfull, _, hdrops, hoverflow, hsticky⟩ := h k
  exact h.setPart ⟨hle, hfull, fun _ => hroom, hdrops, hoverflow, hsticky⟩

theorem endAtStart (h : QueuesSound s) : QueuesSound (endAtStart k s) := by
  unfold Machine.endAtStart
  dsimp only
  split
  · exact (h.candidate _ _).runLimitFinding.advance
  · exact h.runLimitFinding.advance

/-! ## Triggers -/

theorem countReport (h : QueuesSound s) (r : TriggerReport) : QueuesSound (countReport k r s) := by
  have hcounted (n : Nat) : QueuesSound (s.updPart k fun p => { p with filter := { p.filter with counter := n } }) :=
    h.updPart fun _ => ⟨rfl, rfl, id⟩
  unfold Machine.countReport
  dsimp only
  split
  · exact (hcounted _).candidate _ _
  · exact hcounted _

theorem takeReport (h : QueuesSound s) (r : TriggerReport) : QueuesSound (takeReport k r s) := by
  have hcounted : QueuesSound (if (s.part k).filter.qualifies r.id then Machine.countReport k r s else s) := by
    split
    · exact h.countReport r
    · exact h
  unfold Machine.takeReport
  dsimp only
  generalize (if (s.part k).filter.qualifies r.id then Machine.countReport k r s else s) = u at hcounted ⊢
  split
  · exact hcounted.offerRecord rfl
  · exact hcounted

/-! ## Faults -/

theorem addCause (h : QueuesSound s) (cause : FaultCause) :
    QueuesSound (s.updPart k fun p => { p with sticky := p.sticky.addCause cause }) :=
  h.updPart fun p => ⟨rfl, p.sticky.addCause_overflow cause, id⟩

theorem dropClaimed (h : QueuesSound s) (b : Board) (cause : FaultCause) : QueuesSound (dropClaimed k b cause s) := by
  unfold Machine.dropClaimed
  refine offerLink (recompute ?_) b (.fault cause)
  exact h.of_parts rfl

theorem endSync (h : QueuesSound s) (b : Board) : QueuesSound (endSync k b s) := by
  have hfailed := (h.of_parts (t := failBoard b .timeout s) rfl).addCause (k := k) .timeout
  unfold Machine.endSync
  dsimp only
  split
  · split
    · exact hfailed.dropClaimed b .timeout
    · exact hfailed.of_parts rfl
  · exact h

theorem muteBoards (h : QueuesSound s) : QueuesSound (muteBoards k s) := h.mapLinks _

theorem muteOnFault (h : QueuesSound s) : QueuesSound (muteOnFault k s) := by
  unfold Machine.muteOnFault
  exact muteBoards (forBoards_keeps (P := QueuesSound) (fun b _ hs => hs.endSync b) _ s h)

theorem enterFaulted (h : QueuesSound s) (cause : FaultCause) : QueuesSound (enterFaulted k cause s) := by
  unfold Machine.enterFaulted
  refine voidWork (updPart h fun p => ?_)
  exact ⟨rfl, p.sticky.addCause_overflow cause, fun hrun => nomatch hrun⟩

theorem faultInRun (h : QueuesSound s) (b : Board) (cause : FaultCause) : QueuesSound (faultInRun k b cause s) := by
  unfold Machine.faultInRun
  dsimp only
  refine muteOnFault (offerGroupStop (offerStop (enterFaulted ?_ cause) ?_))
  · exact updPart h fun _ => ⟨rfl, rfl, id⟩
  · simp [Machine.enterFaulted, PartState.isRun]

theorem faultInStopped (h : QueuesSound s) (b : Board) (cause : FaultCause) :
    QueuesSound (faultInStopped k b cause s) :=
  (((h.of_parts (t := noteResetFailed k b s) rfl).enterFaulted cause).offerLink b _).offerGroupStop.muteOnFault

theorem boardFault (h : QueuesSound s) (b : Board) (cause : FaultCause) : QueuesSound (boardFault b cause s) := by
  have hfailed := h.of_parts (t := failBoard b cause s) rfl
  unfold Machine.boardFault
  dsimp only
  split
  · exact hfailed
  · split
    iterate 3 exact hfailed.faultInRun b cause
    · split
      · exact hfailed.dropClaimed b cause
      · exact hfailed.faultInStopped b cause
    · split
      · exact hfailed
      · exact hfailed.addCause cause
    · exact hfailed

end QueuesSound

end Sys2Proof.Machine
end

section
/-! SUPPORT. The event queues through the frames of the boards, receive errors, timeouts and the ends of exchanges. -/

namespace Sys2Proof.Machine

namespace QueuesSound

variable {s : State} {k : Slot}

/-! ## Frames received -/

theorem outOfSequence (h : QueuesSound s) (b : Board) : QueuesSound (outOfSequence b s) := by
  unfold Machine.outOfSequence
  split
  · exact h
  · exact h.boardFault b .sequence

theorem ignoreFrame (h : QueuesSound s) (b : Board) : QueuesSound (ignoreFrame b s) := h.of_parts rfl

theorem advanceOwner (h : QueuesSound s) (b : Board) : QueuesSound (advanceOwner b s) := by
  unfold Machine.advanceOwner
  split
  · exact h.advance
  · exact h

theorem ackInPipe (h : QueuesSound s) (b : Board) (a : Nat) : QueuesSound (ackInPipe b a s) := by
  unfold Machine.ackInPipe
  split
  · exact h.markAcked b a
  · exact h

theorem doneInPipe (h : QueuesSound s) (b : Board) (d : Nat) (report : Option (TriggerId × Option (BitVec 32))) :
    QueuesSound (doneInPipe b d report s) := by
  unfold Machine.doneInPipe
  split
  · exact h
  · dsimp only
    split
    · exact ((h.markDone b d).takeReport _).retire
    · exact (h.markDone b d).retire

theorem judgeArmAck (h : QueuesSound s) (b : Board) (tag : Tag) : QueuesSound (judgeArmAck b tag s) := by
  unfold Machine.judgeArmAck
  dsimp only
  split
  · split
    · exact (h.updLink b _).ackInPipe b _
    · split
      · exact h.ignoreFrame b
      · exact h.outOfSequence b
  · split
    · exact h.ignoreFrame b
    · exact h.outOfSequence b

theorem judgeArmNak (h : QueuesSound s) (b : Board) (tag : Tag) : QueuesSound (judgeArmNak b tag s) := by
  unfold Machine.judgeArmNak
  dsimp only
  split
  · exact h.ignoreFrame b
  · split
    · split
      · split
        · exact (h.updLink b _).boardFault b .retries
        · exact (h.updLink b _).updLink b _
      · exact h.outOfSequence b
    · exact h.outOfSequence b

theorem judgeDone (h : QueuesSound s) (b : Board) (tag : Tag) (trigger : Option TriggerId)
    (stamp : Option (BitVec 32)) : QueuesSound (judgeDone b tag trigger stamp s) := by
  unfold Machine.judgeDone
  dsimp only
  split
  · split
    · exact ((h.updLink b _).doneInPipe b _ _).advanceOwner b
    · split
      · exact h.ignoreFrame b
      · exact h.outOfSequence b
  · split
    · exact h.ignoreFrame b
    · exact h.outOfSequence b

theorem judgeFlushAck (h : QueuesSound s) (b : Board) (tag : Tag) : QueuesSound (judgeFlushAck b tag s) := by
  unfold Machine.judgeFlushAck
  split
  · exact (h.updLink b _).advanceOwner b
  · exact h.outOfSequence b

theorem statusAcks (b : Board) : ∀ (n : Nat) {s : State}, QueuesSound s → QueuesSound (statusAcks b n s)
  | 0, _, h => h
  | n + 1, s, h => by
    unfold Machine.statusAcks
    split
    · exact statusAcks b n ((h.updLink b _).ackInPipe b _)
    · exact h

theorem statusDones (b : Board) (trigger : Option (Tag × TriggerId)) :
    ∀ (n : Nat) {s : State}, QueuesSound s → QueuesSound (statusDones b trigger n s)
  | 0, _, h => h
  | n + 1, s, h => by
    unfold Machine.statusDones
    split
    · exact statusDones b trigger n ((h.updLink b _).doneInPipe b _ _)
    · exact h

theorem finishStatus (h : QueuesSound s) (b : Board) (progress : Bool) : QueuesSound (finishStatus b progress s) := by
  unfold Machine.finishStatus
  lift_lets
  extract_lets n a unsent reported
  have hunsent : QueuesSound unsent := by
    unfold unsent
    split
    · exact h
    · exact h.updLink b _
  have hreported : QueuesSound reported := by
    unfold reported
    split
    · exact hunsent.offerLink b .pollRecovered
    · exact hunsent
  split
  · exact hunsent.boardFault b .retries
  · exact (hreported.updLink b _).advanceOwner b

theorem reconcile (h : QueuesSound s) (b : Board) (armed acks dones : Nat) (trigger : Option (Tag × TriggerId)) :
    QueuesSound (reconcile b armed acks dones trigger s) := by
  unfold Machine.reconcile
  dsimp only
  exact finishStatus (updLink (statusDones b trigger dones (statusAcks b acks (h.updLink b _))) b _) b _

theorem judgeStatus (h : QueuesSound s) (b : Board) (armed done' : Tag) (trigger : Option (Tag × TriggerId)) :
    QueuesSound (judgeStatus b armed done' trigger s) := by
  unfold Machine.judgeStatus
  dsimp only
  split
  · split
    · split
      · exact h.reconcile b _ _ _ trigger
      · exact h.boardFault b .sequence
    · exact h.boardFault b .sequence
  · exact h

theorem judgeSyncAck (h : QueuesSound s) (b : Board) (tag : Tag) : QueuesSound (judgeSyncAck b tag s) := by
  unfold Machine.judgeSyncAck
  split
  · exact (h.updBoard b _).updLink b _
  · exact h.boardFault b .sequence

theorem noteProbe (h : QueuesSound s) (b : Board) (answered : Bool) : QueuesSound (noteProbe b answered s) :=
  h.of_parts (noteProbe_frame b answered s).2.2

theorem syncBoard (h : QueuesSound s) (b : Board) (next : Nat) (level : ClockMask) :
    QueuesSound (syncBoard b next level s) := (h.updBoard b _).updLink b _

theorem breakBoard (h : QueuesSound s) (b : Board) : QueuesSound (breakBoard b s) := (h.updBoard b _).updLink b _

theorem takeProbeReply (h : QueuesSound s) (b : Board) (id : BitVec 16) (depth : Byte) :
    QueuesSound (takeProbeReply b id depth s) := by
  unfold Machine.takeProbeReply
  dsimp only
  split
  · exact (((h.updBoard b _).updLink b _).updBoard b _).noteProbe b true
  · exact (((h.updBoard b _).updLink b _).syncBoard b _ _).updPort _

theorem judgeFrame (h : QueuesSound s) (b : Board) (f : UpFrame) : QueuesSound (judgeFrame b f s) := by
  have hbound : QueuesSound (judgeBound b f s) := by
    cases f with
    | armAck tag => exact h.judgeArmAck b tag
    | armNak tag cause => exact h.judgeArmNak b tag
    | done tag trigger stamp => exact h.judgeDone b tag trigger stamp
    | flushAck tag => exact h.judgeFlushAck b tag
    | syncAck tag => exact h.outOfSequence b
    | status armed finished trigger => exact h.judgeStatus b armed finished trigger
    | probeReply id depth => exact h
  unfold Machine.judgeFrame
  split
  · exact h
  · split
    · exact h.takeProbeReply b _ _
    · exact h
    · exact h.judgeSyncAck b _
    · exact h
    · exact hbound
    all_goals exact h

theorem receiveError (h : QueuesSound s) (b : Board) (e : RxError) : QueuesSound (receiveError b e s) := by
  have hcounted := h.updBoard b fun r => { r with counters := r.counters.bump e }
  unfold Machine.receiveError
  dsimp only
  split
  · exact h
  · split
    · exact hcounted
    · split
      · exact (hcounted.offerLink b _).updLink b _
      · exact hcounted.offerLink b _

theorem handleRx (b : Board) :
    ∀ (events : List RxEvent) {s : State}, QueuesSound s → QueuesSound (handleRx b events s)
  | [], _, h => h
  | .error e :: rest, s, h => handleRx b rest (h.receiveError b e)
  | .frame bytes :: rest, s, h => by
    refine handleRx b rest ?_
    split
    · exact h.judgeFrame b _
    · exact h

theorem receiveChars (b : Board) :
    ∀ (chars : List LineChar) {s : State}, QueuesSound s → QueuesSound (receiveChars b chars s)
  | [], _, h => h
  | _ :: cs, _, h => receiveChars b cs (handleRx b _ (h.updLink b _))

theorem receiveSamples (h : QueuesSound s) (b : Board) (samples : List Bool) :
    QueuesSound (receiveSamples b samples s) := receiveChars b _ (h.updLink b _)

theorem receiveFrame (h : QueuesSound s) (b : Board) (f : UpFrame) : QueuesSound (receiveFrame b f s) := by
  unfold Machine.receiveFrame
  refine judgeFrame (updLink ?_ b _) b f
  split
  · exact h.receiveError b .length
  all_goals exact h

theorem expire (h : QueuesSound s) (b : Board) : QueuesSound (expire b s) := by
  unfold Machine.expire
  split
  · split
    · exact ((h.updBoard b _).updLink b _).noteProbe b false
    · exact h.boardFault b .timeout
  · exact h.boardFault b .timeout
  · split
    · exact h.boardFault b .timeout
    · exact h.updLink b _
  all_goals exact h.updLink b _

/-! ## Exchanges -/

theorem endClaim (h : QueuesSound s) (fresh already failed : BoardMask) :
    QueuesSound (endClaim k fresh already failed s) := by
  unfold Machine.endClaim
  refine respond (updPart h fun _ => ?_) _ _ _
  exact ⟨rfl, rfl, id⟩

theorem endTimeReset (h : QueuesSound s) (failed : BoardMask) : QueuesSound (endTimeReset k failed s) := by
  unfold Machine.endTimeReset
  refine respond (updPart h fun _ => ?_) _ _ _
  exact ⟨rfl, rfl, id⟩

theorem reportFailed (h : QueuesSound s) (b : Board) : QueuesSound (reportFailed k b s) := by
  unfold Machine.reportFailed
  split
  · exact (h.addCause _).offerLink b _
  · exact h

/-- The end of a RECOVER starts no run (R103). -/
theorem endRecover (h : QueuesSound s) (replied : BoardMask) : QueuesSound (endRecover k replied s) := by
  have hnoted : QueuesSound ((Machine.recompute k s).updPart k fun p => { p with syncPending := false }) :=
    updPart h.recompute fun _ => ⟨rfl, rfl, id⟩
  unfold Machine.endRecover
  dsimp only
  refine respond ?_ _ _ _
  split
  · refine restLinks (updPart hnoted fun _ => ?_)
    exact ⟨rfl, rfl, fun hrun => nomatch hrun⟩
  · exact muteBoards (forBoards_keeps (P := QueuesSound) (fun b _ hs => hs.reportFailed b) _ _ hnoted)

theorem settlePort (h : QueuesSound s) : QueuesSound (settlePort k s) := by
  unfold Machine.settlePort
  split
  · split
    · exact h.endClaim _ _ _
    · exact h
  · split
    · exact h.endTimeReset _
    · exact h
  · split
    · exact h.endRecover _
    · exact h
  · split
    · exact h.respond _ _ _
    · exact h
  all_goals exact h

theorem settleStartUp (h : QueuesSound s) : QueuesSound (settleStartUp s) := by
  unfold Machine.settleStartUp
  split
  · exact h.of_parts rfl
  · exact h

theorem settle (h : QueuesSound s) : QueuesSound (settle s) := by
  unfold Machine.settle settleExchanges
  exact h.settlePort.settlePort.settlePort.settlePort.settleStartUp.engineSelect

end QueuesSound

end Sys2Proof.Machine
end

section
/-! SUPPORT. The event queues through the work of the requests, of the engine, of the ports, of the store and of
start-up. -/

namespace Sys2Proof.Machine

namespace QueuesSound

variable {s : State} {k : Slot}

/-! ## Clocks, partitions and boards -/

theorem updFired (h : QueuesSound s) (f : Snapshot → Snapshot) : QueuesSound (s.updFired k f) := by
  unfold State.updFired
  exact updPart h fun _ => ⟨rfl, rfl, id⟩

/-- A clock request is refused, or does what it does with the clock it names (R14). -/
theorem withClock {f : LocalNo → ClockEntry → State → State} (h : QueuesSound s) (localNo : Byte)
    (hf : ∀ n e, QueuesSound (f n e s)) : QueuesSound (withClock k localNo f s) := by
  unfold Machine.withClock
  split
  · exact h.refuse _
  · split
    · exact h.refuse _
    · exact hf _ _

theorem clockRequest {f : LocalNo → ClockEntry → State → State} (h : QueuesSound s) (localNo : Byte)
    (hf : ∀ n e, QueuesSound (f n e s)) : QueuesSound (clockRequest k localNo f s) :=
  h.whenStopped (h.withClock localNo hf)

theorem setClock (h : QueuesSound s) (n : LocalNo) (f : ClockEntry → ClockEntry) : QueuesSound (setClock k n f s) :=
  (h.updFired _).respond _ _ _

theorem placeClock (h : QueuesSound s) (n : LocalNo) (d : Definition) (i : Fin 48) :
    QueuesSound (placeClock k n d i s) := (h.of_parts (State.setRecord_parts s i _)).updFired _

theorem defineClock (h : QueuesSound s) (n : LocalNo) (d : Definition) : QueuesSound (defineClock k n d s) := by
  unfold Machine.defineClock
  split
  · exact h.refuse _
  · exact (h.placeClock n d _).respond _ _ _

theorem removeClock (h : QueuesSound s) (n : LocalNo) : QueuesSound (removeClock k n s) := by
  unfold Machine.removeClock
  refine updFired ?_ _
  split
  · exact h.of_parts (State.setRecord_parts s _ _)
  · exact h

theorem applyPreset (h : QueuesSound s) (p : Preset) : QueuesSound (applyPreset k p s).1 := by
  unfold Machine.applyPreset
  dsimp only
  split
  · exact h
  · split
    · split
      · exact h.placeClock _ _ _
      · exact (h.placeClock _ _ _).updFired _
    · exact h.placeClock _ _ _

theorem continueOpen (h : QueuesSound s) (todo : List Preset) (applied notEnabled skipped : Nat)
    (clamped : List Preset) : QueuesSound (continueOpen k todo applied notEnabled skipped clamped s) := by
  unfold Machine.continueOpen
  split
  · exact h.of_parts rfl
  · exact h.updPort _

theorem openNext (h : QueuesSound s) : QueuesSound (openNext k s) := by
  unfold Machine.openNext
  split
  · dsimp only
    split <;> exact (h.applyPreset _).continueOpen _ _ _ _ _
  · exact h

theorem resetTime (h : QueuesSound s) : QueuesSound (resetTime k s) := by
  unfold Machine.resetTime
  exact updPart h fun _ => ⟨rfl, rfl, id⟩

/-- OPEN leaves an empty queue (R57, R172). -/
theorem openSlot (h : QueuesSound s) (defaults : Settings) : QueuesSound (s.setPart k (Partition.opened defaults)) :=
  h.setPart (Partition.queueSound_empty rfl rfl)

theorem changeBoards (h : QueuesSound s) (test : Board → Bool) (f : BoardRecord → BoardRecord) (g : Link → Link) :
    QueuesSound (s.changeBoards test f g) := h.of_parts (State.changeBoards_parts s test f g)

theorem releaseSet (h : QueuesSound s) (set : BoardMask) : QueuesSound (releaseSet set s) := by
  rw [releaseSet_eq]
  exact h.changeBoards _ _ _

/-- CLOSE empties the queue and leaves its drop count (R60). -/
theorem closePartition (h : QueuesSound s) : QueuesSound (closePartition k s) := fun j => by
  by_cases hj : j = k
  · rw [hj, closePartition_part_self]
    refine ⟨Nat.zero_le _, .inl ?_, (fun hrun => nomatch hrun), (h k).drops, (h k).overflow, (h k).sticky⟩
    exact (by decide : 0 < Config.queueEntries)
  · rw [closePartition_part_ne k s hj]
    exact h j

theorem takeClaim (h : QueuesSound s) (set : BoardMask) : QueuesSound (takeClaim k set s) := by
  by_cases hfresh : set &&& ~~~(s.ownedMask k) = 0
  · rw [takeClaim_owned hfresh]
    exact h.respond _ _ _
  · rw [takeClaim_fresh hfresh]
    unfold claimBegun boardsClaimed
    refine of_parts (recompute (setPart_keeps (h.changeBoards _ _ _) ?_)) (State.setPort_parts _ _ _)
    rw [State.changeBoards_part]
    exact ⟨rfl, rfl, id⟩

theorem takeRelease (h : QueuesSound s) (set : BoardMask) : QueuesSound (takeRelease k set s) := by
  unfold Machine.takeRelease
  dsimp only
  split
  · exact h.respond _ _ _
  · exact (h.releaseSet set).recompute.respond _ _ _

theorem takeJoin (h : QueuesSound s) (g : Group) : QueuesSound (takeJoin k g s) := by
  unfold Machine.takeJoin
  dsimp only
  split
  · exact h.refuse _
  · refine respond (updPart h fun _ => ?_) _ _ _
    exact ⟨rfl, rfl, id⟩

/-! ## Run control -/

theorem takeRun (h : QueuesSound s) (hready : runRefusal k s = none) : QueuesSound (takeRun k s) := by
  obtain ⟨-, -, -, hroom⟩ := runRefusal_eq_none.1 hready
  unfold Machine.takeRun
  exact ((h.startRun hroom).respond _ _ _).endAtStart.engineSelect

theorem engineSelectFree (h : QueuesSound s) : QueuesSound (engineSelectFree s) := by
  unfold Machine.engineSelectFree
  split
  · exact h
  · split <;> exact h.of_parts rfl

/-- Every member of a group starts with an entry free (R79, R92). -/
theorem takeGroupRun {g : Group} (h : QueuesSound s) (hg : (s.part k).group = some g)
    (hready : ∀ j, (s.part j).group = some g → memberReady j s = true) : QueuesSound (takeGroupRun k s) := by
  have hstarted : QueuesSound (groupStarted g s) := fun j => by
    rw [groupStarted, State.mapParts_part]
    split
    · rename_i hj
      have hmember := hready j hj
      rw [memberReady_iff, decide_eq_true_iff] at hmember
      obtain ⟨-, -, -, -, hroom, -⟩ := hmember
      exact ⟨(h j).atMost, (h j).fullStop, fun _ => hroom, (h j).drops, (h j).overflow, (h j).sticky⟩
    · exact h j
  rw [takeGroupRun_eq hg]
  refine engineSelectFree (forSlots_keeps (P := QueuesSound) (fun _ _ hs => hs.endAtStart) _ _ ?_)
  exact hstarted.respond _ _ _

theorem takePause (h : QueuesSound s) (hrun : (s.part k).state = .running) :
    QueuesSound (s.updPart k fun p => { p with state := .paused }) :=
  h.setPart_keeps ⟨rfl, rfl, fun _ => by rw [hrun]; rfl⟩

theorem takeResume (h : QueuesSound s) (hpaused : (s.part k).state = .paused) : QueuesSound (takeResume k s) := by
  unfold Machine.takeResume
  refine engineSelect (advance (respond (setPart_keeps h ?_) _ _ _))
  exact ⟨rfl, rfl, fun _ => by rw [hpaused]; rfl⟩

theorem takeStop (h : QueuesSound s) : QueuesSound (takeStop k s) := by
  unfold Machine.takeStop
  refine engineSelect (respond (advance (updPart (h.candidate _ _) fun p => ?_)) _ _ _)
  refine ⟨rfl, rfl, fun hrun => ?_⟩
  by_cases hpaused : p.state = .paused
  · rw [hpaused]
    rfl
  · rwa [if_neg hpaused] at hrun

theorem takeRecover (h : QueuesSound s) : QueuesSound (takeRecover k s) := by
  have hpending : QueuesSound (s.updPart k fun p => { p with syncPending := true }) :=
    updPart h fun _ => ⟨rfl, rfl, id⟩
  unfold Machine.takeRecover
  dsimp only
  split
  · exact hpending.endRecover 0
  · exact (forBoards_keeps (P := QueuesSound) (fun b _ hs => hs.breakBoard b) _ _ hpending).updPort _

/-- CLEAR_ERRORS clears the drop count with its flag and OVERFLOW (R104). -/
theorem clearErrors (h : QueuesSound s) : QueuesSound (s.updPart k fun p =>
    { p with sticky := {}, queue := { p.queue with drops := 0, overflow := false } }) :=
  h.setPart ⟨(h k).atMost, (h k).fullStop, (h k).freeInRun, Nat.zero_le _, rfl, rfl⟩

theorem judgeResult (h : QueuesSound s) (w : WorkItem) : QueuesSound (judgeResult w s) := by
  unfold Machine.judgeResult
  dsimp only
  split
  · split
    · split
      · exact (h.appendStep _ _ _ _ _).runLimitFinding.advance
      · exact h
    all_goals exact (h.offerFinding _ _).advance
  · exact h

theorem endComputation (h : QueuesSound s) : QueuesSound (endComputation s) := by
  unfold Machine.endComputation
  split
  · exact h
  · refine engineSelect (judgeResult ?_ _)
    exact h.of_parts rfl

theorem nextGroupStop (h : QueuesSound s) : QueuesSound (nextGroupStop k s) := by
  unfold Machine.nextGroupStop
  split
  · exact h
  · refine engineSelect (takeGroupStop (updPart h fun _ => ?_))
    exact ⟨rfl, rfl, id⟩

theorem expireGap (h : QueuesSound s) : QueuesSound (expireGap k s) := by
  unfold Machine.expireGap
  split
  · exact h
  · refine engineSelect (advance (updPart h fun _ => ?_))
    exact ⟨rfl, rfl, id⟩

/-! ## The filter and the events -/

theorem updFilter (h : QueuesSound s) (f : Filter → Filter) : QueuesSound (s.updFilter k f) := by
  unfold State.updFilter
  exact updPart h fun _ => ⟨rfl, rfl, id⟩

theorem takeHash (h : QueuesSound s) (enable : Byte) (change : BitVec 64 → BitVec 64) :
    QueuesSound (takeHash k enable change s) := by
  unfold Machine.takeHash
  exact (h.updFilter _).respond _ _ _

theorem takeEvents (h : QueuesSound s) (count : Byte) : QueuesSound (takeEvents k count s) := by
  unfold Machine.takeEvents
  exact respond (setPart h (h k).drop) _ _ _

/-! ## Links, ports, the store and start-up -/

theorem expireResponse (h : QueuesSound s) (b : Board) : QueuesSound (expireResponse b s) := by
  unfold Machine.expireResponse
  split
  · exact (h.expire b).settle
  all_goals exact h

theorem handOver (h : QueuesSound s) (r : Request) : QueuesSound (handOver k r s) := by
  unfold Machine.handOver
  dsimp only
  split
  · exact (h.updPort _).whenOpen ((h.updPort _).refuse _)
  · exact h.updPort _

theorem endRequestFrame (h : QueuesSound s) : QueuesSound (endRequestFrame k s) := by
  have hrisen := h.updPort (k := k) fun p => { p with transaction := .none, inactivity := false }
  unfold Machine.endRequestFrame
  split
  · unfold judgeRequest
    dsimp only
    split_ifs
    · exact hrisen.refuse _
    · exact hrisen.refuse _
    · split
      · exact hrisen.handOver _
      · exact hrisen.refuse _
    · exact hrisen.refuse _
  · exact h

theorem transact (h : QueuesSound s) (b : Byte) (dataIn : List Bool) : QueuesSound (transact k b dataIn s) := by
  rw [transact_eq]
  exact h.updPort _

theorem storeRequest (h : QueuesSound s) (valid : Bool) (op : StoreOp) : QueuesSound (storeRequest k valid op s) := by
  unfold Machine.storeRequest
  split_ifs
  · exact h.of_parts rfl
  · exact h.refuse _
  · exact h.refuse _

theorem endStoreOp (h : QueuesSound s) (status : Status) (body : List Byte) :
    QueuesSound (endStoreOp k status body s) := h.of_parts rfl

theorem endLoading (h : QueuesSound s) (status : StoreStatus) (skipped : Nat) (defaults : Settings) (mask : BoardMask)
    (presets : List Preset) : QueuesSound (endLoading status skipped defaults mask presets s) := by
  unfold Machine.endLoading
  refine settleStartUp (forBoards_keeps (P := QueuesSound) (fun b _ hs => hs.breakBoard b) _ _ ?_)
  exact h.of_parts rfl

theorem loadRead (h : QueuesSound s) (n : Nat) : QueuesSound (loadRead n s) := by
  unfold Machine.loadRead
  split
  · unfold loadBytes
    dsimp only
    split
    · split_ifs
      · exact h.of_parts rfl
      · exact h.of_parts rfl
      · exact h.endLoading _ _ _ _ _
    · split
      · exact h.endLoading _ _ _ _ _
      · exact h.of_parts rfl
  · exact h

theorem failAccess (h : QueuesSound s) : QueuesSound (failAccess s) := by
  unfold Machine.failAccess
  split
  · exact h.endLoading _ _ _ _ _
  · split
    · exact h.endStoreOp _ _
    · exact h.of_parts rfl
    · exact h

theorem completeRead (h : QueuesSound s) : QueuesSound (completeRead s) := by
  unfold Machine.completeRead
  split
  · exact h.endStoreOp _ _
  all_goals exact h

theorem completeWrite (h : QueuesSound s) : QueuesSound (completeWrite s) := by
  unfold Machine.completeWrite
  split
  · exact h.of_parts rfl
  all_goals exact h

/-- After device reset every queue is empty (R172, R201). -/
theorem afterReset (held : Bool) (s : State) : QueuesSound (afterReset held s) := fun k => by
  have hpart : (Machine.afterReset held s).part k = Partition.reset := by
    simp [Machine.afterReset, State.part, State.reset]
  rw [hpart]
  exact Partition.queueSound_empty rfl rfl

end QueuesSound

end Sys2Proof.Machine
end

section
/-! SUPPORT. The event queues through every command, and the statement about every step. -/

namespace Sys2Proof.Machine

/-! ## The commands -/

/-- Whatever state a command answers satisfies `P`. -/
def Answers (P : State → Prop) (r : Result) : Prop := ∀ t, r = .next t → P t

section
variable {P : State → Prop} {s t : State}

theorem answers_next (h : P t) : Answers P (.next t) := fun _ heq => Host.Outcome.next.inj heq ▸ h

theorem answers_act {f : State → State} (h : P s) (hf : P (f s)) : Answers P (act f s) := by
  rw [act_eq]
  split
  · exact answers_next h
  · exact answers_next hf

theorem answers_take {k : Slot} {r : Request} {f : State → State} (h : P s) (hf : P (f s)) :
    Answers P (take k r f s) := by
  rcases take_cases k r f s with ⟨_, heq⟩ | heq <;> rw [heq]
  · exact answers_next hf
  · exact answers_next h

end

namespace QueuesSound

variable {s : State}

/-- A command that changes one link. -/
theorem act_updLink (h : QueuesSound s) (b : Board) (f : State → Link → Link) :
    Answers QueuesSound (act (fun s => s.updLink b (f s)) s) := answers_act h (h.updLink b (f s))

/-- A command that changes one port, in a transaction (R183). -/
theorem act_transact (h : QueuesSound s) (k : Slot) (b : Byte) (dataIn : List Bool) :
    Answers QueuesSound (act (Machine.transact k b dataIn) s) := answers_act h (h.transact b dataIn)

/-- A frame received. -/
theorem received (h : QueuesSound s) (b : Board) (f : UpFrame) : Answers QueuesSound (received b f s) :=
  answers_act h (h.receiveFrame b f).settle

theorem execReceiveError (h : QueuesSound s) (b : Board) (samples : List Bool) :
    Answers QueuesSound (execReceiveError b samples s) := answers_act h (h.receiveSamples b samples).settle

theorem execUnknownTransaction (h : QueuesSound s) (k : Slot) (b : Byte) (dataIn : List Bool) :
    Answers QueuesSound (execUnknownTransaction k b dataIn s) := by
  unfold Machine.execUnknownTransaction
  refine answers_act h ?_
  split
  · exact h
  · exact h.transact b dataIn

theorem execInactivityTimeout (h : QueuesSound s) (k : Slot) : Answers QueuesSound (execInactivityTimeout k s) := by
  unfold Machine.execInactivityTimeout
  exact answers_act h (h.of_parts rfl)

theorem execStrobeFall (h : QueuesSound s) (k : Slot) : Answers QueuesSound (execStrobeFall k s) := by
  unfold Machine.execStrobeFall
  exact answers_act h (h.of_parts (State.mapLinks_parts s _))

/-! ### Partitions and boards -/

theorem execOpenSlot (h : QueuesSound s) (k : Slot) : Answers QueuesSound (execOpenSlot k s) := by
  unfold Machine.execOpenSlot
  refine answers_take h ?_
  split
  · exact (h.openSlot _).continueOpen _ _ _ _ _
  · exact h.refuse _

theorem execCloseSlot (h : QueuesSound s) (k : Slot) : Answers QueuesSound (execCloseSlot k s) := by
  refine answers_take h (h.whenOpen ?_)
  split
  · exact h.closePartition.respond _ _ _
  · exact h.refuse _

theorem execSetPartition (h : QueuesSound s) (k : Slot) (window horizon gap retry backoff timeout attention : Byte) :
    Answers QueuesSound (execSetPartition k window horizon gap retry backoff timeout attention s) := by
  refine answers_take h (h.whenStopped (respond (recompute (updPart h fun _ => ?_)) _ _ _))
  exact ⟨rfl, rfl, id⟩

theorem execReadPartition (h : QueuesSound s) (k : Slot) : Answers QueuesSound (execReadPartition k s) :=
  answers_take h (h.whenOpen (h.respond _ _ _))

theorem execClaimBoards (h : QueuesSound s) (k : Slot) (set : BoardMask) :
    Answers QueuesSound (execClaimBoards k set s) := by
  refine answers_take h (h.whenStopped ?_)
  split_ifs
  · exact h.refuse _
  · exact h.respond _ _ _
  · exact h.respond _ _ _
  · exact h.respond _ _ _
  · exact h.takeClaim set

theorem execReleaseBoards (h : QueuesSound s) (k : Slot) (set : BoardMask) :
    Answers QueuesSound (execReleaseBoards k set s) := by
  refine answers_take h (h.whenOpen ?_)
  split
  · exact h.takeRelease set
  · exact h.refuse _

theorem execReprobe (h : QueuesSound s) (k : Slot) (set : BoardMask) : Answers QueuesSound (execReprobe k set s) := by
  unfold Machine.execReprobe
  refine answers_take h ?_
  split_ifs
  · exact h.respond _ _ _
  · exact h.respond _ _ _
  · exact h.respond _ _ _
  · exact (forBoards_keeps (P := QueuesSound) (fun b _ hs => hs.breakBoard b) _ _ h).updPort _

theorem execReadBoard (h : QueuesSound s) (k : Slot) (board : Byte) :
    Answers QueuesSound (execReadBoard k board s) := by
  refine answers_take h (h.whenOpen ?_)
  split
  · exact h.respond _ _ _
  · exact h.refuse _

theorem execReadCabinet (h : QueuesSound s) (k : Slot) : Answers QueuesSound (execReadCabinet k s) := by
  unfold Machine.execReadCabinet
  exact answers_take h (h.of_parts rfl)

theorem execJoinGroup (h : QueuesSound s) (k : Slot) (group : Byte) :
    Answers QueuesSound (execJoinGroup k group s) := by
  refine answers_take h (h.whenStopped ?_)
  split
  · exact h.takeJoin _
  · exact h.refuse _

theorem execLeaveGroup (h : QueuesSound s) (k : Slot) : Answers QueuesSound (execLeaveGroup k s) := by
  refine answers_take h (h.whenStopped (respond (updPart h fun _ => ?_) _ _ _))
  split <;> exact ⟨rfl, rfl, id⟩

/-! ### Clocks -/

theorem execDefineClock (h : QueuesSound s) (k : Slot) (localNo : Byte) (body : ClockBody) :
    Answers QueuesSound (execDefineClock k localNo body s) := by
  refine answers_take h (h.whenStopped ?_)
  split
  · exact h.defineClock _ _
  · exact h.refuse _

theorem execDeleteClock (h : QueuesSound s) (k : Slot) (localNo : Byte) :
    Answers QueuesSound (execDeleteClock k localNo s) := by
  refine answers_take h (h.clockRequest _ fun n e => ?_)
  split_ifs
  · exact h.refuse _
  · exact h.refuse _
  · exact (h.removeClock n).respond _ _ _

/-- A clock that is refused in some state, and otherwise changed (R20, R22 to R24). -/
theorem refuse_or_setClock {c : Prop} [Decidable c] {k : Slot} (h : QueuesSound s) (status : Status) (n : LocalNo)
    (f : ClockEntry → ClockEntry) :
    QueuesSound (if c then Machine.refuse k status s else Machine.setClock k n f s) := by
  split
  · exact h.refuse _
  · exact h.setClock n f

theorem execEnableClock (h : QueuesSound s) (k : Slot) (localNo : Byte) :
    Answers QueuesSound (execEnableClock k localNo s) := by
  refine answers_take h (h.clockRequest _ fun n e => ?_)
  exact h.refuse_or_setClock _ _ _

theorem execDisableClock (h : QueuesSound s) (k : Slot) (localNo : Byte) :
    Answers QueuesSound (execDisableClock k localNo s) := by
  refine answers_take h (h.clockRequest _ fun n e => ?_)
  exact h.refuse_or_setClock _ _ _

theorem execGateClock (h : QueuesSound s) (k : Slot) (localNo : Byte) :
    Answers QueuesSound (execGateClock k localNo s) := by
  refine answers_take h (h.clockRequest _ fun n e => ?_)
  exact h.refuse_or_setClock _ _ _

theorem execUngateClock (h : QueuesSound s) (k : Slot) (localNo : Byte) :
    Answers QueuesSound (execUngateClock k localNo s) := by
  refine answers_take h (h.clockRequest _ fun n e => ?_)
  exact h.refuse_or_setClock _ _ _

theorem execRetimeClock (h : QueuesSound s) (k : Slot) (localNo : Byte) (first second : BitVec 24) :
    Answers QueuesSound (execRetimeClock k localNo first second s) := by
  refine answers_take h (h.clockRequest _ fun n e => ?_)
  dsimp only
  split
  · exact (h.updFired _).respond _ _ _
  · exact h.refuse _

theorem execReadClock (h : QueuesSound s) (k : Slot) (localNo : Byte) :
    Answers QueuesSound (execReadClock k localNo s) := by
  refine answers_take h (h.whenOpen (withClock h _ fun n e => ?_))
  split
  · exact h.respond _ _ _
  · exact h.refuse _

theorem execTimeReset (h : QueuesSound s) (k : Slot) : Answers QueuesSound (execTimeReset k s) := by
  refine answers_take h (h.whenStopped ?_)
  dsimp only
  split
  · exact h.resetTime.endTimeReset 0
  · refine updPort (forBoards_keeps (P := QueuesSound) (fun b _ hs => hs.syncBoard b _ _) _ _ ?_) _
    exact updPart h.resetTime fun _ => ⟨rfl, rfl, id⟩

/-! ### Run control -/

theorem execSetupRun (h : QueuesSound s) (k : Slot) (mode : Byte) (argument : BitVec 48) :
    Answers QueuesSound (execSetupRun k mode argument s) := by
  refine answers_take h (h.whenStopped ?_)
  split
  · exact h.refuse _
  · refine respond (updPart h fun _ => ?_) _ _ _
    exact ⟨rfl, rfl, id⟩

theorem execRun (h : QueuesSound s) (k : Slot) : Answers QueuesSound (execRun k s) := by
  refine answers_take h (h.whenStopped ?_)
  split
  · exact h.refuse _
  · exact h.takeRun ‹_›

theorem execGroupRun (h : QueuesSound s) (k : Slot) : Answers QueuesSound (execGroupRun k s) := by
  refine answers_take h (h.whenOpen ?_)
  split_ifs with hnone hready
  · exact h.refuse _
  · obtain ⟨g, hg⟩ := Option.ne_none_iff_exists'.1 fun hg => hnone (Option.isNone_iff_eq_none.2 hg)
    exact h.takeGroupRun hg fun j hj => List.all_eq_true.1 hready j ((State.mem_members hg j).2 hj)
  · exact h.respond _ _ _

theorem execPause (h : QueuesSound s) (k : Slot) : Answers QueuesSound (execPause k s) := by
  refine answers_take h (h.whenOpen ?_)
  split
  · exact (h.takePause ‹_›).respond _ _ _
  all_goals exact h.refuse _

theorem execResume (h : QueuesSound s) (k : Slot) : Answers QueuesSound (execResume k s) := by
  refine answers_take h (h.whenOpen ?_)
  split
  · exact h.takeResume ‹_›
  · exact h.refuse _

theorem execStop (h : QueuesSound s) (k : Slot) : Answers QueuesSound (execStop k s) := by
  refine answers_take h (h.whenOpen ?_)
  split
  iterate 3 exact h.takeStop
  · exact h.respond _ _ _
  all_goals exact h.refuse _

theorem execRecover (h : QueuesSound s) (k : Slot) : Answers QueuesSound (execRecover k s) := by
  refine answers_take h (h.whenOpen ?_)
  split
  · exact h.takeRecover
  · exact h.refuse _

theorem execClearErrors (h : QueuesSound s) (k : Slot) : Answers QueuesSound (execClearErrors k s) :=
  answers_take h (h.whenStopped (h.clearErrors.respond _ _ _))

/-! ### The filter and the events -/

theorem execSetFilter (h : QueuesSound s) (k : Slot) (mode : Byte) (count : BitVec 16) (logUnmatched : Byte) :
    Answers QueuesSound (execSetFilter k mode count logUnmatched s) := by
  refine answers_take h (h.whenOpen ?_)
  split
  · exact h.refuse _
  · exact (h.updFilter _).respond _ _ _

theorem execSetMatch (h : QueuesSound s) (k : Slot) (index : Byte) (id care : BitVec 16) (enable : Byte) :
    Answers QueuesSound (execSetMatch k index id care enable s) := by
  refine answers_take h (h.whenOpen ?_)
  split
  · exact (h.updFilter _).respond _ _ _
  · exact h.refuse _

theorem execSetHashAddIds (h : QueuesSound s) (k : Slot) (enable count : Byte) (ids : List TriggerId) :
    Answers QueuesSound (execSetHashAddIds k enable count ids s) := by
  refine answers_take h (h.whenOpen ?_)
  split
  · exact h.takeHash _ _
  · exact h.refuse _

end QueuesSound

/-- Every command keeps the event queues (R92, R172, R175, R176). -/
theorem exec_keeps_queues {s : State} (h : QueuesSound s) (c : Instr) : Answers QueuesSound (exec c s) := by
  cases c with
  | deviceReset => exact answers_next (.afterReset false s)
  | resetAsserted => exact answers_next (.afterReset true s)
  | loadReadComplete n => exact answers_act h (h.loadRead n)
  | storeAddressNak => exact answers_act h h.failAccess
  | storeAccessTimeout => exact answers_act h h.failAccess
  | storeRead k address length => exact answers_take h (h.storeRequest _ _)
  | storeReadComplete => exact answers_act h h.completeRead
  | storeWrite k address length data => exact answers_take h (h.storeRequest _ _)
  | storeWriteComplete => exact answers_act h h.completeWrite
  | selectFall k => exact answers_next (h.updPort _)
  | selectRise k => exact answers_next (h.updPort _)
  | writeRequest k dataIn => exact h.act_transact k _ dataIn
  | requestFrameEnd k => exact answers_act h h.endRequestFrame
  | readResponse k dataIn => exact h.act_transact k _ dataIn
  | readPortStatus k dataIn => exact h.act_transact k _ dataIn
  | unknownTransaction k b dataIn => exact h.execUnknownTransaction k b dataIn
  | inactivityTimeout k => exact h.execInactivityTimeout k
  | openSlot k => exact h.execOpenSlot k
  | presetApply k => exact answers_act h h.openNext
  | closeSlot k => exact h.execCloseSlot k
  | setPartition k window horizon gap retry backoff timeout attention => exact h.execSetPartition k _ _ _ _ _ _ _
  | readPartition k => exact h.execReadPartition k
  | claimBoards k set => exact h.execClaimBoards k set
  | releaseBoards k set => exact h.execReleaseBoards k set
  | reprobe k set => exact h.execReprobe k set
  | readBoard k board => exact h.execReadBoard k board
  | readCabinet k => exact h.execReadCabinet k
  | joinGroup k group => exact h.execJoinGroup k group
  | leaveGroup k => exact h.execLeaveGroup k
  | defineClock k localNo body => exact h.execDefineClock k localNo body
  | deleteClock k localNo => exact h.execDeleteClock k localNo
  | enableClock k localNo => exact h.execEnableClock k localNo
  | disableClock k localNo => exact h.execDisableClock k localNo
  | gateClock k localNo => exact h.execGateClock k localNo
  | ungateClock k localNo => exact h.execUngateClock k localNo
  | retimeClock k localNo first second => exact h.execRetimeClock k localNo first second
  | readClock k localNo => exact h.execReadClock k localNo
  | timeReset k => exact h.execTimeReset k
  | setupRun k mode argument => exact h.execSetupRun k mode argument
  | run k => exact h.execRun k
  | groupRun k => exact h.execGroupRun k
  | pause k => exact h.execPause k
  | resume k => exact h.execResume k
  | stop k => exact h.execStop k
  | recover k => exact h.execRecover k
  | clearErrors k => exact h.execClearErrors k
  | setFilter k mode count logUnmatched => exact h.execSetFilter k mode count logUnmatched
  | setMatch k index id care enable => exact h.execSetMatch k index id care enable
  | setHashKeep k enable => exact answers_take h (h.whenOpen (h.takeHash _ _))
  | setHashReplace k enable table => exact answers_take h (h.whenOpen (h.takeHash _ _))
  | setHashAddIds k enable count ids => exact h.execSetHashAddIds k enable count ids
  | setHashClear k enable => exact answers_take h (h.whenOpen (h.takeHash _ _))
  | readEvents k count => exact answers_take h (h.whenOpen (h.takeEvents count))
  | computationEnd => exact answers_act h h.endComputation
  | groupStopTaken k => exact answers_act h h.nextGroupStop
  | settleGapExpiry k => exact answers_act h h.expireGap
  | strobeFall k => exact h.execStrobeFall k
  | frameSend b => exact h.act_updLink b fun s => Link.sendNext ((s.board b).link == .syncing) (s.responseNs b)
  | frameTransmissionEnd b => exact h.act_updLink b fun _ => Link.endFrame
  | breakEnd b => exact h.act_updLink b fun _ => Link.endBreak
  | breakRecoveryEnd b =>
    exact h.act_updLink b fun s => Link.endRecovery ((s.board b).link == .probing) (s.responseNs b)
  | backoffEnd b => exact h.act_updLink b fun s => Link.endBackoff (s.responseNs b) (s.pipeFor b)
  | responseTimeout b => exact answers_act h (h.expireResponse b)
  | receiveError b samples => exact h.execReceiveError b samples
  | armAck b tag => exact h.received b _
  | armNak b tag cause => exact h.received b _
  | boardDone b tag trigger stamp => exact h.received b _
  | flushAck b tag => exact h.received b _
  | syncAck b tag => exact h.received b _
  | boardStatus b armed finished trigger => exact h.received b _
  | probeReply b id depth => exact h.received b _

/-- What every command keeps, a step keeps, when it does not lie in the waiting commands. -/
theorem answers_step {P : State → Prop} {s : State} (hpending : ∀ rest, P { s with pending := rest })
    (hexec : ∀ (c : Instr) (t : State), P t → Answers P (exec c t)) : Answers P (step s) := by
  unfold step
  split
  · exact answers_next (hpending s.pending)
  · exact hexec _ _ (hpending _)

/-- Settles O3: the invariant partition by partition, through every command. -/
theorem stepKeepsEventQueues : Obligations.StepKeepsEventQueues := by
  intro s t h hstep
  rw [queueInv_iff] at h ⊢
  exact answers_step (fun rest => h.of_parts rfl) (fun c _ hs => exec_keeps_queues hs c) t hstep

end Sys2Proof.Machine
end

section
/-! SUPPORT. Stop candidates and rewinds (R85, R86, R93, R120, R121), and the statement about them. -/

namespace Sys2Proof.Machine

/-! ## A rewind -/

section
variable {s : State} {k : Slot} {n : Nat}

@[simp] theorem rewind_part_self : (rewind k n s).part k = { s.part k with
    pipe := (s.part k).pipe.filter fun e => e.stage == .fired || decide (e.number ≤ n) } := by
  simp [rewind]

theorem rewind_part_ne {j : Slot} (hj : j ≠ k) : (rewind k n s).part j = s.part j := by
  simp [rewind, State.setPart_part_ne _ _ _ _ hj]

/-- A rewind rewinds the links of the partition's own boards, and no other (R121). -/
@[simp] theorem rewind_link (b : Board) :
    (rewind k n s).link b = if (s.board b).owner = some k then (s.link b).rewind n else s.link b := by
  simp [rewind, State.owns]

@[simp] theorem rewind_engine : (rewind k n s).engine = (voidWork k s).engine := by
  simp [rewind, voidWork]

/-- A work item for partition `k` is void, and no other (R49). -/
theorem voidWork_item {w : WorkItem} (h : s.engine.item = some w) :
    (voidWork k s).engine.item = some (if w.slot = k then { w with void := true } else w) := by
  simp [voidWork, h]

/-- With a FLUSH pending the response timer is left as it is (R143). -/
theorem Link.stopIfIdle_of_flushPending {l : Link} (h : l.flushPending = true) : l.stopIfIdle = l := by
  have hwaiting : l.waiting = true := by simp [Link.waiting, h]
  unfold Link.stopIfIdle
  rw [hwaiting]
  cases l.timer <;> rfl

/-- With no ARM outstanding a running timer is stopped when nothing else is outstanding either (R143). -/
theorem Link.stopIfIdle_of_no_arm {l : Link} (h : l.armsOut = 0) : l.stopIfIdle = { l with
    timer := match l.timer with
      | .running ns => if l.donesOut = 0 ∧ l.flushPending = false ∧ l.pollOut = false then .stopped else .running ns
      | other => other } := by
  have hwaiting : l.waiting = decide ¬ (l.donesOut = 0 ∧ l.flushPending = false ∧ l.pollOut = false) := by
    rw [Bool.eq_iff_iff]
    simp [Link.waiting, h, Nat.pos_iff_ne_zero, imp_iff_not_or, or_assoc]
  unfold Link.stopIfIdle
  rw [hwaiting]
  rcases l with ⟨⟩
  dsimp only
  split <;> split_ifs <;> simp_all

/-- A link whose board had been sent an ARM of a discarded step: a FLUSH follows, with the discarded range (R121). -/
theorem Link.rewind_sent {l : Link} (h : n < l.sentThrough) : l.rewind n = { l with
    order := (l.order.filter fun i => !i.armAbove n) ++ [.flush n], nextAck := some (n + 1), armsOut := 0,
    sentThrough := n, flushPending := true, discarded := some (n + 1, l.sentThrough), flushSent := false,
    pollAfterFlush := false } := by
  unfold Link.rewind
  dsimp only
  rw [if_pos h, Link.stopIfIdle_of_flushPending rfl, Nat.min_eq_left h.le]

/-- A link whose board had been sent none: the ARMs of discarded steps leave the transmit order (R121). -/
theorem Link.rewind_unsent {l : Link} (h : l.sentThrough ≤ n) : l.rewind n = { l with
    order := l.order.filter fun i => !i.armAbove n, nextAck := some (n + 1), armsOut := 0,
    timer := match l.timer with
      | .running ns => if l.donesOut = 0 ∧ l.flushPending = false ∧ l.pollOut = false then .stopped else .running ns
      | other => other } := by
  unfold Link.rewind
  dsimp only
  rw [if_neg h.not_gt, Link.stopIfIdle_of_no_arm rfl, Nat.min_eq_right h]

end

/-! ## A stop point set -/

/-- A partition with its stop point set or lowered: the previous primary reason joins the also-reasons, and RUNNING
becomes STOPPING (R85, R86). -/
def Partition.stopAt (n : Nat) (r : StopReason) (p : Partition) : Partition :=
  { p with
    stop := some ⟨n, r⟩
    also := match p.stop with
      | some point => p.also.add point.primary.name
      | none => p.also
    state := if p.state = .running then .stopping else p.state }

/-- The machine with the stop point of partition `k` set or lowered, and what lies above it rewound (R86, R120). -/
def stopPointSet (k : Slot) (n : Nat) (r : StopReason) (s : State) : State :=
  if n < (s.part k).frontier then rewind k n (s.setPart k ((s.part k).stopAt n r))
  else s.setPart k ((s.part k).stopAt n r)

section
variable {s : State} {k : Slot} {n : Nat} {r : StopReason}

/-- A candidate below the stop point, or with none set, becomes the stop point (R85); the first one of a run, but for
reason GROUP, is offered to the group (R93). -/
theorem candidate_sets (hrun : (s.part k).state.isRun = true)
    (hlower : (s.part k).stop = none ∨ ∃ point, (s.part k).stop = some point ∧ n < point.step) :
    candidate k n r s = if (s.part k).stop = none ∧ r.name ≠ .group then offerGroupStop k (stopPointSet k n r s)
      else stopPointSet k n r s := by
  have hset : candidate k n r s = setStopPoint k n r s := by
    rcases hlower with hnone | ⟨point, hpoint, hbelow⟩
    · simp [candidate, hrun, hnone]
    · simp [candidate, hrun, hpoint, hbelow]
  rw [hset]
  unfold setStopPoint
  dsimp only
  simp only [decide_eq_true_eq, Bool.and_eq_true, Option.isNone_iff_eq_none, bne_iff_ne]
  rfl

/-- What a stop candidate can do (R85). -/
theorem candidate_cases (k : Slot) (n : Nat) (r : StopReason) (s : State) :
    ((s.part k).state.isRun = false ∧ candidate k n r s = s)
      ∨ (∃ point, (s.part k).state.isRun = true ∧ (s.part k).stop = some point ∧ point.step ≤ n
        ∧ candidate k n r s = s.setPart k { s.part k with also := (s.part k).also.add r.name })
      ∨ ((s.part k).state.isRun = true
        ∧ ((s.part k).stop = none ∨ ∃ point, (s.part k).stop = some point ∧ n < point.step)) := by
  cases hrun : (s.part k).state.isRun with
  | false => exact .inl ⟨rfl, candidate_not_run hrun⟩
  | true =>
    cases hstop : (s.part k).stop with
    | none => exact .inr (.inr ⟨rfl, .inl rfl⟩)
    | some point =>
      rcases Nat.lt_or_ge n point.step with hbelow | habove
      · exact .inr (.inr ⟨rfl, .inr ⟨point, rfl, hbelow⟩⟩)
      · exact .inr (.inl ⟨point, rfl, rfl, habove, candidate_joins hrun hstop habove⟩)

/-! ### What a stop point set changes -/

theorem stopPointSet_rewinds (h : n < (s.part k).frontier) :
    stopPointSet k n r s = rewind k n (s.setPart k ((s.part k).stopAt n r)) := if_pos h

theorem stopPointSet_at_frontier (h : (s.part k).frontier ≤ n) :
    stopPointSet k n r s = s.setPart k ((s.part k).stopAt n r) := if_neg h.not_gt

/-- Setting a stop point changes nothing of the partition but its stop point, reasons, state and pipe. -/
theorem stopPointSet_part_self :
    ∃ pipe, (stopPointSet k n r s).part k = { (s.part k).stopAt n r with pipe := pipe } := by
  rcases Nat.lt_or_ge n (s.part k).frontier with h | h
  · exact ⟨_, by rw [stopPointSet_rewinds h, rewind_part_self, State.setPart_part_self]⟩
  · exact ⟨_, by rw [stopPointSet_at_frontier h, State.setPart_part_self]⟩

theorem stopPointSet_part_ne {j : Slot} (hj : j ≠ k) : (stopPointSet k n r s).part j = s.part j := by
  unfold stopPointSet
  split <;> simp [rewind_part_ne hj, State.setPart_part_ne _ _ _ _ hj]

/-- Setting a stop point leaves the links of the boards that the partition does not own. -/
theorem stopPointSet_link_ne {b : Board} (hb : (s.board b).owner ≠ some k) :
    (stopPointSet k n r s).link b = s.link b := by
  unfold stopPointSet
  split <;> simp [hb]

theorem offerGroupStop_engine (k : Slot) (s : State) : (offerGroupStop k s).engine = s.engine := by
  unfold offerGroupStop
  split <;> simp

/-- Offering the stop to the group leaves the partition itself, the links and the engine (R93). -/
theorem candidate_sets_keeps (hrun : (s.part k).state.isRun = true)
    (hlower : (s.part k).stop = none ∨ ∃ point, (s.part k).stop = some point ∧ n < point.step) :
    (candidate k n r s).part k = (stopPointSet k n r s).part k
      ∧ (candidate k n r s).links = (stopPointSet k n r s).links
      ∧ (candidate k n r s).engine = (stopPointSet k n r s).engine := by
  obtain ⟨-, hlinks, -⟩ := groupOffered_offerGroupStop k (stopPointSet k n r s)
  rw [candidate_sets hrun hlower]
  split
  · exact ⟨offerGroupStop_part_self _ _, hlinks, offerGroupStop_engine _ _⟩
  · exact ⟨rfl, rfl, rfl⟩

/-- The stop point as a candidate that sets it leaves it (R85). -/
theorem candidate_sets_stop (hrun : (s.part k).state.isRun = true)
    (hlower : (s.part k).stop = none ∨ ∃ point, (s.part k).stop = some point ∧ n < point.step) :
    ((candidate k n r s).part k).stop = some ⟨n, r⟩
      ∧ ((candidate k n r s).part k).also = ((s.part k).stopAt n r).also
      ∧ ((candidate k n r s).part k).state = if (s.part k).state = .running then .stopping else (s.part k).state := by
  obtain ⟨pipe, hpart⟩ := stopPointSet_part_self (k := k) (n := n) (r := r) (s := s)
  rw [(candidate_sets_keeps hrun hlower).1, hpart]
  exact ⟨rfl, rfl, rfl⟩

/-- A candidate offers the first stop point of a run, but for reason GROUP, to the other members of the group, and
changes no other partition otherwise (R93). -/
theorem candidate_part_ne {j : Slot} (hj : j ≠ k) : (candidate k n r s).part j = { s.part j with groupStops :=
    if (s.part k).state.isRun = true ∧ (s.part k).stop = none ∧ r.name ≠ .group ∧ (s.part k).group ≠ none
      ∧ (s.part j).group = (s.part k).group then (s.part j).groupStops ++ [k] else (s.part j).groupStops } := by
  rcases candidate_cases k n r s with ⟨hrun, heq⟩ | ⟨point, -, hstop, -, heq⟩ | ⟨hrun, hlower⟩
  · rw [heq, hrun]
    simp
  · rw [heq, hstop, State.setPart_part_ne _ _ _ _ hj]
    simp
  · obtain ⟨pipe, hpart⟩ := stopPointSet_part_self (k := k) (n := n) (r := r) (s := s)
    have hgroup : ((stopPointSet k n r s).part k).group = (s.part k).group := by rw [hpart]; rfl
    rw [candidate_sets hrun hlower]
    by_cases hfirst : (s.part k).stop = none ∧ r.name ≠ .group
    · obtain ⟨-, -, hoffered⟩ := groupOffered_offerGroupStop k (stopPointSet k n r s)
      rw [if_pos hfirst, hoffered j hj, hgroup, stopPointSet_part_ne hj]
      simp [hrun, hfirst.1, hfirst.2]
    · have hnot : ¬ ((s.part k).state.isRun = true ∧ (s.part k).stop = none ∧ r.name ≠ .group
          ∧ (s.part k).group ≠ none ∧ (s.part j).group = (s.part k).group) :=
        fun ⟨_, hnone, hname, _⟩ => hfirst ⟨hnone, hname⟩
      rw [if_neg hfirst, if_neg hnot, stopPointSet_part_ne hj]

/-- A candidate leaves the links of the boards that the partition does not own. -/
theorem candidate_link_ne {b : Board} (hb : (s.board b).owner ≠ some k) :
    (candidate k n r s).link b = s.link b := by
  rcases candidate_cases k n r s with ⟨-, heq⟩ | ⟨point, -, -, -, heq⟩ | ⟨hrun, hlower⟩
  · rw [heq]
  · rw [heq, State.setPart_link]
  · rw [← stopPointSet_link_ne (n := n) (r := r) hb, State.link, (candidate_sets_keeps hrun hlower).2.1, State.link]

/-- A candidate at or above the frontier rewinds nothing (R86). -/
theorem candidate_at_frontier (h : (s.part k).frontier ≤ n) :
    (candidate k n r s).links = s.links ∧ (candidate k n r s).engine = s.engine := by
  rcases candidate_cases k n r s with ⟨-, heq⟩ | ⟨point, -, -, -, heq⟩ | ⟨hrun, hlower⟩
  · rw [heq]
    exact ⟨rfl, rfl⟩
  · rw [heq]
    exact ⟨rfl, rfl⟩
  · obtain ⟨-, hlinks, hengine⟩ := candidate_sets_keeps (n := n) (r := r) hrun hlower
    rw [hlinks, hengine, stopPointSet_at_frontier h]
    exact ⟨rfl, rfl⟩

/-- A stop point set below the frontier rewinds the pipe and each board's link, and the work item is void (R49, R120,
R121). -/
theorem candidate_rewinds (hrun : (s.part k).state.isRun = true)
    (hlower : (s.part k).stop = none ∨ ∃ point, (s.part k).stop = some point ∧ n < point.step)
    (hbelow : n < (s.part k).frontier) :
    (candidate k n r s).part k = { (s.part k).stopAt n r with
        pipe := (s.part k).pipe.filter fun e => e.stage == .fired || decide (e.number ≤ n) }
      ∧ (candidate k n r s).engine = (voidWork k s).engine
      ∧ ∀ b, (s.board b).owner = some k → (candidate k n r s).link b = (s.link b).rewind n := by
  obtain ⟨hpart, hlinks, hengine⟩ := candidate_sets_keeps (n := n) (r := r) hrun hlower
  rw [stopPointSet_rewinds hbelow] at hpart hlinks hengine
  refine ⟨?_, ?_, fun b hb => ?_⟩
  · rw [hpart, rewind_part_self, State.setPart_part_self]
    rfl
  · rw [hengine, rewind_engine]
    rfl
  · rw [State.link, hlinks, ← State.link, rewind_link, State.setPart_board, if_pos hb, State.setPart_link]

end

/-- Settles O42: the candidate sets or lowers the stop point, joins the reasons or has no effect, and a stop point below
the frontier rewinds the pipe and the links. -/
theorem stopCandidateCombined : Obligations.StopCandidateCombined := by
  intro s k n r p q
  refine ⟨candidate_not_run, fun hrun hnone => ?_, fun point hrun hstop hbelow => ?_,
    fun point hrun hstop habove => candidate_joins hrun hstop habove, fun hrun hlower hbelow => ?_,
    candidate_at_frontier, fun b => candidate_link_ne, fun j hj => ?_⟩
  · obtain ⟨hset, halso, hstate⟩ := candidate_sets_stop (n := n) (r := r) hrun (.inl hnone)
    refine ⟨hset, halso.trans ?_, hstate⟩
    simp only [Partition.stopAt]
    rw [show (s.part k).stop = none from hnone]
  · obtain ⟨hset, halso, hstate⟩ := candidate_sets_stop (n := n) (r := r) hrun (.inr ⟨point, hstop, hbelow⟩)
    refine ⟨hset, halso.trans ?_, hstate⟩
    simp only [Partition.stopAt]
    rw [show (s.part k).stop = some point from hstop]
  · obtain ⟨hpart, hengine, hlink⟩ := candidate_rewinds (r := r) hrun hlower hbelow
    have hq : q = _ := hpart
    rw [hq]
    refine ⟨rfl, rfl, rfl, rfl, fun w hw => ?_, fun b hb => ?_⟩
    · rw [hengine, voidWork_item hw]
    · intro l m kept
      have hkept : (l.order.filter fun i => !i.armAbove n) = kept :=
        List.filter_congr fun i _ => by cases i <;> simp [TxItem.armAbove, ← decide_not]
      rw [show m = l.rewind n from hlink b hb]
      refine ⟨fun hsent => ?_, fun hunsent => ⟨_, ?_, rfl⟩⟩
      · rw [Link.rewind_sent hsent, hkept]
      · exact hkept ▸ Link.rewind_unsent hunsent
  · rw [candidate_part_ne hj]
    exact ⟨rfl, rfl⟩

end Sys2Proof.Machine
end

section
/-! SUPPORT. PAUSE, RESUME and STOP (R81, R83, R87) and the group stop taken (R94), and the statements about them. -/

namespace Sys2Proof.Machine

section
variable {s : State} {k : Slot}

/-! ## PAUSE and RESUME -/

theorem exec_pause_running (h : WaitsIn s k .running .pause) :
    exec (.pause k) s = .next (respond k .ok false [] (s.setPart k { s.part k with state := .paused })) := by
  refine (take_waits h.1).trans ?_
  rw [whenOpen_open (by simp [h.2]), h.2, State.updPart_eq]

theorem exec_pause_paused (h : WaitsIn s k .paused .pause) :
    exec (.pause k) s = .next (refuse k .alreadyPaused s) := by
  refine (take_waits h.1).trans ?_
  rw [whenOpen_open (by simp [h.2]), h.2]

theorem exec_pause_refused (h : Waits s k .pause) (hopen : (s.part k).state ≠ .closed)
    (hrunning : (s.part k).state ≠ .running) (hpaused : (s.part k).state ≠ .paused) :
    exec (.pause k) s = .next (refuse k .wrongState s) := by
  refine (take_waits h).trans ?_
  rw [whenOpen_open hopen]
  cases hst : (s.part k).state
  case running => exact absurd hst hrunning
  case paused => exact absurd hst hpaused
  all_goals rfl

theorem exec_resume_refused (h : Waits s k .resume) (hopen : (s.part k).state ≠ .closed)
    (hpaused : (s.part k).state ≠ .paused) : exec (.resume k) s = .next (refuse k .notPaused s) := by
  refine (take_waits h).trans ?_
  rw [whenOpen_open hopen, if_neg hpaused]

/-- RESUME in PAUSED enters RUNNING, or STOPPING when a stop point is set, and answers that state (R83). -/
theorem exec_resume_paused {st : PartState} (h : WaitsIn s k .paused .resume)
    (hst : (if (s.part k).stop.isSome then .stopping else .running) = st) : exec (.resume k) s = .next (engineSelect
      (advance k (respond k .ok false [st.code] (s.setPart k { s.part k with state := st })))) := by
  refine (take_waits h.1).trans ?_
  rw [whenOpen_open (by simp [h.2]), if_pos h.2, takeResume]
  simp only [State.updPart_eq, State.setPart_part_self, hst]

end

/-- Settles O39: the state of the slot decides. -/
theorem pauseAndResume : Obligations.PauseAndResume :=
  fun _ _ => ⟨exec_pause_running, exec_pause_paused, exec_pause_refused, exec_resume_refused,
    fun h hnone => exec_resume_paused h (if_neg (by simp [hnone])),
    fun point h hstop => exec_resume_paused h (if_pos (by simp [hstop]))⟩

section
variable {s : State} {k : Slot}

/-! ## STOP -/

theorem exec_stop_stopped (h : WaitsIn s k .stopped .stop) :
    exec (.stop k) s = .next (respond k .ok false (s.part k).stopBytes s) := by
  refine (take_waits h.1).trans ?_
  rw [whenOpen_open (by simp [h.2]), h.2]

theorem exec_stop_faulted (h : WaitsIn s k .faulted .stop) :
    exec (.stop k) s = .next (refuse k .wrongState s) := by
  refine (take_waits h.1).trans ?_
  rw [whenOpen_open (by simp [h.2]), h.2]

/-- STOP in a run state offers its candidate and answers the stop point (R87). -/
theorem exec_stop_run (h : Waits s k .stop) (hrun : (s.part k).state.isRun = true) :
    exec (.stop k) s = .next (takeStop k s) := by
  refine (take_waits h).trans ?_
  rw [whenOpen_open (PartState.ne_of_isRun hrun).1]
  rcases (PartState.isRun_iff _).1 hrun with hst | hst | hst <;> rw [hst]

/-- After a candidate in a run state the stop point is set, and is not above the candidate (R85). -/
theorem candidate_stop_le {n : Nat} {r : StopReason} (hrun : (s.part k).state.isRun = true) :
    ∃ point, ((candidate k n r s).part k).stop = some point ∧ point.step ≤ n := by
  rcases candidate_cases k n r s with ⟨hnot, -⟩ | ⟨point, -, hstop, hle, heq⟩ | ⟨-, hlower⟩
  · exact absurd hrun (Bool.eq_false_iff.1 hnot)
  · exact ⟨point, by simpa [heq] using hstop, hle⟩
  · exact ⟨_, (candidate_sets_stop hrun hlower).1, Nat.le_refl n⟩

end

/-- Settles O40: STOPPED and FAULTED by their answers, the run states by the candidate. -/
theorem stopOffersFiredFrontier : Obligations.StopOffersFiredFrontier := by
  refine fun s k h => ⟨fun hst => exec_stop_stopped ⟨h, hst⟩, fun hst => exec_stop_faulted ⟨h, hst⟩,
    fun hrun => ⟨exec_stop_run h hrun, fun hnone hrunning => ?_, candidate_stop_le hrun⟩⟩
  rw [(candidate_sets_stop hrun (.inl hnone)).2.2, if_pos hrunning]

/-! ## The group stop taken -/

section
variable {s : State} {k offering : Slot} {rest : List Slot}

/-- The oldest group stop waiting is taken, and the rest wait on (R94; assumption 9). -/
theorem exec_groupStopTaken (hr : s.resetHeld = false) (h : (s.part k).groupStops = offering :: rest) :
    exec (.groupStopTaken k) s
      = .next (engineSelect (takeGroupStop k (s.setPart k { s.part k with groupStops := rest }))) := by
  refine (act_running hr).trans ?_
  rw [nextGroupStop, h]
  rfl

theorem takeGroupStop_offers (h : (s.part k).state = .running ∨ (s.part k).state = .paused) :
    takeGroupStop k s = advance k (candidate k (s.part k).firedFrontier .group s) := by
  rcases h with h | h <;> rw [takeGroupStop, h]

theorem takeGroupStop_stopping (h : (s.part k).state = .stopping) :
    takeGroupStop k s = s.setPart k { s.part k with also := (s.part k).also.add .group } := by
  rw [takeGroupStop, h, State.updPart_eq]

theorem takeGroupStop_not_run (h : (s.part k).state.isRun = false) : takeGroupStop k s = s := by
  cases hst : (s.part k).state
  case running | paused | stopping => exact absurd h (by simp [hst, PartState.isRun])
  all_goals rw [takeGroupStop, hst]

end

/-- Settles O44: the state of the member decides. -/
theorem groupStopTakenByState : Obligations.GroupStopTakenByState := by
  intro s k offering rest hr hstops s1
  have hpart : s1.part k = { s.part k with groupStops := rest } := State.setPart_part_self _ _ _
  have hexec : exec (.groupStopTaken k) s = .next (engineSelect (takeGroupStop k s1)) := exec_groupStopTaken hr hstops
  rw [hexec]
  refine ⟨fun hst => ?_, fun hst => ?_, fun hst => ?_⟩
  · rw [takeGroupStop_offers (by simpa [hpart] using hst), hpart]
  · rw [takeGroupStop_stopping (by simpa [hpart] using hst), hpart]
  · rw [takeGroupStop_not_run (by simpa [hpart] using hst)]

end Sys2Proof.Machine
end

section
/-! SUPPORT. The settle gap, the fire conditions, the strobes and stop completion (R90, R112 to R116, R124), and the
statement about them. -/

namespace Sys2Proof.Machine

section
variable {s : State} {k : Slot}

/-! ## Firing -/

/-- With every entry FIRED nothing fires (R113). -/
theorem tryFire_all_fired (h : ∀ e ∈ (s.part k).pipe, e.stage = .fired) : tryFire k s = s := by
  have hnone : oldestUnfired (s.part k).pipe = none := List.find?_eq_none.2 fun e he => by simp [h e he]
  simp [tryFire, Partition.fireable, hnone]

theorem oldestUnfired_append {older younger : List PipeEntry} {e : PipeEntry}
    (hfired : ∀ x ∈ older, x.stage = .fired) (he : e.stage ≠ .fired) :
    oldestUnfired (older ++ e :: younger) = some e := by
  have hnone : older.find? (fun x => x.stage != .fired) = none := List.find?_eq_none.2 fun x hx => by simp [hfired x hx]
  simp [oldestUnfired, List.find?_append, hnone, he]

/-- The conditions under which the oldest entry not FIRED fires (R113). -/
def Partition.Fires (p : Partition) (e : PipeEntry) : Prop :=
  e.stage = .armed ∧ (p.state = .running ∨ p.state = .stopping)
    ∧ (∀ point, p.stop = some point → e.number ≤ point.step) ∧ (p.lastFire = false ∨ p.gap = .elapsed)

/-- The oldest entry not FIRED fires when the conditions hold. -/
theorem tryFire_fires {e : PipeEntry} (hold : oldestUnfired (s.part k).pipe = some e) (h : (s.part k).Fires e) :
    tryFire k s = fire k e s := by
  obtain ⟨harmed, hstate, hstop, hgap⟩ := h
  have hfire : (s.part k).fireable = some e := by
    unfold Partition.fireable
    rw [hold]
    exact if_pos ⟨harmed, hstate, (Partition.withinStop_iff _ _).2 hstop, hgap⟩
  rw [tryFire, hfire]

/-- Nothing fires when one of them fails. -/
theorem tryFire_waits {e : PipeEntry} (hold : oldestUnfired (s.part k).pipe = some e) (h : ¬ (s.part k).Fires e) :
    tryFire k s = s := by
  have hnone : (s.part k).fireable = none := by
    unfold Partition.fireable
    rw [hold]
    exact if_neg fun ⟨harmed, hstate, hstop, hgap⟩ =>
      h ⟨harmed, hstate, (Partition.withinStop_iff _ _).1 hstop, hgap⟩
  rw [tryFire, hnone]

/-- The response timeout of an owned board is its owner's (R143). -/
theorem State.responseNs_owned {b : Board} (h : (s.board b).owner = some k) :
    s.responseNs b = ((s.part k).settings.timeoutCode + 1) * 16000 := by
  rw [State.responseNs, h]
  rfl

theorem Link.startTimer_eq (ns : Nat) (l : Link) :
    l.startTimer ns = { l with timer := if l.timer = .stopped then .running ns else l.timer } := by
  rcases l with ⟨⟩
  unfold Link.startTimer
  split <;> simp_all

theorem State.mapLinks_congr {f g : Board → Link → Link} (h : ∀ b, f b (s.link b) = g b (s.link b)) :
    s.mapLinks f = s.mapLinks g := congrArg (fun links => { s with links := Vector.ofFn links }) (funext h)

/-- A fire, on the partition and on the links of its boards (R114, R139, R143). -/
theorem fire_eq (e : PipeEntry) : fire k e s = (s.setPart k { s.part k with
      pipe := updateEntry e.number (fun x => { x with stage := .fired }) (s.part k).pipe, firedFrontier := e.number,
      vt := e.time, fired := e.post, lastFire := true, gap := .running (((s.part k).settings.gapCode + 1) * 40)
      }).mapLinks fun b l => if (s.board b).owner = some k then { l with
        strobe := true, donesOut := l.donesOut + 1,
        timer := if l.timer = .stopped then .running (((s.part k).settings.timeoutCode + 1) * 16000) else l.timer }
      else l := by
  refine State.mapLinks_congr fun b => ?_
  simp only [State.owns_iff]
  by_cases howner : (s.board b).owner = some k
  · rw [if_pos howner, if_pos howner, Link.startTimer_eq, State.responseNs_owned howner]
  · rw [if_neg howner, if_neg howner]

/-! ## Stop completion -/

/-- Stop completion, for the stop point that is set (R124). -/
def StopCompletes (k : Slot) (s : State) (point : StopPoint) : Prop :=
  (s.part k).state = .stopping ∧ (s.part k).stop = some point ∧ point.step = (s.part k).firedFrontier
    ∧ (∀ e ∈ (s.part k).pipe, e.stage ≠ .fired)
    ∧ ∀ b, (s.board b).owner = some k → (s.link b).flushPending = false

theorem stopComplete_iff : stopComplete k s = true ↔ ∃ point, StopCompletes k s point := by
  have hbools : stopComplete k s = true ↔ (s.part k).state = .stopping
      ∧ (∃ point, (s.part k).stop = some point ∧ point.step = (s.part k).firedFrontier)
      ∧ (∀ e ∈ (s.part k).pipe, e.stage ≠ .fired)
      ∧ ∀ b, (s.board b).owner = some k → (s.link b).flushPending = false := by
    simp [stopComplete, Partition.stopStep, and_assoc]
  rw [hbools]
  exact ⟨fun ⟨hstate, ⟨point, hstop, hstep⟩, hrest⟩ => ⟨point, hstate, hstop, hstep, hrest⟩,
    fun ⟨point, hstate, hstop, hstep, hrest⟩ => ⟨hstate, ⟨point, hstop, hstep⟩, hrest⟩⟩

theorem checkStop_waits (h : ∀ point, ¬ StopCompletes k s point) : checkStop k s = s :=
  if_neg fun hcomplete => (stopComplete_iff.1 hcomplete).elim h

theorem checkStop_completes {point : StopPoint} (h : StopCompletes k s point) : checkStop k s = enterStopped k s :=
  if_pos (stopComplete_iff.2 ⟨point, h⟩)

/-- Entry to STOPPED offers the STOP record (R90, R91). -/
theorem enterStopped_part {point : StopPoint} (hp : (s.part k).stop = some point) : (enterStopped k s).part k =
    Partition.offer (.stop point.step (s.part k).vt point.primary (s.part k).also)
      { s.part k with state := .stopped } := by
  rw [enterStopped_eq hp, offerRecord_eq, State.setPart_part_self, restLinks_part, State.setPart_part_self]

/-- Entry to STOPPED makes the work item void (R90). -/
theorem enterStopped_engine : (enterStopped k s).engine = (voidWork k s).engine := by
  unfold enterStopped offerStop
  split <;> simp [offerRecord, restLinks]

/-! ## The commands -/

theorem exec_settleGapExpiry {ns : Nat} (hr : s.resetHeld = false) (hgap : (s.part k).gap = .running ns) :
    exec (.settleGapExpiry k) s
      = .next (engineSelect (advance k (s.setPart k { s.part k with gap := .elapsed }))) := by
  refine (act_running hr).trans ?_
  rw [expireGap, hgap, State.updPart_eq]

theorem exec_strobeFall (hr : s.resetHeld = false) : exec (.strobeFall k) s = .next
    (s.mapLinks fun b l => if (s.board b).owner = some k then { l with strobe := false } else l) := by
  have hexec : exec (.strobeFall k) s = execStrobeFall k s := rfl
  rw [hexec, execStrobeFall, act_running hr]
  simp only [State.owns_iff]

end

/-- Settles O45: the fire conditions on the oldest entry not FIRED, and stop completion by its condition. -/
theorem settleGapFiresAndStrobesFall : Obligations.SettleGapFiresAndStrobesFall := by
  refine ⟨fun s k ns => exec_settleGapExpiry, fun s k => rfl, fun s k => tryFire_all_fired,
    fun s k older younger e hpipe hfired he => ⟨fun hnot => ?_, fun hfires => ?_⟩, fun s k => exec_strobeFall,
    fun s k => ⟨checkStop_waits, fun point hcomplete => ⟨_, checkStop_completes hcomplete, ?_⟩⟩⟩
  · exact tryFire_waits (hpipe ▸ oldestUnfired_append hfired he) hnot
  · rw [tryFire_fires (hpipe ▸ oldestUnfired_append hfired he) hfires, fire_eq]
    rfl
  · obtain ⟨-, hstop, -⟩ := hcomplete
    obtain ⟨hboards, hpool, hports, hloader, hstore, -⟩ := onlyRun_enterStopped k s
    refine ⟨enterStopped_part hstop, fun b hb => ?_, fun b hb => ?_, fun w hw => ?_,
      fun j hj => enterStopped_part_ne hj, hboards, hports, hpool, hloader, hstore⟩
    · rw [enterStopped_link, if_pos hb]
      rfl
    · rw [enterStopped_link, if_neg hb]
    · rw [enterStopped_engine, voidWork_item hw]

end Sys2Proof.Machine
end

section
/-! SUPPORT. The PROBE_REPLY of a board (R102, R131, R137), and the statement about it. -/

namespace Sys2Proof.Machine

section
variable {s : State} {b : Board}

theorem receiveError_resetHeld (b : Board) (e : RxError) (s : State) :
    (receiveError b e s).resetHeld = s.resetHeld := by
  unfold receiveError
  dsimp only
  split
  · rfl
  · split
    · rfl
    · split <;> simp [offerLink, offerRecord]

@[simp] theorem lineAtRest_resetHeld (b : Board) (s : State) : (lineAtRest b s).resetHeld = s.resetHeld := by
  simp [lineAtRest]

@[simp] theorem State.setLink_setLink (s : State) (b : Board) (l m : Link) :
    (s.setLink b l).setLink b m = s.setLink b m := by
  simp [State.setLink]

@[simp] theorem State.setBoard_setBoard (s : State) (b : Board) (r t : BoardRecord) :
    (s.setBoard b r).setBoard b t = s.setBoard b t := by
  simp [State.setBoard]

/-- A board record and a link are changed in either order. -/
theorem State.setLink_setBoard (s : State) (b c : Board) (l : Link) (r : BoardRecord) :
    (s.setLink b l).setBoard c r = (s.setBoard c r).setLink b l := rfl

/-- A line at rest stays so. -/
theorem lineAtRest_lineAtRest (b : Board) (s : State) : lineAtRest b (lineAtRest b s) = lineAtRest b s := by
  simp [lineAtRest]

/-- The first character of a frame ends a frame that was open as a LENGTH error (R131). -/
theorem received_collecting {bytes : List Byte} {n : Nat} (f : UpFrame) (hr : s.resetHeld = false)
    (hrx : (s.link b).rx = .collecting bytes n) :
    received b f s = received b f (lineAtRest b (receiveError b .length s)) := by
  have hdropped : received b f s = .next (settle (judgeFrame b f (lineAtRest b (receiveError b .length s)))) := by
    refine (act_running hr).trans ?_
    rw [receiveFrame, hrx]
    rfl
  rw [hdropped, received_hunt f (by simpa [receiveError_resetHeld] using hr) (by simp), lineAtRest_lineAtRest]

/-- A frame received with none open is judged with the line at rest (R131, R133). -/
theorem received_closed (f : UpFrame) (hr : s.resetHeld = false)
    (hrx : (s.link b).rx = .hunt ∨ (s.link b).rx = .discard) :
    received b f s = .next (settle (judgeFrame b f (lineAtRest b s))) := by
  refine (act_running hr).trans ?_
  rcases hrx with hrx | hrx
  all_goals
    rw [receiveFrame, hrx]
    rfl

/-- Outside PROBING a PROBE_REPLY has no effect (R133). -/
theorem judgeFrame_probeReply_other {id : BitVec 16} {depth : Byte} (h : (s.board b).link ≠ .probing) :
    judgeFrame b (.probeReply id depth) s = s := by
  unfold judgeFrame
  split
  · rfl
  · cases hlink : (s.board b).link
    case probing => exact absurd hlink h
    all_goals rfl

theorem judgeFrame_probeReply {id : BitVec 16} {depth : Byte} (hmuted : (s.link b).muted = false)
    (h : (s.board b).link = .probing) : judgeFrame b (.probeReply id depth) s = takeProbeReply b id depth s := by
  simp [judgeFrame, hmuted, h]

/-- An unowned board that replies becomes IDLE (R137). -/
theorem takeProbeReply_unowned {id : BitVec 16} {depth : Byte} (h : (s.board b).owner = none) :
    takeProbeReply b id depth s = noteProbe b true ((s.setBoard b { s.board b with
      id := id, depth := clampTo 1 8 depth.toNat, link := .idle }).setLink b
        { s.link b with timer := .stopped }) := by
  simp [takeProbeReply, h, State.setLink_setBoard]

/-- An owned board that replies is SYNCING, with a SYNC to its owner's fired state (R102, R137; assumption 15). -/
theorem takeProbeReply_owned {k : Slot} {id : BitVec 16} {depth : Byte} (h : (s.board b).owner = some k) :
    takeProbeReply b id depth s = noteReplied k b ((s.setBoard b { s.board b with
      id := id, depth := clampTo 1 8 depth.toNat, link := .syncing }).setLink b
        (Link.queueSync ((s.part k).firedFrontier + 1) (levelMask (s.part k).fired)
          { s.link b with timer := .stopped })) := by
  simp [takeProbeReply, h, syncBoard, State.setLink_setBoard]

/-- A RECOVER notes a board that replied (R103). -/
theorem noteReplied_recovering {k : Slot} {replied : BoardMask} (h : (s.port k).work = some (.recovering replied)) :
    noteReplied k b s = s.setPort k { s.port k with work := some (.recovering (maskAdd replied b)) } := by
  simp [noteReplied, h]

end

/-- Settles O60: a frame that was open is dropped, and the link state and the owner decide. -/
theorem probeReplyTaken : Obligations.ProbeReplyTaken := by
  refine ⟨fun s b id depth bytes n => received_collecting _, fun s k b replied => noteReplied_recovering, ?_⟩
  intro s b id depth hr hmuted hrx s1 l record
  have hexec : exec (.probeReply b id depth) s = .next (settle (judgeFrame b (.probeReply id depth) s1)) :=
    received_closed _ hr hrx
  have hboard : s1.board b = s.board b := lineAtRest_board b b s
  have hmuted1 : (s1.link b).muted = false := by rwa [lineAtRest_link]
  have hpart : ∀ k, s1.part k = s.part k := fun k => lineAtRest_part b k s
  rw [hexec]
  refine ⟨fun hlink => ?_, fun hlink howner => ?_, fun k hlink howner => ?_⟩
  · rw [judgeFrame_probeReply_other (hboard ▸ hlink)]
  · rw [judgeFrame_probeReply hmuted1 (hboard ▸ hlink), takeProbeReply_unowned (hboard ▸ howner), hboard]
    rfl
  · rw [judgeFrame_probeReply hmuted1 (hboard ▸ hlink), takeProbeReply_owned (hboard ▸ howner), hboard, hpart]
    rfl

end Sys2Proof.Machine
end

section
/-! SUPPORT. Tags in a range (R109, R121, R130, R145), the response timer after a frame (R138, R139, R143), and the ARM_ACK
and the DONE of a board (R109, R117 to R119, R138 to R140), with the statements about them. -/

namespace Sys2Proof.Machine

/-! ## Tags -/

section
variable {tag : Tag} {lo hi m n : Nat}

/-- The lowest step number from `lo` on with a tag has that tag. -/
theorem tagOf_lowest (tag : Tag) (lo : Nat) : tagOf (lo + (tag - tagOf lo).toNat) = tag := by
  apply BitVec.eq_of_toNat_eq
  simp only [tagOf, BitVec.toNat_ofNat, BitVec.toNat_sub]
  have := tag.isLt
  omega

/-- No step number from `lo` on with that tag is lower. -/
theorem lowest_le (hlo : lo ≤ m) : lo + (tagOf m - tagOf lo).toNat ≤ m := by
  simp only [tagOf, BitVec.toNat_ofNat, BitVec.toNat_sub]
  omega

theorem expandTag_eq_some : expandTag tag lo hi = some n ↔ lo + (tag - tagOf lo).toNat = n ∧ n ≤ hi := by
  generalize hlowest : lo + (tag - tagOf lo).toNat = lowest
  simp only [expandTag, hlowest, Option.ite_none_right_eq_some, Option.some.injEq]
  exact ⟨fun ⟨hhi, heq⟩ => ⟨heq, heq ▸ hhi⟩, fun ⟨heq, hhi⟩ => ⟨heq ▸ hhi, heq⟩⟩

/-- A tag expands in a range to the lowest step number of the range that has it (R130, R145). -/
theorem expandTag_eq_some_iff : expandTag tag lo hi = some n ↔ lo ≤ n ∧ n ≤ hi ∧ tag = BitVec.ofNat 16 n
    ∧ ∀ m, lo ≤ m → m < n → tag ≠ BitVec.ofNat 16 m := by
  rw [expandTag_eq_some]
  constructor
  · rintro ⟨rfl, hhi⟩
    refine ⟨Nat.le_add_right _ _, hhi, (tagOf_lowest tag lo).symm, fun m hlo hlt htag => ?_⟩
    subst htag
    exact absurd (lowest_le hlo) (Nat.not_le.2 hlt)
  · rintro ⟨hlo, hhi, rfl, hleast⟩
    refine ⟨le_antisymm (lowest_le hlo) (Nat.not_lt.1 fun hlt => ?_), hhi⟩
    exact hleast _ (Nat.le_add_right _ _) hlt (tagOf_lowest _ lo).symm

/-- A tag expands to none exactly when no step number of the range has it (R130, R145). -/
theorem expandTag_eq_none_iff : expandTag tag lo hi = none ↔ ∀ n, lo ≤ n → n ≤ hi → tag ≠ BitVec.ofNat 16 n := by
  rw [Option.eq_none_iff_forall_ne_some]
  constructor
  · rintro hno n hlo hhi rfl
    exact hno _ (expandTag_eq_some.2 ⟨rfl, (lowest_le hlo).trans hhi⟩)
  · intro hno n hsome
    obtain ⟨hlo, hhi, htag, -⟩ := expandTag_eq_some_iff.1 hsome
    exact hno n hlo hhi htag

/-- A tag lies in the discarded range when it is that of a step of the range (R109, R121). -/
theorem Link.inDiscarded_iff (l : Link) (tag : Tag) : l.inDiscarded tag = true ↔
    ∃ lo hi n, l.discarded = some (lo, hi) ∧ lo ≤ n ∧ n ≤ hi ∧ tag = BitVec.ofNat 16 n := by
  unfold Link.inDiscarded
  rcases l.discarded with _ | ⟨lo, hi⟩
  · simp
  · have hexpands : (expandTag tag lo hi).isSome = true ↔ ∃ n, lo ≤ n ∧ n ≤ hi ∧ tag = BitVec.ofNat 16 n := by
      rw [Option.isSome_iff_ne_none, ne_eq, expandTag_eq_none_iff]
      push Not
      rfl
    simpa [and_assoc] using hexpands

end

/-! ## The response timer -/

section
variable (l : Link) (ns : Nat)

theorem Link.waiting_iff : l.waiting = true ↔
    0 < l.armsOut ∨ 0 < l.donesOut ∨ l.flushPending = true ∨ l.pollOut = true := by
  simp [Link.waiting, or_assoc]

theorem Link.stopIfIdle_eq : l.stopIfIdle = { l with timer := match l.timer with
    | .running ns => if l.waiting = true then .running ns else .stopped
    | other => other } := by
  unfold Link.stopIfIdle
  cases htimer : l.timer <;> cases hwaiting : l.waiting <;> simp [← htimer]

/-- A frame taken or ignored restarts the response timer unless it is SUSPENDED, and stops it when nothing is
outstanding (R138, R139, R143). -/
theorem Link.restartTimer_stopIfIdle : (l.restartTimer ns).stopIfIdle = { l with
    timer := if l.timer = .suspended then .suspended else if l.waiting = true then .running ns else .stopped } := by
  have hwaiting : ∀ timer, Link.waiting { l with timer := timer } = l.waiting := fun _ => rfl
  rw [Link.stopIfIdle_eq, Link.restartTimer]
  cases htimer : l.timer <;> simp [htimer, hwaiting]

/-- A frame taken clears the expiry marker too (R138, R139). -/
theorem Link.progress_eq : l.progress ns = { l with
    expiry := false,
    timer := if l.timer = .suspended then .suspended else if l.waiting = true then .running ns else .stopped } :=
  Link.restartTimer_stopIfIdle { l with expiry := false } ns

end

/-! ## Entries of the pipe -/

theorem allFlagged_iff (set : List Board) (m : BoardMask) : allFlagged set m = true ↔ ∀ b ∈ set, maskHas m b = true :=
  List.all_eq_true

theorem PipeEntry.ack_eq (set : List Board) (b : Board) (e : PipeEntry) : e.ack set b = { e with
    acked := maskAdd e.acked b,
    stage := if e.stage = .arming ∧ ∀ x ∈ set, maskHas (maskAdd e.acked b) x = true then .armed else e.stage } := by
  simp only [PipeEntry.ack, allFlagged_iff]

/-- The entries retired are the oldest, as far as they are FIRED and reported done by every board (R119). -/
theorem retired_append {set : List Board} {complete rest : List PipeEntry}
    (hcomplete : ∀ e ∈ complete, e.stage = .fired ∧ allFlagged set e.doneBy = true)
    (hrest : ∀ e younger, rest = e :: younger → ¬ (e.stage = .fired ∧ allFlagged set e.doneBy = true)) :
    retired set (complete ++ rest) = rest := by
  induction complete with
  | nil =>
    cases rest with
    | nil => rfl
    | cons e younger => exact if_neg (hrest e younger rfl)
  | cons e complete ih =>
    have hkept := ih fun x hx => hcomplete x (List.mem_cons_of_mem _ hx)
    exact (if_pos (hcomplete e List.mem_cons_self)).trans hkept

/-! ## Frames not taken -/

section
variable {s : State} {b : Board} {k : Slot} {tag : Tag}

/-- A frame that is not taken: ignored in the discarded range, and otherwise out of sequence (R121, R140). -/
def judgeNotTaken (b : Board) (tag : Tag) (s : State) : State :=
  if (s.link b).inDiscarded tag then ignoreFrame b s else outOfSequence b s

theorem judgeNotTaken_discarded (h : (s.link b).inDiscarded tag = true) :
    judgeNotTaken b tag s = s.setLink b ((s.link b).restartTimer (s.responseNs b)).stopIfIdle :=
  if_pos h

theorem judgeNotTaken_excused (h : (s.link b).inDiscarded tag = false) (hloss : (s.link b).loss = true) :
    judgeNotTaken b tag s = s := by
  simp [judgeNotTaken, outOfSequence, h, hloss]

theorem judgeNotTaken_fault (h : (s.link b).inDiscarded tag = false) (hloss : (s.link b).loss = false) :
    judgeNotTaken b tag s = boardFault b .sequence s := by
  simp [judgeNotTaken, outOfSequence, h, hloss]

/-! ## ARM_ACK -/

/-- An ARM_ACK of the step expected is taken (R138). -/
theorem judgeArmAck_taken {a : Nat} (hnext : (s.link b).nextAck = some a)
    (h : 0 < (s.link b).armsOut ∧ tag = tagOf a) : judgeArmAck b tag s =
    ackInPipe b a (s.setLink b (((s.link b).ackStep a).progress (s.responseNs b))) := by
  simp [judgeArmAck, hnext, ← h.2, h.1]

theorem judgeArmAck_not_taken {a : Nat} (hnext : (s.link b).nextAck = some a)
    (h : ¬ (0 < (s.link b).armsOut ∧ tag = tagOf a)) : judgeArmAck b tag s = judgeNotTaken b tag s := by
  simp only [judgeArmAck, hnext, if_neg h, judgeNotTaken]

theorem ackInPipe_owned {a : Nat} (howner : (s.board b).owner = some k) : ackInPipe b a s = tryFire k (s.setPart k
    { s.part k with pipe := updateEntry a (PipeEntry.ack (s.ownedBoards k) b) (s.part k).pipe }) := by
  simp [ackInPipe, howner, markAcked]

@[simp] theorem State.setLink_ownedBoards (l : Link) : (s.setLink b l).ownedBoards k = s.ownedBoards k := rfl
@[simp] theorem lineAtRest_ownedBoards : (lineAtRest b s).ownedBoards k = s.ownedBoards k := rfl

end

/-- Settles O55: the tag decides, then the discarded range, then the loss marker. -/
theorem armAckJudged : Obligations.ArmAckJudged := by
  refine ⟨Link.inDiscarded_iff, fun set b e => PipeEntry.ack_eq set b e, fun n f pipe => rfl, fun l ns => ?_, ?_⟩
  · simp only [Link.progress_eq, Link.restartTimer_stopIfIdle, Link.waiting_iff, and_self]
  · intro s k b tag a h hnext s1 l expected
    have hexec : exec (.armAck b tag) s = .next (settle (judgeArmAck b tag s1)) := received_bound _ h
    have hnext1 : (s1.link b).nextAck = some a := by simpa [s1] using hnext
    have howner1 : (s1.board b).owner = some k := by
      obtain ⟨-, howner, -⟩ := h
      simpa [s1] using howner
    rw [hexec]
    refine ⟨fun hyes => ?_, fun hno hrange => ?_, fun hno hrange hloss => ?_, fun hno hrange hloss => ?_⟩
    · rw [judgeArmAck_taken hnext1 hyes, ackInPipe_owned (by rwa [State.setLink_board])]
      simp [s1, l, Link.ackStep]
    · rw [judgeArmAck_not_taken hnext1 hno, judgeNotTaken_discarded hrange, lineAtRest_responseNs]
    · rw [judgeArmAck_not_taken hnext1 hno, judgeNotTaken_excused hrange hloss]
    · rw [judgeArmAck_not_taken hnext1 hno, judgeNotTaken_fault hrange hloss]

/-! ## DONE -/

section
variable {s : State} {b : Board} {k : Slot} {tag : Tag}

/-- A DONE of the step expected is taken (R139). -/
theorem judgeDone_taken {trigger : Option TriggerId} {stamp : Option (BitVec 32)} {d : Nat}
    (hnext : (s.link b).nextDone = some d) (h : 0 < (s.link b).donesOut ∧ tag = tagOf d) :
    judgeDone b tag trigger stamp s = advanceOwner b (doneInPipe b d (trigger.map fun id => (id, stamp))
      (s.setLink b (((s.link b).doneStep d).progress (s.responseNs b)))) := by
  simp [judgeDone, hnext, ← h.2, h.1]

theorem judgeDone_not_taken {trigger : Option TriggerId} {stamp : Option (BitVec 32)} {d : Nat}
    (hnext : (s.link b).nextDone = some d) (h : ¬ (0 < (s.link b).donesOut ∧ tag = tagOf d)) :
    judgeDone b tag trigger stamp s = judgeNotTaken b tag s := by
  simp only [judgeDone, hnext, if_neg h, judgeNotTaken]

theorem advanceOwner_owned (howner : (s.board b).owner = some k) : advanceOwner b s = advance k s := by
  simp [advanceOwner, howner]

/-- The entry of a step, found once it is marked, is the entry as it was, marked (R117). -/
theorem find?_marked (b : Board) (d : Nat) (pipe : List PipeEntry) :
    (updateEntry d (fun e => { e with doneBy := maskAdd e.doneBy b }) pipe).find? (fun e => e.number == d)
      = (pipe.find? fun e => e.number == d).map fun e => { e with doneBy := maskAdd e.doneBy b } := by
  induction pipe with
  | nil => rfl
  | cons e es ih =>
    rw [updateEntry, List.map_cons, ← updateEntry]
    by_cases he : e.number = d
    · simp [he]
    · simp [he, ih]

/-- The state once a done step is marked in the owner's pipe (R117). -/
theorem markDone_eq (k : Slot) (b : Board) (d : Nat) (s : State) : markDone k b d s = s.setPart k { s.part k with
    pipe := updateEntry d (fun e => { e with doneBy := maskAdd e.doneBy b }) (s.part k).pipe } := rfl

theorem retire_eq (k : Slot) (s : State) :
    retire k s = s.setPart k { s.part k with pipe := retired (s.ownedBoards k) (s.part k).pipe } := rfl

/-- A done step without a trigger report: marked, and retirement checked (R117, R119). -/
theorem doneInPipe_none {d : Nat} (howner : (s.board b).owner = some k) :
    doneInPipe b d none s = retire k (markDone k b d s) := by
  simp [doneInPipe, howner]

/-- A done step with a trigger report: the report is handed over with the time of the step before retirement is checked
(R118, R119). -/
theorem doneInPipe_some {d : Nat} {e : PipeEntry} {id : TriggerId} {stamp : Option (BitVec 32)}
    (howner : (s.board b).owner = some k) (he : (s.part k).pipe.find? (fun e => e.number == d) = some e) :
    doneInPipe b d (some (id, stamp)) s = retire k (takeReport k ⟨d, e.time, b, id, stamp⟩ (markDone k b d s)) := by
  have htime : ((markDone k b d s).part k).pipe.find? (fun e => e.number == d)
      = some { e with doneBy := maskAdd e.doneBy b } := by
    rw [markDone_eq, State.setPart_part_self, find?_marked, he]
    rfl
  simp [doneInPipe, howner, htime]

/-- What a done step does in the owner's pipe leaves every board record (R117 to R119). -/
theorem doneInPipe_board (d : Nat) (report : Option (TriggerId × Option (BitVec 32))) (c : Board) :
    (doneInPipe b d report s).board c = s.board c := by
  obtain ⟨hboards, -⟩ := onlyRun_doneInPipe b d report s
  rw [State.board, hboards, State.board]

end

/-- Settles O57: the oldest complete entries go, and a DONE is judged by its tag, then the discarded range, then the loss
marker. -/
theorem doneMarksAndRetires : Obligations.DoneMarksAndRetires := by
  refine ⟨fun set complete rest => ?_, ?_⟩
  · simp only [← allFlagged_iff]
    exact retired_append
  · intro s k b tag trigger stamp d h hnext s1 l expected s2
    have hexec : exec (.boardDone b tag trigger stamp) s = .next (settle (judgeDone b tag trigger stamp s1)) :=
      received_bound _ h
    have hnext1 : (s1.link b).nextDone = some d := by simpa [s1] using hnext
    have howner1 : (s1.board b).owner = some k := by
      obtain ⟨-, howner, -⟩ := h
      simpa [s1] using howner
    rw [hexec]
    refine ⟨?_, fun hno hrange => ?_, fun hno hrange hloss => ?_, fun hno hrange hloss => ?_⟩
    · intro e hyes he s3
      have hmarked : markDone k b d (s1.setLink b (((s1.link b).doneStep d).progress (s1.responseNs b))) = s2 := by
        simp [markDone_eq, s2, s1, l, Link.doneStep]
      rw [judgeDone_taken hnext1 hyes, advanceOwner_owned (by rwa [doneInPipe_board, State.setLink_board])]
      cases trigger with
      | none => rw [Option.map_none, doneInPipe_none (by rwa [State.setLink_board]), hmarked, retire_eq]
      | some id =>
        have hentry : (s1.part k).pipe.find? (fun e => e.number == d) = some e := by simpa [s1] using he
        rw [Option.map_some, doneInPipe_some (by rwa [State.setLink_board]) (by rwa [State.setLink_part]), hmarked,
          retire_eq]
    · rw [judgeDone_not_taken hnext1 hno, judgeNotTaken_discarded hrange, lineAtRest_responseNs]
    · rw [judgeDone_not_taken hnext1 hno, judgeNotTaken_excused hrange hloss]
    · rw [judgeDone_not_taken hnext1 hno, judgeNotTaken_fault hrange hloss]

end Sys2Proof.Machine
end

section
/-! SUPPORT. ARMs sent again, placed in a transmit order (R135, R142, R146), the ARM_NAK and the end of a backoff (R141,
R142), and the statement about them. -/

namespace Sys2Proof.Machine

/-! ## A transmit order with ARMs -/

/-- The ARM of an entry, as it waits in a transmit order (R108). -/
def PipeEntry.armItem (e : PipeEntry) : TxItem := .arm e.number e.changed e.level

/-- What stands before the ARMs of a transmit order: at most a POLL (R144). -/
def PollAtMost (pre : List TxItem) : Prop := pre = [] ∨ pre = [.poll]

/-- What stands after the ARMs of a transmit order: nothing, or what a FLUSH begins. -/
def FlushFirst (tail : List TxItem) : Prop := tail = [] ∨ ∃ keep rest, tail = .flush keep :: rest

/-- A transmit order with the ARMs of some entries between two other parts. -/
def orderWith (pre : List TxItem) (es : List PipeEntry) (tail : List TxItem) : List TxItem :=
  pre ++ (es.map PipeEntry.armItem ++ tail)

/-- Whether the ARM of step `n` stands in a transmit order. -/
def hasArm (order : List TxItem) (n : Nat) : Bool := order.any (TxItem.isArm n)

section
variable {n : Nat} {changed level : ClockMask} {pre tail : List TxItem} {e : PipeEntry}
  {front behind es : List PipeEntry}

theorem hasArm_armItems : hasArm (es.map PipeEntry.armItem) n = es.any fun e => e.number == n := by
  simp [hasArm, Function.comp_def, PipeEntry.armItem, TxItem.isArm]

theorem hasArm_orderWith (hpre : PollAtMost pre) :
    hasArm (orderWith pre es tail) n = (es.any (fun e => e.number == n) || hasArm tail n) := by
  have hpoll : hasArm pre n = false := by rcases hpre with rfl | rfl <;> rfl
  rw [← hasArm_armItems]
  simp only [hasArm, orderWith, List.any_append] at hpoll ⊢
  rw [hpoll, Bool.false_or]

/-- An ARM is placed behind the POLL that stands at the head. -/
theorem PollAtMost.insertArm (h : PollAtMost pre) (order : List TxItem) :
    insertArm n changed level (pre ++ order) = pre ++ insertArm n changed level order := by
  rcases h with rfl | rfl <;> rfl

/-- An ARM is placed behind the ARMs of earlier steps. -/
theorem insertArm_behind (hfront : ∀ x ∈ front, x.number < n) (order : List TxItem) :
    insertArm n changed level (front.map PipeEntry.armItem ++ order)
      = front.map PipeEntry.armItem ++ insertArm n changed level order := by
  induction front with
  | nil => rfl
  | cons x xs ih =>
    have hplaced := ih fun y hy => hfront y (List.mem_cons_of_mem _ hy)
    exact (if_pos (hfront x List.mem_cons_self)).trans (congrArg (x.armItem :: ·) hplaced)

/-- An ARM is placed before the ARMs of later steps, and before a FLUSH. -/
theorem insertArm_before (htail : FlushFirst tail) (hbehind : ∀ x ∈ behind, n ≤ x.number) :
    insertArm n changed level (behind.map PipeEntry.armItem ++ tail)
      = .arm n changed level :: (behind.map PipeEntry.armItem ++ tail) := by
  cases behind with
  | nil => rcases htail with rfl | ⟨keep, rest, rfl⟩ <;> rfl
  | cons x xs => exact if_neg (Nat.not_lt.2 (hbehind x List.mem_cons_self))

/-- The ARM of an entry is placed in step order among the ARMs that wait. -/
theorem insertArm_orderWith (hpre : PollAtMost pre) (htail : FlushFirst tail)
    (hfront : ∀ x ∈ front, x.number < e.number) (hbehind : ∀ x ∈ behind, e.number ≤ x.number) :
    insertArm e.number e.changed e.level (orderWith pre (front ++ behind) tail)
      = orderWith pre (front ++ e :: behind) tail := by
  simp only [orderWith, List.map_append, List.append_assoc]
  rw [hpre.insertArm, insertArm_behind hfront, insertArm_before htail hbehind]
  rfl

end

/-! ## Sending again -/

section
variable {a last : Nat} {pre tail : List TxItem}

/-- Whether sending again places the ARM of an entry in a transmit order: its step lies in the range, and its ARM does
not stand there (R142, R146). -/
def placesArm (a last : Nat) (order : List TxItem) (e : PipeEntry) : Bool :=
  decide (a ≤ e.number) && decide (e.number ≤ last) && !hasArm order e.number

theorem resendArms_step (a last : Nat) (e : PipeEntry) (es : List PipeEntry) (order : List TxItem) :
    resendArms a last (e :: es) order = resendArms a last es
      (if placesArm a last order e = true then insertArm e.number e.changed e.level order else order) := by
  rw [resendArms]
  simp only [placesArm, hasArm, Bool.and_eq_true, decide_eq_true_eq, Bool.not_eq_true', and_assoc]

/-- Other entries' ARMs do not stand for the ARM of an entry. -/
theorem placesArm_orderWith (hpre : PollAtMost pre) {e : PipeEntry} {others : List PipeEntry}
    (h : ∀ x ∈ others, x.number ≠ e.number) :
    placesArm a last (orderWith pre others tail) e = placesArm a last tail e := by
  have hnone : others.any (fun x => x.number == e.number) = false := by simpa using h
  rw [placesArm, hasArm_orderWith hpre, hnone, Bool.false_or, placesArm]

/-- Sending again, entry after entry (R142, R146). The entries of `front` are dealt with; of those to come the ones that
`waits` tells have their ARM in the transmit order, and of the others those are placed whose ARM is not in `tail`. -/
theorem resendArms_from (hpre : PollAtMost pre) (htail : FlushFirst tail) (waits : PipeEntry → Bool) :
    ∀ (es front : List PipeEntry), (es.map PipeEntry.number).Pairwise (· < ·) →
      (∀ x ∈ front, ∀ e ∈ es, x.number < e.number) →
      resendArms a last es (orderWith pre (front ++ es.filter waits) tail)
        = orderWith pre (front ++ es.filter fun e => waits e || placesArm a last tail e) tail
  | [], front, _, _ => rfl
  | e :: es, front, hsorted, hfront => by
    rw [List.map_cons, List.pairwise_cons] at hsorted
    obtain ⟨hfirst, hsorted⟩ := hsorted
    have hbefore : ∀ x ∈ front, x.number < e.number := fun x hx => hfront x hx e List.mem_cons_self
    have hafter : ∀ x ∈ es.filter waits, e.number < x.number := fun x hx =>
      hfirst _ (List.mem_map_of_mem (List.mem_of_mem_filter hx))
    have hpassed := resendArms_from hpre htail waits es front hsorted fun x hx y hy =>
      hfront x hx y (List.mem_cons_of_mem _ hy)
    have hjoined := resendArms_from hpre htail waits es (front ++ [e]) hsorted fun x hx y hy => by
      rcases List.mem_append.1 hx with hx | hx
      · exact hfront x hx y (List.mem_cons_of_mem _ hy)
      · exact List.mem_singleton.1 hx ▸ hfirst _ (List.mem_map_of_mem hy)
    rw [← List.append_cons, ← List.append_cons] at hjoined
    rw [resendArms_step]
    cases hwaits : waits e
    case true =>
      have hthere : placesArm a last (orderWith pre (front ++ e :: es.filter waits) tail) e = false := by
        simp [placesArm, hasArm_orderWith hpre]
      rw [List.filter_cons_of_pos hwaits, List.filter_cons_of_pos (by simp [hwaits]), hthere]
      exact hjoined
    case false =>
      have hothers : placesArm a last (orderWith pre (front ++ es.filter waits) tail) e = placesArm a last tail e :=
        placesArm_orderWith hpre fun x hx => (List.mem_append.1 hx).elim (fun h => (hbefore x h).ne)
          (fun h => (hafter x h).ne')
      rw [List.filter_cons_of_neg (by simp [hwaits]), hothers]
      cases hplaces : placesArm a last tail e
      case true =>
        rw [List.filter_cons_of_pos (by simp [hplaces]), if_pos rfl,
          insertArm_orderWith hpre htail hbefore fun x hx => (hafter x hx).le]
        exact hjoined
      case false =>
        rw [List.filter_cons_of_neg (by simp [hwaits, hplaces])]
        exact hpassed

/-- Sending again in a transmit order of ARMs that `waits` tells (R142, R146). -/
theorem resendArms_orderWith (hpre : PollAtMost pre) (htail : FlushFirst tail) (waits : PipeEntry → Bool)
    {es : List PipeEntry} (hsorted : (es.map PipeEntry.number).Pairwise (· < ·)) :
    resendArms a last es (orderWith pre (es.filter waits) tail)
      = orderWith pre (es.filter fun e => waits e || placesArm a last tail e) tail :=
  resendArms_from hpre htail waits es [] hsorted fun _ hx => absurd hx List.not_mem_nil

end

/-! ## The end of a backoff -/

/-- The entries of a pipe that are not FIRED. -/
def unfiredEntries (pipe : List PipeEntry) : List PipeEntry := pipe.filter fun e => e.stage != .fired

section
variable {s : State} {b : Board} {k : Slot} {l : Link} {a m : Nat} {pre tail : List TxItem}
  {pipe unfired : List PipeEntry}

/-- The step numbers of a pipe rise (R106). -/
theorem PipeInv.sorted (h : PipeInv s) (k : Slot) : ((s.part k).pipe.map PipeEntry.number).Pairwise (· < ·) := by
  have hinv := h k
  simp only [pipeInvAt, pipeShape, Bool.and_eq_true, beq_iff_eq] at hinv
  obtain ⟨⟨⟨⟨⟨⟨-, hnumbers⟩, -⟩, -⟩, -⟩, -⟩, -⟩ := hinv
  exact hnumbers ▸ List.pairwise_lt_range'

theorem unfiredEntries_sorted (h : (pipe.map PipeEntry.number).Pairwise (· < ·)) :
    ((unfiredEntries pipe).map PipeEntry.number).Pairwise (· < ·) :=
  h.sublist (List.filter_sublist.map _)

/-- The youngest entry has the highest step number. -/
theorem number_le_getLast {youngest : PipeEntry} (hsorted : (pipe.map PipeEntry.number).Pairwise (· < ·))
    (hlast : pipe.getLast? = some youngest) {e : PipeEntry} (he : e ∈ pipe) : e.number ≤ youngest.number := by
  obtain ⟨older, rfl⟩ := List.getLast?_eq_some_iff.1 hlast
  rw [List.map_append, List.pairwise_append] at hsorted
  obtain ⟨-, -, hcross⟩ := hsorted
  rcases List.mem_append.1 he with he | he
  · exact (hcross _ (List.mem_map_of_mem he) _ List.mem_cons_self).le
  · exact (congrArg PipeEntry.number (List.mem_singleton.1 he)).le

theorem Link.not_waiting_iff (l : Link) : ¬ l.waiting = true ↔
    l.armsOut = 0 ∧ l.donesOut = 0 ∧ l.flushPending = false ∧ l.pollOut = false := by
  simp [Link.waiting_iff]

/-- The end of a backoff: the ARMs of the unfired entries from A on that are not in the transmit order are placed, and
the timer is started afresh when anything is outstanding (R135, R142). -/
theorem Link.endBackoff_eq {ns t : Nat} (hbackoff : l.backoff = .running t) (hnext : l.nextAck = some a)
    (hsorted : (pipe.map PipeEntry.number).Pairwise (· < ·)) (hpre : PollAtMost pre) (htail : FlushFirst tail)
    (waits : PipeEntry → Bool) (horder : l.order = orderWith pre ((unfiredEntries pipe).filter waits) tail) :
    l.endBackoff ns pipe = { l with
      backoff := .idle,
      order := orderWith pre ((unfiredEntries pipe).filter fun e =>
        waits e || (decide (a ≤ e.number) && !hasArm tail e.number)) tail,
      timer := if l.armsOut = 0 ∧ l.donesOut = 0 ∧ l.flushPending = false ∧ l.pollOut = false then .stopped
        else .running ns } := by
  have hunfired : (pipe.filter fun e => e.stage != .fired) = unfiredEntries pipe := rfl
  simp only [Link.endBackoff, hbackoff, hnext, hunfired, ← Link.not_waiting_iff, ite_not]
  cases hlast : (unfiredEntries pipe).getLast? with
  | none => simp [horder, List.getLast?_eq_none_iff.1 hlast]
  | some youngest =>
    have hplaces : ∀ e ∈ unfiredEntries pipe, placesArm a youngest.number tail e
        = (decide (a ≤ e.number) && !hasArm tail e.number) := fun e he => by
      simp [placesArm, number_le_getLast (unfiredEntries_sorted hsorted) hlast he]
    have hplaced := resendArms_orderWith (a := a) (last := youngest.number) hpre htail waits
      (unfiredEntries_sorted hsorted)
    rw [List.filter_congr fun e he => congrArg (waits e || ·) (hplaces e he)] at hplaced
    simp only [horder, hplaced]

/-- BACKOFF_END (R142). -/
theorem exec_backoffEnd {ns : Nat} {order : List TxItem} (hr : s.resetHeld = false)
    (hbackoff : (s.link b).backoff = .running ns) (howner : (s.board b).owner = some k)
    (hnext : (s.link b).nextAck = some a) (hinv : PipeInv s) (hpre : PollAtMost pre) (htail : FlushFirst tail)
    (waits : PipeEntry → Bool)
    (hwaiting : (s.link b).order = orderWith pre ((unfiredEntries (s.part k).pipe).filter waits) tail)
    (hplaced : orderWith pre ((unfiredEntries (s.part k).pipe).filter fun e =>
      waits e || (decide (a ≤ e.number) && !hasArm tail e.number)) tail = order) :
    exec (.backoffEnd b) s = .next (s.setLink b { s.link b with
      backoff := .idle, order := order,
      timer := if (s.link b).armsOut = 0 ∧ (s.link b).donesOut = 0 ∧ (s.link b).flushPending = false
          ∧ (s.link b).pollOut = false then .stopped
        else .running (((s.part k).settings.timeoutCode + 1) * 16000) }) := by
  have hexec : exec (.backoffEnd b) s = execBackoffEnd b s := rfl
  rw [hexec, execBackoffEnd, act_running hr, State.updLink_eq, State.responseNs_owned howner, State.pipeFor, howner,
    Link.endBackoff_eq hbackoff hnext (hinv.sorted k) hpre htail waits hwaiting, hplaced]

/-- With no ARM behind the FLUSH, sending again completes the ARMs that wait (R142). -/
theorem filter_placed_or_waiting (ham : a ≤ m) (hnone : ∀ n, hasArm tail n = false) :
    (unfired.filter fun e => decide (m ≤ e.number) || (decide (a ≤ e.number) && !hasArm tail e.number))
      = unfired.filter fun e => a ≤ e.number := by
  refine List.filter_congr fun e _ => ?_
  rw [hnone, Bool.eq_iff_iff]
  simp only [Bool.not_false, Bool.and_true, Bool.or_eq_true, decide_eq_true_eq]
  omega

/-- With the ARMs from a step on behind the FLUSH, sending again places those below it (R142). -/
theorem filter_placed_before_flush (keep : Nat) (m : Nat) :
    (unfired.filter fun e => decide (a ≤ e.number) && !hasArm
        (.flush keep :: (unfired.filter fun e => m ≤ e.number).map PipeEntry.armItem) e.number)
      = unfired.filter fun e => a ≤ e.number ∧ e.number < m := by
  refine List.filter_congr fun e he => ?_
  have hbehind : hasArm (.flush keep :: (unfired.filter fun e => m ≤ e.number).map PipeEntry.armItem) e.number
      = decide (m ≤ e.number) := by
    have hflush : ∀ order n, hasArm (.flush keep :: order) n = hasArm order n := fun order n => rfl
    rw [hflush, hasArm_armItems, Bool.eq_iff_iff]
    simp only [List.any_eq_true, List.mem_filter, beq_iff_eq, decide_eq_true_eq]
    exact ⟨fun ⟨x, ⟨_, hm⟩, heq⟩ => heq ▸ hm, fun hm => ⟨e, ⟨he, hm⟩, rfl⟩⟩
  rw [hbehind, Bool.eq_iff_iff]
  simp

end

/-! ## ARM_NAK -/

section
variable {s : State} {b : Board} {k : Slot} {tag : Tag} {a : Nat}

/-- An ARM_NAK with a tag of the discarded range is ignored (R121, R141). -/
theorem judgeArmNak_discarded (h : (s.link b).inDiscarded tag = true) :
    judgeArmNak b tag s = s.setLink b ((s.link b).restartTimer (s.responseNs b)).stopIfIdle := by
  rw [judgeArmNak, if_pos h]
  rfl

theorem judgeArmNak_not_taken (hrange : (s.link b).inDiscarded tag = false) (hnext : (s.link b).nextAck = some a)
    (h : ¬ (0 < (s.link b).armsOut ∧ tag = tagOf a)) : judgeArmNak b tag s = judgeNotTaken b tag s := by
  simp only [judgeArmNak, judgeNotTaken, hrange, hnext, if_neg h]

/-- An ARM_NAK of the step expected is taken: a backoff begins, or beyond the retry limit the board faults (R141,
R142). -/
theorem judgeArmNak_taken (howner : (s.board b).owner = some k) (hrange : (s.link b).inDiscarded tag = false)
    (hnext : (s.link b).nextAck = some a) (h : 0 < (s.link b).armsOut ∧ tag = tagOf a) : judgeArmNak b tag s =
    if (s.part k).settings.retryLimit < (s.link b).retries + 1 then
      boardFault b .retries (s.setLink b ((s.link b).refused a))
    else s.setLink b (((s.link b).refused a).beginBackoff (s.part k).settings.backoffLimit) := by
  have hsettings : (s.setLink b ((s.link b).refused a)).settingsFor b = (s.part k).settings := by
    simp [State.settingsFor, howner]
  have hretries : ((s.link b).refused a).retries = (s.link b).retries + 1 := rfl
  simp only [judgeArmNak, hrange, hnext, if_pos h, Bool.false_eq_true, if_false, State.updLink_eq, hsettings,
    State.setLink_link_self, hretries, State.setLink_setLink]

end

/-- Settles O56: an ARM_NAK by its tag and the retry counter, and the end of a backoff by where ARMs wait already. -/
theorem armNakBacksOffAndResends : Obligations.ArmNakBacksOffAndResends := by
  constructor
  · intro s k b tag cause a h hnext s1 l expected refused
    have hexec : exec (.armNak b tag cause) s = .next (settle (judgeArmNak b tag s1)) := received_bound _ h
    have hnext1 : (s1.link b).nextAck = some a := by simpa [s1] using hnext
    have howner1 : (s1.board b).owner = some k := by
      obtain ⟨-, howner, -⟩ := h
      simpa [s1] using howner
    have hsettings : (s1.part k).settings = (s.part k).settings := by rw [lineAtRest_part]
    rw [hexec]
    refine ⟨fun hrange => ?_, fun hrange hyes hlimit => ?_, fun hrange hyes hlimit => ?_, fun hrange hno hloss => ?_,
      fun hrange hno hloss => ?_⟩
    · rw [judgeArmNak_discarded hrange, lineAtRest_responseNs]
    · rw [judgeArmNak_taken howner1 hrange hnext1 hyes, hsettings, if_neg (Nat.not_lt.2 hlimit)]
      rfl
    · rw [judgeArmNak_taken howner1 hrange hnext1 hyes, hsettings, if_pos hlimit]
      rfl
    · rw [judgeArmNak_not_taken hrange hnext1 hno, judgeNotTaken_excused hrange hloss]
    · rw [judgeArmNak_not_taken hrange hnext1 hno, judgeNotTaken_fault hrange hloss]
  · intro s b k ns a m pre tail hr hbackoff howner hnext hinv unfired armsFrom armsBelow ham hpre order horder
    rcases horder with ⟨htail, hwaiting, rfl⟩ | ⟨⟨keep, rfl⟩, hwaiting, rfl⟩
    · have hflush : FlushFirst tail := htail.imp_right fun ⟨keep, h⟩ => ⟨keep, [], h⟩
      have hnone : ∀ n, hasArm tail n = false := fun n => by rcases htail with rfl | ⟨keep, rfl⟩ <;> rfl
      have hplaced := congrArg (orderWith pre · tail) (filter_placed_or_waiting (unfired := unfired) ham hnone)
      exact exec_backoffEnd hr hbackoff howner hnext hinv hpre hflush (fun e => m ≤ e.number)
        (hwaiting.trans (List.append_assoc _ _ _)) (hplaced.trans (List.append_assoc _ _ _).symm)
    · have hwaiting' : (s.link b).order
          = orderWith pre (unfired.filter fun _ => false) (.flush keep :: armsFrom m) := by
        rw [hwaiting, List.filter_false]
        rfl
      have hplaced := congrArg (orderWith pre · (.flush keep :: armsFrom m))
        (filter_placed_before_flush (a := a) (unfired := unfired) keep m)
      exact exec_backoffEnd hr hbackoff howner hnext hinv hpre (.inr ⟨keep, armsFrom m, rfl⟩) (fun _ => false) hwaiting'
        (hplaced.trans (List.append_assoc _ _ _).symm)

end Sys2Proof.Machine
end

section
/-! SUPPORT. The STATUS of a board (R122, R139, R145, R146), and the statement about it. -/

namespace Sys2Proof.Machine

section
variable {s : State} {b : Board} {k : Slot}

/-! ## Acknowledgements and completions -/

/-- A step taken from a STATUS as acknowledged counts as the ARM_ACK of that step does (R146). -/
theorem statusAcks_succ {a : Nat} (howner : (s.board b).owner = some k) (hnext : (s.link b).nextAck = some a)
    (n : Nat) : statusAcks b (n + 1) s = statusAcks b n (tryFire k ((s.setLink b ((s.link b).ackStep a)).setPart k
      { s.part k with pipe := updateEntry a (PipeEntry.ack (s.ownedBoards k) b) (s.part k).pipe })) := by
  rw [statusAcks, hnext]
  simp only [State.updLink_eq]
  rw [ackInPipe_owned (by rwa [State.setLink_board]), State.setLink_part, State.setLink_ownedBoards]

/-- The trigger report a STATUS gives for step `d` (R146). -/
def statusReport (trigger : Option (Tag × TriggerId)) (d : Nat) : Option (TriggerId × Option (BitVec 32)) :=
  trigger.bind fun (tag, id) => if tag = tagOf d then some (id, none) else none

theorem statusReport_named {tag : Tag} {d : Nat} (id : TriggerId) (h : tag = tagOf d) :
    statusReport (some (tag, id)) d = some (id, none) := if_pos h

theorem statusReport_other {tag : Tag} {d : Nat} (id : TriggerId) (h : tag ≠ tagOf d) :
    statusReport (some (tag, id)) d = none := if_neg h

/-- A done step marked in the owner's pipe with what a STATUS gives for it (R117 to R119, R146). -/
theorem doneInPipe_statusReport {trigger : Option (Tag × TriggerId)} {d : Nat} {e : PipeEntry}
    (howner : (s.board b).owner = some k) (he : (s.part k).pipe.find? (fun e => e.number == d) = some e) :
    doneInPipe b d (statusReport trigger d) s = retire k (match trigger with
      | some (tag, id) =>
        if tag = BitVec.ofNat 16 d then takeReport k ⟨d, e.time, b, id, none⟩ (markDone k b d s) else markDone k b d s
      | none => markDone k b d s) := by
  rcases trigger with _ | ⟨tag, id⟩
  · exact doneInPipe_none howner
  · dsimp only
    by_cases htag : tag = BitVec.ofNat 16 d
    · rw [statusReport_named id htag, doneInPipe_some howner he, if_pos htag]
    · rw [statusReport_other id htag, doneInPipe_none howner, if_neg htag]

/-- A step taken from a STATUS as done counts as the DONE of that step does (R146). -/
theorem statusDones_succ {trigger : Option (Tag × TriggerId)} {d : Nat} (hnext : (s.link b).nextDone = some d)
    (n : Nat) : statusDones b trigger (n + 1) s = statusDones b trigger n
      (doneInPipe b d (statusReport trigger d) (s.setLink b ((s.link b).doneStep d))) := by
  rw [statusDones, hnext]
  rfl

/-! ## The FLUSH settled -/

/-- A STATUS that names no discarded step settles the FLUSH (R122). -/
theorem Link.settleFlush_settled {l : Link} {lo hi armed : Nat} (hpending : l.flushPending = true)
    (hrange : l.discarded = some (lo, hi)) (h : armed < lo) :
    l.settleFlush armed = { l with flushPending := false } := by
  simp only [Link.settleFlush, hpending, hrange, if_pos h]

/-- A FLUSH sent before the POLL that the board has still not taken is sent again (R122). -/
theorem Link.settleFlush_again {l : Link} {lo hi armed : Nat} (hpending : l.flushPending = true)
    (hrange : l.discarded = some (lo, hi)) (h : lo ≤ armed) (hafter : l.pollAfterFlush = true) :
    l.settleFlush armed
      = { l with order := l.order ++ [.flush (lo - 1)], flushSent := false, pollAfterFlush := false } := by
  simp only [Link.settleFlush, hpending, hrange, if_neg (Nat.not_lt.2 h), if_pos hafter]

theorem Link.settleFlush_waits {l : Link} {lo hi armed : Nat} (hpending : l.flushPending = true)
    (hrange : l.discarded = some (lo, hi)) (h : lo ≤ armed) (hafter : l.pollAfterFlush = false) :
    l.settleFlush armed = l := by
  simp only [Link.settleFlush, hpending, hrange, if_neg (Nat.not_lt.2 h), hafter, Bool.false_eq_true, if_false]

theorem Link.settleFlush_none {l : Link} {armed : Nat} (hpending : l.flushPending = false) :
    l.settleFlush armed = l := by
  simp only [Link.settleFlush, hpending]

/-! ## Judging a STATUS -/

section
variable {armedTag doneTag : Tag} {trigger : Option (Tag × TriggerId)}

/-- With no POLL outstanding a STATUS is dropped (R145). -/
theorem judgeStatus_dropped (h : (s.link b).pollOut = false) : judgeStatus b armedTag doneTag trigger s = s := by
  simp [judgeStatus, h]

/-- A tag that expands to no number in its range is a fault (R145). -/
theorem judgeStatus_fault {a d : Nat} (hpoll : (s.link b).pollOut = true) (hack : (s.link b).nextAck = some a)
    (hdone : (s.link b).nextDone = some d)
    (h : expandTag armedTag (a - 1) ((s.link b).armedTop a) = none
      ∨ expandTag doneTag (d - 1) (d - 1 + (s.link b).donesOut) = none) :
    judgeStatus b armedTag doneTag trigger s = boardFault b .sequence s := by
  simp only [judgeStatus, if_pos hpoll, hack, hdone]
  rcases h with h | h
  · rw [h]
  · rw [h]
    cases expandTag armedTag (a - 1) ((s.link b).armedTop a) <;> rfl

/-- A STATUS whose tags expand is reconciled (R145, R146). -/
theorem judgeStatus_reconciled {a d armed finished : Nat} (hpoll : (s.link b).pollOut = true)
    (hack : (s.link b).nextAck = some a) (hdone : (s.link b).nextDone = some d)
    (harmed : expandTag armedTag (a - 1) ((s.link b).armedTop a) = some armed)
    (hfinished : expandTag doneTag (d - 1) (d - 1 + (s.link b).donesOut) = some finished) :
    judgeStatus b armedTag doneTag trigger s = reconcile b armed (min armed (a - 1 + (s.link b).armsOut) + 1 - a)
      (finished + 1 - d) trigger s := by
  simp only [judgeStatus, if_pos hpoll, hack, hdone, harmed, hfinished]

end

/-! ## The end of a reconciliation -/

@[simp] theorem State.setLink_link (s : State) (b : Board) : s.setLink b (s.link b) = s := by
  simp [State.setLink, State.link]

@[simp] theorem Partition.offer_settings (r : EventRecord) (p : Partition) : (p.offer r).settings = p.settings := by
  unfold Partition.offer
  split <;> rfl

/-- A link whose unanswered ARMs are to be sent again, with one retry counted; unchanged when there are none (R146). -/
def Link.resent (pipe : List PipeEntry) (l : Link) : Link :=
  if l.unanswered = 0 then l
  else { l.unsend l.unanswered with
    order := resendArms (l.nextAck.getD 0) (l.nextAck.getD 0 + l.unanswered - 1) pipe l.order }

theorem Link.resent_eq {pipe : List PipeEntry} {l : Link} {a : Nat} (hnext : l.nextAck = some a) :
    l.resent pipe = if l.unanswered = 0 then l else { l with
      armsOut := l.armsOut - l.unanswered, retries := l.retries + 1,
      sentThrough := if l.armsOut = l.unanswered then a - 1 else l.sentThrough,
      order := resendArms a (a + l.unanswered - 1) pipe l.order } := by
  simp only [Link.resent, Link.unsend, hnext, Option.getD_some]

/-- The response timer and the expiry marker at the end of a reconciliation (R143, R146). -/
def Link.reconciled (progress : Bool) (ns : Nat) (l : Link) : Link := if progress then l.progress ns else l.stopIfIdle

theorem Link.reconciled_eq (progress : Bool) (ns : Nat) (l : Link) : l.reconciled progress ns = { l with
    expiry := if progress = true then false else l.expiry,
    timer := match l.timer with
      | .suspended => .suspended
      | .stopped => if progress = true ∧ l.waiting = true then .running ns else .stopped
      | .running t => if ¬ l.waiting = true then .stopped
        else if progress = true then .running ns else .running t } := by
  cases progress
  · rw [Link.reconciled, if_neg Bool.false_ne_true, Link.stopIfIdle_eq]
    cases l.timer <;> cases l.waiting <;> simp
  · rw [Link.reconciled, if_pos rfl, Link.progress_eq]
    cases l.timer <;> cases l.waiting <;> simp

/-- A record is offered and a link changed in either order. -/
theorem offerRecord_setLink (k : Slot) (r : EventRecord) (b : Board) (l : Link) (s : State) :
    offerRecord k r (s.setLink b l) = (offerRecord k r s).setLink b l := rfl

theorem Link.resent_retries {pipe : List PipeEntry} {l : Link} (h : l.unanswered ≠ 0) :
    (l.resent pipe).retries = l.retries + 1 := by rw [Link.resent, if_neg h]; rfl

/-- Steps 5 and 6 of a reconciliation for an owned board: the fault beyond the retry limit, or the POLL_RECOVERED record,
the timer and the owner's conditions (R146). -/
theorem finishStatus_owned {progress : Bool} (howner : (s.board b).owner = some k) : finishStatus b progress s =
    if (s.link b).unanswered ≠ 0 ∧ (s.part k).settings.retryLimit < (s.link b).retries + 1 then
      boardFault b .retries (s.setLink b ((s.link b).resent (s.part k).pipe))
    else advance k ((offerRecord k (.link b (s.part k).firedFrontier .pollRecovered) s).setLink b
      (((s.link b).resent (s.part k).pipe).reconciled progress (s.responseNs b))) := by
  have hsent : (if (s.link b).unanswered = 0 then s else s.updLink b fun l => { l.unsend (s.link b).unanswered with
      order := resendArms ((s.link b).nextAck.getD 0) ((s.link b).nextAck.getD 0 + (s.link b).unanswered - 1)
        (s.pipeFor b) l.order }) = s.setLink b ((s.link b).resent (s.part k).pipe) := by
    rw [Link.resent, State.pipeFor, howner]
    split <;> simp
  have hresponse : ∀ l r, ((offerRecord k r s).setLink b l).responseNs b = s.responseNs b := fun l r => by
    simp [State.responseNs, howner, offerRecord]
  simp only [finishStatus, hsent]
  refine ite_congr ?_ (fun _ => rfl) fun _ => ?_
  · have hsettings : ∀ l, (s.setLink b l).settingsFor b = (s.part k).settings := fun l => by
      simp [State.settingsFor, howner]
    rw [hsettings, State.setLink_link_self]
    exact propext (and_congr_right fun hn => by rw [Link.resent_retries hn])
  · simp only [State.setLink_board, howner, offerLink, State.updLink_eq]
    rw [advanceOwner_owned (k := k) (by simpa [offerRecord] using howner)]
    simp only [offerRecord_setLink, State.setLink_part, State.setLink_link_self, State.setLink_setLink, hresponse]
    rfl

end

/-- Settles O59: the tags expanded, then each step of the reconciliation. -/
theorem statusReconciled : Obligations.StatusReconciled := by
  refine ⟨fun tag lo hi => ⟨fun n => expandTag_eq_some_iff, expandTag_eq_none_iff⟩, ?_, ?_, ?_, ?_, ?_, ?_⟩
  · intro s k b armedTag doneTag trigger a d h hack hdone s1 l top
    have hexec : exec (.boardStatus b armedTag doneTag trigger) s
        = .next (settle (judgeStatus b armedTag doneTag trigger s1)) := received_bound _ h
    have hack1 : (s1.link b).nextAck = some a := by simpa [s1] using hack
    have hdone1 : (s1.link b).nextDone = some d := by simpa [s1] using hdone
    rw [hexec]
    refine ⟨fun hpoll => ?_, fun hpoll hnone => ?_, ?_⟩
    · rw [judgeStatus_dropped hpoll]
    · rw [judgeStatus_fault hpoll hack1 hdone1 hnone]
    · intro armed finished hpoll harmed hfinished acks dones s2 s3
      rw [judgeStatus_reconciled hpoll hack1 hdone1 harmed hfinished]
      have hprogress : (decide (0 < acks) || decide (0 < dones)
            || ((s2.link b).flushPending && !(s3.link b).flushPending))
          = decide (0 < acks ∨ 0 < dones ∨ (s2.link b).flushPending = true ∧ (s3.link b).flushPending = false) := by
        simp [Bool.decide_or, Bool.decide_and, Bool.or_assoc]
      exact congrArg (fun progress => Host.Outcome.next (settle (finishStatus b progress s3))) hprogress
  · intro s k b n a howner hnext l
    exact ⟨rfl, statusAcks_succ howner hnext n⟩
  · intro s k b trigger n d e howner hnext he l s1 s2
    refine ⟨rfl, (statusDones_succ hnext n).trans (congrArg (statusDones b trigger n) ?_)⟩
    exact doneInPipe_statusReport (by rwa [State.setLink_board]) (by rwa [State.setLink_part])
  · intro l armed
    refine ⟨Link.settleFlush_none, fun lo hi hpending hrange => ⟨Link.settleFlush_settled hpending hrange,
      Link.settleFlush_again hpending hrange, Link.settleFlush_waits hpending hrange⟩⟩
  · intro s k b progress a n howner hnext hn l waits
    have hunanswered : (s.link b).unanswered = n := by
      rw [hn, Link.unanswered, hnext]
      cases (s.link b).pollMark <;> rfl
    have hresent : (s.link b).resent (s.part k).pipe = l := by
      rw [Link.resent_eq hnext, hunanswered]
    rw [finishStatus_owned howner, hunanswered, hresent]
    refine ⟨fun hn0 hlimit => if_pos ⟨hn0, hlimit⟩, fun hwithin => ?_⟩
    rw [if_neg fun ⟨hn0, hlimit⟩ => hwithin.elim hn0 (Nat.not_le.2 hlimit), Link.reconciled_eq]
    simp only [Link.waiting_iff]
    rfl
  · intro pipe a last m pre tail hsorted hpre htail arms
    have hflush : FlushFirst tail := htail.imp_right fun ⟨keep, h⟩ => ⟨keep, [], h⟩
    have hnone : ∀ n, hasArm tail n = false := fun n => by rcases htail with rfl | ⟨keep, rfl⟩ <;> rfl
    have hplaced := resendArms_orderWith (a := a) (last := last) hpre hflush (fun e => m ≤ e.number) hsorted
    simp only [placesArm, hnone, Bool.not_false, Bool.and_true, Bool.or_comm (decide (m ≤ _))] at hplaced
    exact (congrArg (resendArms a last pipe) (List.append_assoc _ _ _)).trans
      (hplaced.trans (List.append_assoc _ _ _).symm)

end Sys2Proof.Machine
end

section
/-! SUPPORT. The frames sent to a board, their bytes and their levels on the line, and the phases of a break (R108, R121,
R122, R127, R129, R130, R135, R136, R143 to R145, R213), and the statement about them. -/

namespace Sys2Proof.Machine

/-! ## The bytes of a frame -/

theorem sumBytes_append (xs ys : List Byte) : sumBytes (xs ++ ys) = sumBytes xs + sumBytes ys := by
  induction xs with
  | nil => exact (BitVec.zero_add _).symm
  | cons x xs ih => rw [List.cons_append, sumBytes, ih, sumBytes, BitVec.add_assoc]

theorem sumBytes_eq_foldr (bs : List Byte) : sumBytes bs = bs.foldr (· + ·) 0 := by
  induction bs with
  | nil => rfl
  | cons b bs ih => rw [sumBytes, ih, List.foldr_cons]

/-- With its check byte the bytes of a frame sum to 0 (R130, R191). -/
theorem sumBytes_sealBytes (bs : List Byte) : sumBytes (sealBytes bs) = 0 := by
  have hcheck : sumBytes [checkByte bs] = - sumBytes bs := BitVec.add_zero _
  rw [sealBytes, sumBytes_append, hcheck]
  exact BitVec.add_right_neg _

theorem sealBytes_eq (bs : List Byte) : sealBytes bs = bs ++ [- bs.foldr (· + ·) 0] := by
  rw [sealBytes, checkByte, sumBytes_eq_foldr]

/-- The two bytes of a tag are the low ones of its step number (R108, R211). -/
theorem tagBytes_tagOf (n : Nat) : tagBytes (tagOf n) = [BitVec.ofNat 8 n, BitVec.ofNat 8 (n / 256)] := by
  have hlow : BitVec.ofNat 8 (n % 65536) = BitVec.ofNat 8 n :=
    BitVec.eq_of_toNat_eq (by simp only [BitVec.toNat_ofNat]; omega)
  have hhigh : BitVec.ofNat 8 (n % 65536 / 256) = BitVec.ofNat 8 (n / 256) :=
    BitVec.eq_of_toNat_eq (by simp only [BitVec.toNat_ofNat]; omega)
  simp [tagBytes, tagOf, leBytes, hlow, hhigh]

/-- The bytes of every downstream frame sum to 0 (R130). -/
theorem DownFrame.sumBytes_bytes (f : DownFrame) : sumBytes f.bytes = 0 := by
  cases f <;> exact sumBytes_sealBytes _

/-! ## The levels of a character -/

theorem oddOnes_append (xs ys : List Bool) : oddOnes (xs ++ ys) = (oddOnes xs ^^ oddOnes ys) := by
  induction xs with
  | nil => exact (Bool.false_xor _).symm
  | cons x xs ih => rw [List.cons_append, oddOnes, ih, oddOnes, Bool.xor_assoc]

/-- The bits of a list that are 1 are odd in number when their exclusive-or is 1. -/
theorem count_odd {bits : List Bool} : bits.count true % 2 = 1 ↔ oddOnes bits = true := by
  induction bits with
  | nil => decide
  | cons b bs ih =>
    cases b
    · simpa [oddOnes] using ih
    · rw [oddOnes, Bool.true_xor, Bool.not_eq_true', ← Bool.not_eq_true, ← ih, List.count_cons_self]
      omega

/-- A character well sent has odd parity over its data bits, its marker and its parity bit (R129). -/
theorem goodChar_oddOnes (d : Byte) (marker : Bool) :
    oddOnes (dataBits d ++ [marker, (goodChar d marker).parity]) = true := by
  have hparity : (goodChar d marker).parity = !(marker ^^ oddOnes (dataBits d)) := rfl
  rw [oddOnes_append, hparity]
  simp only [oddOnes]
  cases marker <;> cases oddOnes (dataBits d) <;> rfl

section
variable {s : State} {b : Board}

/-- The ten bit times after the start bit of a character hold an odd number of ones (R129). -/
theorem State.downstreamLevel_odd {f : DownFrame} (h : (s.link b).sending = some f) {j : Nat}
    (hj : j < f.bytes.length) : ((List.range' 1 10).filter fun i => s.downstreamLevel b (12 * j + i)).length % 2 = 1 := by
  have hbits : (List.range' 1 10).map (fun i => s.downstreamLevel b (12 * j + i))
      = dataBits (f.bytes.getD j 0) ++ [decide (j = 0), (goodChar (f.bytes.getD j 0) (decide (j = 0))).parity] := by
    refine (List.map_congr_left fun i hi => State.downstreamLevel_char h hj ?_).trans rfl
    have := List.mem_range'_1.1 hi
    omega
  have hcount := count_odd.2 (goodChar_oddOnes (f.bytes.getD j 0) (decide (j = 0)))
  rw [← hbits, List.count, List.countP_map, List.countP_eq_length_filter] at hcount
  simpa [Function.comp_def] using hcount

/-! ## Sending -/

/-- The line is free, no break or backoff runs, and the link is not muted (R135, R136, R142, R149). -/
theorem Link.canSend_iff (l : Link) : l.canSend = true ↔
    l.sending = none ∧ l.breakPhase = .none ∧ l.backoff = .idle ∧ l.muted = false := by
  simp [Link.canSend, and_assoc]

theorem exec_frameSend (hr : s.resetHeld = false) : exec (.frameSend b) s
    = .next (s.setLink b ((s.link b).sendNext ((s.board b).link == .syncing) (s.responseNs b))) :=
  act_running (f := fun s => s.updLink b (Link.sendNext ((s.board b).link == .syncing) (s.responseNs b))) hr

section
variable {l : Link} {syncing : Bool} {ns : Nat}

theorem Link.sendNext_of_not_canSend (h : ¬ l.canSend = true) : l.sendNext syncing ns = l := by
  unfold Link.sendNext
  split
  · rfl
  · exact if_neg h

theorem Link.sendNext_of_nil (h : l.order = []) : l.sendNext syncing ns = l := by
  rw [Link.sendNext, h]

theorem Link.sendNext_cons {i : TxItem} {rest : List TxItem} (h : l.canSend = true) (horder : l.order = i :: rest) :
    l.sendNext syncing ns = Link.sent syncing ns i { l with order := rest, sending := some (i.frame l.nextDone) } := by
  rw [Link.sendNext, horder]
  exact if_pos h

/-- A FLUSH sent starts the response timer when something is outstanding (R143; assumption 38). -/
theorem Link.sent_flush (keep : Nat) : l.sent syncing ns (.flush keep) = { l with
    flushSent := true,
    timer := match l.timer with
      | .suspended => .suspended
      | .stopped => if l.waiting = true then .running ns else .stopped
      | .running t => if l.waiting = true then .running t else .stopped } := by
  have hwaiting : ∀ timer, Link.waiting { l with flushSent := true, timer := timer } = l.waiting := fun _ => rfl
  rw [Link.sent, Link.startTimer_eq, Link.stopIfIdle_eq]
  cases l.timer <;> simp [hwaiting]

/-- A SYNC sent starts the response timer of a board still SYNCING (R143; assumption 15). -/
theorem Link.sent_sync (next : Nat) (level : ClockMask) : l.sent syncing ns (.sync next level) = { l with
    timer := if syncing = true then (if l.timer = .stopped then .running ns else l.timer) else l.timer } := by
  cases syncing
  · rfl
  · exact Link.startTimer_eq ns l

/-- A POLL sent takes the poll mark and restarts the response timer (R143, R144; assumption 38). -/
theorem Link.sent_poll : l.sent syncing ns .poll = { l with
    pollMark := some l.sentThrough, pollAfterFlush := l.flushPending && l.flushSent,
    timer := if l.timer = .suspended then .suspended else if l.waiting = true then .running ns else .stopped } :=
  Link.restartTimer_stopIfIdle _ ns

end

/-! ## Ends of frames and breaks -/

theorem Link.endFrame_sending {l : Link} {f : DownFrame} (h : l.sending = some f) : l.endFrame = { l with
    sending := none, breakPhase := if l.breakPhase = .waitingForFrame then .low else l.breakPhase } := by
  rw [Link.endFrame, h]
  rfl

/-- After the recovery the PROBE is sent, with the response timer started for a board still PROBING (R136; assumption
20). -/
theorem Link.endRecovery_probe {l : Link} {probing : Bool} {ns : Nat} (h : l.breakPhase = .recovery)
    (hmuted : l.muted = false) : l.endRecovery probing ns = { l with
      breakPhase := .none, sending := some .probe, timer := if probing = true then .running ns else l.timer } := by
  rw [Link.endRecovery, if_pos h, if_neg (hmuted ▸ Bool.false_ne_true)]

/-- A muted link sends no PROBE (R149; assumption 20). -/
theorem Link.endRecovery_muted {l : Link} {probing : Bool} {ns : Nat} (h : l.breakPhase = .recovery)
    (hmuted : l.muted = true) : l.endRecovery probing ns = { l with breakPhase := .none } := by
  rw [Link.endRecovery, if_pos h, if_pos hmuted]

theorem exec_frameTransmissionEnd (hr : s.resetHeld = false) :
    exec (.frameTransmissionEnd b) s = .next (s.setLink b (s.link b).endFrame) :=
  act_running (f := fun s => s.updLink b Link.endFrame) hr

theorem exec_breakEnd (hr : s.resetHeld = false) :
    exec (.breakEnd b) s = .next (s.setLink b (s.link b).endBreak) :=
  act_running (f := fun s => s.updLink b Link.endBreak) hr

theorem exec_breakRecoveryEnd (hr : s.resetHeld = false) : exec (.breakRecoveryEnd b) s
    = .next (s.setLink b ((s.link b).endRecovery ((s.board b).link == .probing) (s.responseNs b))) :=
  act_running (f := fun s => s.updLink b (Link.endRecovery ((s.board b).link == .probing) (s.responseNs b))) hr

end

/-- Settles O52: the frames byte by byte, the line bit time by bit time, and each event of sending. -/
theorem framesSentAndBreaksPassed : Obligations.FramesSentAndBreaksPassed := by
  refine ⟨?_, fun i nextDone => DownFrame.sumBytes_bytes _, ?_, ?_, ?_⟩
  · intro nextDone n d changed level two closed
    have hclosed : ∀ bs, sealBytes bs = closed bs := sealBytes_eq
    have htag : ∀ x, tagBytes (tagOf x) = two x := tagBytes_tagOf
    refine ⟨?_, ?_, ?_, ?_, hclosed _, by decide⟩
    · exact (hclosed _).trans (by rw [htag]; rfl)
    · exact (hclosed _).trans (by rw [htag]; rfl)
    · exact (hclosed _).trans (by rw [htag]; rfl)
    · rintro rfl
      exact (hclosed _).trans (by rw [htag]; rfl)
  · intro s b
    refine ⟨fun hrest n => ?_, fun f hsending => ⟨fun n hn => State.downstreamLevel_after hsending hn, ?_⟩⟩
    · simp [State.downstreamLevel_rest hrest]
    · intro j hj data level
      have hlevel : ∀ i, i < 12 → level i = (goodChar data (decide (j = 0))).bits.getD i true := fun i hi =>
        State.downstreamLevel_char hsending hj hi
      refine ⟨hlevel 0 (by decide), fun i hi => ?_, hlevel 9 (by decide), hlevel 11 (by decide),
        State.downstreamLevel_odd hsending hj⟩
      rw [hlevel (1 + i) (by omega)]
      interval_cases i <;> rfl
  · intro s b hr l free waits
    have hfree : l.canSend = true ↔ free := Link.canSend_iff l
    rw [exec_frameSend hr]
    refine ⟨fun hnot => ?_, fun hnil => ?_, ?_, fun f hsending => ?_⟩
    · rw [Link.sendNext_of_not_canSend (fun h => hnot (hfree.1 h)), State.setLink_link]
    · rw [Link.sendNext_of_nil hnil, State.setLink_link]
    · intro i rest hready horder begun running started
      rw [Link.sendNext_cons (hfree.2 hready) horder]
      refine congrArg (fun t => Host.Outcome.next (s.setLink b t)) ?_
      cases i with
      | arm n changed level => exact Link.startTimer_eq _ _
      | flush keep => exact (Link.sent_flush keep).trans (by simp only [Link.waiting_iff]; rfl)
      | sync next level => exact (Link.sent_sync next level).trans (by simp only [beq_iff_eq]; rfl)
      | poll => exact Link.sent_poll.trans (by simp only [Link.waiting_iff]; rfl)
      | probe => exact Link.startTimer_eq _ _
    · rw [exec_frameTransmissionEnd hr, Link.endFrame_sending hsending]
  · intro s b hr l
    rw [exec_breakEnd hr, exec_breakRecoveryEnd hr]
    refine ⟨fun hlow => ?_, fun hrecovery hmuted hprobing => ?_, fun hrecovery hmuted hprobing => ?_,
      fun hrecovery hmuted => ?_⟩
    · rw [Link.endBreak, if_pos hlow]
    · rw [Link.endRecovery_probe hrecovery hmuted, if_pos (beq_iff_eq.2 hprobing)]
      rfl
    · rw [Link.endRecovery_probe hrecovery hmuted, if_neg (fun h => hprobing (beq_iff_eq.1 h))]
    · rw [Link.endRecovery_muted hrecovery hmuted]

end Sys2Proof.Machine
end

section
/-! SUPPORT. The upstream line of a board: its frames byte by byte, the characters recognised on it and assembled (R129
to R131, R213), receive errors and response timeouts (R132, R137, R144, R149, R175, R176), and the statements about
them. -/

namespace Sys2Proof.Machine

/-! ## The bytes of an upstream frame -/

/-- A value of `width` bytes is read back modulo 256 to the `width` (R211). -/
theorem leNat_leBytes (width x : Nat) : leNat (leBytes width x) = x % 256 ^ width := by
  induction width generalizing x with
  | zero => simp [leBytes, leNat, Nat.mod_one]
  | succ width ih =>
    rw [leBytes, leNat, ih, BitVec.toNat_ofNat]
    exact Nat.mod_mul.symm.trans (congrArg (x % ·) Nat.pow_succ'.symm)

/-- A 2-byte field holds its value (R211). -/
theorem ofNat_leNat_tagBytes (t : BitVec 16) : BitVec.ofNat 16 (leNat (tagBytes t)) = t := by
  have hvalue : leNat (tagBytes t) = t.toNat := (leNat_leBytes 2 _).trans (Nat.mod_eq_of_lt t.isLt)
  rw [hvalue, BitVec.ofNat_toNat, BitVec.setWidth_eq]

/-- A 4-byte field holds its value (R211). -/
theorem ofNat_leNat_leBytes (t : BitVec 32) : BitVec.ofNat 32 (leNat (leBytes 4 t.toNat)) = t := by
  have hvalue : leNat (leBytes 4 t.toNat) = t.toNat := (leNat_leBytes 4 _).trans (Nat.mod_eq_of_lt t.isLt)
  rw [hvalue, BitVec.ofNat_toNat, BitVec.setWidth_eq]

/-- The bytes of an upstream frame hold its fields, at the offsets of its kind (R213). -/
theorem decodeUp_bytes : ∀ f : UpFrame, decodeUp f.bytes = some f
  | .armAck tag => congrArg (fun t => some (UpFrame.armAck t)) (ofNat_leNat_tagBytes tag)
  | .armNak tag cause => congrArg (fun t => some (UpFrame.armNak t cause)) (ofNat_leNat_tagBytes tag)
  | .flushAck tag => congrArg (fun t => some (UpFrame.flushAck t)) (ofNat_leNat_tagBytes tag)
  | .syncAck tag => congrArg (fun t => some (UpFrame.syncAck t)) (ofNat_leNat_tagBytes tag)
  | .probeReply id depth => congrArg (fun i => some (UpFrame.probeReply i depth)) (ofNat_leNat_tagBytes id)
  | .done tag none none => congrArg (fun t => some (UpFrame.done t none none)) (ofNat_leNat_tagBytes tag)
  | .done tag (some id) none =>
    congrArg₂ (fun t i => some (UpFrame.done t (some i) none)) (ofNat_leNat_tagBytes tag) (ofNat_leNat_tagBytes id)
  | .done tag none (some stamp) =>
    congrArg₂ (fun t m => some (UpFrame.done t none (some m))) (ofNat_leNat_tagBytes tag) (ofNat_leNat_leBytes stamp)
  | .done tag (some id) (some stamp) =>
    congr (congrArg₂ (fun t i m => some (UpFrame.done t (some i) (some m))) (ofNat_leNat_tagBytes tag)
      (ofNat_leNat_tagBytes id)) (ofNat_leNat_leBytes stamp)
  | .status armed finished none =>
    congrArg₂ (fun a d => some (UpFrame.status a d none)) (ofNat_leNat_tagBytes armed) (ofNat_leNat_tagBytes finished)
  | .status armed finished (some (tag, id)) =>
    congr (congr (congrArg₂ (fun a d t i => some (UpFrame.status a d (some (t, i)))) (ofNat_leNat_tagBytes armed)
      (ofNat_leNat_tagBytes finished)) (ofNat_leNat_tagBytes tag)) (ofNat_leNat_tagBytes id)

/-- An upstream frame is a kind byte that implies its length, its fields, and the check byte (R130, R213). -/
theorem UpFrame.bytes_eq : ∀ f : UpFrame, ∃ kind fields,
    f.bytes = sealBytes (kind :: fields) ∧ upLength kind = some (fields.length + 2)
  | .armAck _ | .armNak _ _ | .flushAck _ | .syncAck _ | .probeReply _ _ | .done _ none none | .done _ (some _) none
  | .done _ none (some _) | .done _ (some _) (some _) | .status _ _ none | .status _ _ (some _) => ⟨_, _, rfl, rfl⟩

/-! ## Characters recognised on a line -/

/-- Bit `i` of the byte of a list of bits is the list's bit `i` (R129). -/
theorem bitsByte_getLsbD (bits : List Bool) (i : Nat) (hi : i < 8) :
    (bitsByte bits).getLsbD i = bits.getD i false := by
  induction bits generalizing i with
  | nil => simp [bitsByte]
  | cons b bs ih =>
    have hbit : b.toNat + 2 * (bitsByte bs).toNat = Nat.bit b (bitsByte bs).toNat := by
      rw [Nat.bit_val, Nat.add_comm]
    rw [bitsByte, hbit, BitVec.getLsbD_ofNat, decide_eq_true hi, Bool.true_and]
    cases i with
    | zero => simp
    | succ i =>
      rw [Nat.testBit_bit_succ]
      exact ih i (by omega)

theorem bitsByte_dataBits (d : Byte) : bitsByte (dataBits d) = d := by
  refine BitVec.eq_of_getLsbD_eq fun i hi => ?_
  rw [bitsByte_getLsbD _ i hi]
  interval_cases i <;> rfl

/-- The eleven bits after the start bit give the character back (R129). -/
theorem charOfBits_bits (c : LineChar) : charOfBits (dataBits c.data ++ [c.marker, c.parity, c.stop]) = c :=
  congrArg (fun d => (⟨d, c.marker, c.parity, c.stop⟩ : LineChar)) (bitsByte_dataBits c.data)

/-- On a high line the fall of its start bit opens a character, and the line is then at the level of its stop bit
(R129). -/
theorem scanLine_bits (c : LineChar) (rest : List Bool) : scanLine true none (c.bits ++ rest)
    = (c :: (scanLine c.stop none rest).1, (scanLine c.stop none rest).2) := by
  conv_rhs => rw [← charOfBits_bits c]
  rfl

/-- Characters with their stop bits, back to back on a high line, are recognised one by one (R129). -/
theorem scanLine_lineBits {cs : List LineChar} (h : ∀ c ∈ cs, c.stop = true) :
    scanLine true none (lineBits cs) = (cs, true) := by
  induction cs with
  | nil => rfl
  | cons c cs ih =>
    rw [lineBits, scanLine_bits, h c List.mem_cons_self, ih fun d hd => h d (List.mem_cons_of_mem c hd)]

theorem frameChars_stop {bytes : List Byte} : ∀ c ∈ frameChars bytes, c.stop = true := by
  cases bytes with
  | nil => exact fun c hc => nomatch hc
  | cons b bs =>
    refine List.forall_mem_cons.2 ⟨rfl, fun c hc => ?_⟩
    obtain ⟨d, -, rfl⟩ := List.mem_map.1 hc
    rfl

/-! ## The receive assembly -/

theorem rxChar_framing {rx : RxAssembly} {c : LineChar} (h : c.stop = false) :
    rxChar rx c = (.discard, [.error .framing]) := if_pos h

theorem rxChar_parity {rx : RxAssembly} {c : LineChar} (hstop : c.stop = true) (h : c.badParity = true) :
    rxChar rx c = (.discard, [.error .parity]) := by
  rw [rxChar, hstop, h]
  rfl

theorem rxChar_good {rx : RxAssembly} {c : LineChar} (hstop : c.stop = true) (h : c.badParity = false) :
    rxChar rx c = assemble rx c.data c.marker := by
  rw [rxChar, hstop, h]
  rfl

/-- A character well sent has neither error (R129, R131). -/
theorem rxChar_goodChar (rx : RxAssembly) (d : Byte) (marker : Bool) :
    rxChar rx (goodChar d marker) = assemble rx d marker := by
  have hparity : (goodChar d marker).badParity = false :=
    congrArg (!·) (Bool.not_xor_self (oddOnes (marker :: dataBits d)))
  exact rxChar_good rfl hparity

theorem openFrame_known {d : Byte} {n : Nat} (h : upLength d = some n) : openFrame d = (.collecting [d] n, []) := by
  rw [openFrame, h]

theorem openFrame_unknown {d : Byte} (h : upLength d = none) : openFrame d = (.discard, [.error .length]) := by
  rw [openFrame, h]

/-- A character without error that does not complete the open frame is collected (R131). -/
theorem assemble_more {bytes : List Byte} {n : Nat} {d : Byte} (h : bytes.length + 1 ≠ n) :
    assemble (.collecting bytes n) d false = (.collecting (bytes ++ [d]) n, []) := if_neg h

/-- The character that completes the open frame: its bytes sum to 0, or there is a CHECK error (R131). -/
theorem assemble_last {bytes : List Byte} {n : Nat} {d : Byte} (h : bytes.length + 1 = n) :
    assemble (.collecting bytes n) d false
      = (.hunt, [if sumBytes (bytes ++ [d]) = 0 then .frame (bytes ++ [d]) else .error .check]) := if_pos h

/-! ## Receive errors -/

/-- The upstream line of board `b` with the receive assembly and the level as given. -/
def State.withLine (s : State) (b : Board) (rx : RxAssembly) (high : Bool) : State :=
  s.setLink b { s.link b with rx := rx, upHigh := high }

/-- A frame open on the upstream line of board `b` dropped as a LENGTH error (R131). -/
def State.dropOpenFrame (s : State) (b : Board) : State :=
  match (s.link b).rx with
  | .collecting _ _ => receiveError b .length s
  | .hunt | .discard => s

/-- Board `b` with the counter of a receive error increased (R132). -/
def State.countError (s : State) (b : Board) (e : RxError) : State :=
  s.setBoard b { s.board b with counters := (s.board b).counters.bump e }

/-- Board `b` of partition `k` with a receive error counted and reported: the FRAME_ERROR record is offered (R132). -/
def State.reportError (s : State) (k : Slot) (b : Board) (e : RxError) : State :=
  offerRecord k (.link b (s.part k).firedFrontier (.frameError e)) (s.countError b e)

section
variable {s : State} {b : Board} {e : RxError}

@[simp] theorem State.withLine_link (rx : RxAssembly) (high : Bool) :
    (s.withLine b rx high).link b = { s.link b with rx := rx, upHigh := high } := State.setLink_link_self ..
@[simp] theorem State.withLine_board (rx : RxAssembly) (high : Bool) (c : Board) :
    (s.withLine b rx high).board c = s.board c := rfl

theorem State.reportError_withLine (k : Slot) (rx : RxAssembly) (high : Bool) :
    (s.withLine b rx high).reportError k b e = (s.reportError k b e).withLine b rx high := rfl

/-- A muted link counts nothing (R132, R149). -/
theorem receiveError_muted (h : (s.link b).muted = true) : receiveError b e s = s := if_pos h

theorem receiveError_unowned (hmuted : (s.link b).muted = false) (h : (s.board b).owner = none) :
    receiveError b e s = s.countError b e := by
  simp [receiveError, hmuted, h, State.countError]

/-- An error of an owned board is reported to its partition, and marks the loss on a BOUND link (R132). -/
theorem receiveError_owned {k : Slot} (hmuted : (s.link b).muted = false) (h : (s.board b).owner = some k) :
    receiveError b e s = if (s.board b).link = .bound then
      (s.reportError k b e).setLink b { s.link b with loss := true } else s.reportError k b e := by
  simp [receiveError, hmuted, h, State.reportError, State.countError, offerLink, offerRecord]

/-- A receive error neither sees nor changes the receive assembly and the level of the line (R132). -/
theorem receiveError_withLine (rx : RxAssembly) (high : Bool) :
    receiveError b e (s.withLine b rx high) = (receiveError b e s).withLine b rx high := by
  have hlink : ((s.withLine b rx high).link b).muted = (s.link b).muted := by rw [State.withLine_link]
  cases hmuted : (s.link b).muted with
  | true => rw [receiveError_muted hmuted, receiveError_muted (hlink.trans hmuted)]
  | false =>
    cases howner : (s.board b).owner with
    | none =>
      rw [receiveError_unowned hmuted howner, receiveError_unowned (hlink.trans hmuted) howner]
      rfl
    | some k =>
      rw [receiveError_owned hmuted howner, receiveError_owned (hlink.trans hmuted) howner, State.withLine_board]
      split
      · rw [State.reportError_withLine, State.withLine_link]
        simp [State.withLine]
      · exact State.reportError_withLine ..

/-! ## Characters received -/

/-- A character received is judged by the receive assembly as it stands (R131). -/
theorem receiveChars_withLine (rx : RxAssembly) (high : Bool) (c : LineChar) (cs : List LineChar) :
    receiveChars b (c :: cs) (s.withLine b rx high)
      = receiveChars b cs (handleRx b (rxChar rx c).2 (s.withLine b (rxChar rx c).1 high)) := by
  rw [receiveChars, State.withLine_link, State.updLink_eq]
  exact congrArg (fun t => receiveChars b cs (handleRx b (rxChar rx c).2 t)) (by simp [State.withLine])

/-- Characters that do not complete the open frame are collected (R131). -/
theorem receiveChars_collected {bytes more : List Byte} {n : Nat} (h : bytes.length + more.length < n)
    (cs : List LineChar) :
    receiveChars b (more.map (goodChar · false) ++ cs) (s.withLine b (.collecting bytes n) true)
      = receiveChars b cs (s.withLine b (.collecting (bytes ++ more) n) true) := by
  induction more generalizing bytes with
  | nil => rw [List.append_nil]; rfl
  | cons d more ih =>
    rw [List.length_cons] at h
    rw [List.map_cons, List.cons_append, receiveChars_withLine, rxChar_goodChar, assemble_more (by omega), handleRx,
      ih (by rw [List.length_append, List.length_singleton]; omega), List.append_assoc, List.singleton_append]

/-- The last character of a frame whose bytes sum to 0 has the frame judged with the line at rest (R131, R133). -/
theorem receiveChars_last {bytes : List Byte} {d : Byte} {f : UpFrame} (hsum : sumBytes (bytes ++ [d]) = 0)
    (hf : decodeUp (bytes ++ [d]) = some f) :
    receiveChars b [goodChar d false] (s.withLine b (.collecting bytes (bytes.length + 1)) true)
      = judgeFrame b f (s.withLine b .hunt true) := by
  rw [receiveChars_withLine, rxChar_goodChar, assemble_last rfl, if_pos hsum]
  simp only [receiveChars, handleRx, hf]

/-- The levels of characters with their stop bits, received on a line at rest (R129, R131). -/
theorem receiveSamples_lineBits {cs : List LineChar} (hhigh : (s.link b).upHigh = true)
    (h : ∀ c ∈ cs, c.stop = true) :
    receiveSamples b (lineBits cs) s = receiveChars b cs (s.withLine b (s.link b).rx true) := by
  rw [receiveSamples, hhigh, scanLine_lineBits h]
  rfl

/-- The first character of a frame opens it, a frame that was open being dropped as a LENGTH error (R131). -/
theorem handleRx_open {kind : Byte} {n : Nat} (h : upLength kind = some n) :
    handleRx b (assemble (s.link b).rx kind true).2 (s.withLine b (assemble (s.link b).rx kind true).1 true)
      = (s.dropOpenFrame b).withLine b (.collecting [kind] n) true := by
  rw [State.dropOpenFrame]
  cases (s.link b).rx with
  | hunt => simp only [assemble, openFrame_known h, handleRx]
  | discard => simp only [assemble, openFrame_known h, handleRx]
  | collecting bytes m => simp only [assemble, openFrame_known h, handleRx, receiveError_withLine]

/-- A frame is judged with the line at rest, once a frame that was open has been dropped (R131, R133). -/
theorem receiveFrame_eq (f : UpFrame) :
    receiveFrame b f s = judgeFrame b f ((s.dropOpenFrame b).withLine b .hunt true) := by
  rw [receiveFrame, State.dropOpenFrame]
  cases (s.link b).rx <;> rfl

/-- A frame sent bit by bit on a line at rest is received as that frame (R129 to R133). -/
theorem receiveSamples_frame (f : UpFrame) (hhigh : (s.link b).upHigh = true) :
    receiveSamples b (lineBits (frameChars f.bytes)) s = receiveFrame b f s := by
  obtain ⟨kind, fields, hbytes, hlength⟩ := f.bytes_eq
  have hdecode := decodeUp_bytes f
  have hsum : sumBytes f.bytes = 0 := hbytes ▸ sumBytes_sealBytes _
  rw [hbytes, sealBytes] at hdecode hsum
  have hchars : frameChars f.bytes = goodChar kind true :: (fields.map (goodChar · false)
      ++ [goodChar (checkByte (kind :: fields)) false]) := by
    rw [hbytes, sealBytes, List.cons_append, frameChars, List.map_append]
    rfl
  rw [receiveSamples_lineBits hhigh frameChars_stop, hchars, receiveChars_withLine, rxChar_goodChar,
    handleRx_open hlength, receiveChars_collected (by simp; omega), receiveFrame_eq]
  exact receiveChars_last hsum hdecode

end

/-- Settles O12: the fields are read back, and the line is scanned character by character. -/
theorem sampledFrameReceived : Obligations.SampledFrameReceived := by
  refine ⟨fun f => ⟨decodeUp_bytes f, ?_⟩, fun b f s => receiveSamples_frame f⟩
  obtain ⟨kind, fields, hbytes, hlength⟩ := f.bytes_eq
  rw [hbytes]
  exact ⟨hlength.trans (by simp [sealBytes]), sumBytes_sealBytes _⟩

/-! ## Receive errors and response timeouts as commands -/

section
variable {s : State} {b : Board}

/-- One character on a line at rest is judged by the receive assembly, and leaves the line at the level of its stop bit
(R129, R131; assumption 26). -/
theorem exec_receiveError_bits (hr : s.resetHeld = false) (hhigh : (s.link b).upHigh = true) (c : LineChar) :
    exec (.receiveError b c.bits) s = .next (settle (handleRx b (rxChar (s.link b).rx c).2
      (s.withLine b (rxChar (s.link b).rx c).1 c.stop))) := by
  have hscan : scanLine true none c.bits = ([c], c.stop) := by simpa [scanLine] using scanLine_bits c []
  have hsamples : receiveSamples b c.bits s = receiveChars b [c] (s.withLine b (s.link b).rx c.stop) := by
    rw [receiveSamples, hhigh, hscan]
    rfl
  refine (act_running (f := fun s => settle (receiveSamples b c.bits s)) hr).trans ?_
  rw [hsamples, receiveChars_withLine, receiveChars]

/-- A wrong stop bit is a FRAMING error, whatever the assembly holds (R131, R132). -/
theorem exec_receiveError_framing (hr : s.resetHeld = false) (hhigh : (s.link b).upHigh = true) {c : LineChar}
    (h : c.stop = false) :
    exec (.receiveError b c.bits) s = .next (settle (receiveError b .framing (s.withLine b .discard false))) := by
  rw [exec_receiveError_bits hr hhigh, rxChar_framing h, h]
  rfl

/-- A frame that comes while another is open is taken after the LENGTH error of the open one, and one that comes in
DISCARD as it is (R131). -/
theorem received_atRest (f : UpFrame) (hr : s.resetHeld = false) :
    (∀ bytes n, (s.link b).rx = .collecting bytes n →
      received b f s = received b f (lineAtRest b (receiveError b .length s)))
    ∧ ((s.link b).rx = .discard → received b f s = received b f (lineAtRest b s)) := by
  refine ⟨fun bytes n hrx => received_collecting f hr hrx, fun hrx => ?_⟩
  have hrest := received_hunt (s := lineAtRest b s) f hr (by rw [lineAtRest_link])
  rw [received_closed f hr (.inr hrx), hrest, lineAtRest_lineAtRest]

/-- The response timer of a board expires when it runs (R144). -/
theorem exec_responseTimeout {ns : Nat} (hr : s.resetHeld = false) (h : (s.link b).timer = .running ns) :
    exec (.responseTimeout b) s = .next (settle (expire b s)) := by
  refine (act_running (f := expireResponse b) hr).trans (congrArg Host.Outcome.next ?_)
  rw [expireResponse, h]

theorem expire_bound (hlink : (s.board b).link = .bound) (hexpiry : (s.link b).expiry = false) :
    expire b s = s.setLink b ((s.link b).firstExpiry (s.responseNs b)) := by
  simp [expire, hlink, hexpiry]

end

/-- Settles O54: the character, the assembly, the counters, the record and the frame that was open, in turn. -/
theorem receiveErrorCounted : Obligations.ReceiveErrorCounted := by
  refine ⟨?_, fun s b c hr hhigh => exec_receiveError_bits hr hhigh c,
    fun rx c => ⟨rxChar_framing, rxChar_parity⟩, ?_, ?_, ?_, ?_⟩
  · intro s b d marker parity hr hhigh c s1 s2
    have hexec : exec (.receiveError b c.bits) s = .next (settle (receiveError b .framing s1)) :=
      exec_receiveError_framing hr hhigh rfl
    have hlink : s1.link b = { s.link b with rx := .discard, upHigh := false } := State.withLine_link ..
    have hmuted : (s1.link b).muted = (s.link b).muted := by rw [hlink]
    rw [hexec]
    refine ⟨fun h => ?_, fun h howner => ?_, ?_⟩
    · rw [receiveError_muted (hmuted.trans h)]
    · rw [receiveError_unowned (hmuted.trans h) howner]
      rfl
    · intro k h howner s3
      rw [receiveError_owned (hmuted.trans h) howner, hlink]
      rfl
  · intro c hstop hparity
    simp only [rxChar_good hstop hparity]
    refine ⟨fun n hmarker hknown => ?_, fun hmarker hunknown => ?_, fun hmarker => ?_⟩
    · rw [hmarker]
      exact ⟨openFrame_known hknown, openFrame_known hknown,
        fun bytes m => by rw [assemble, openFrame_known hknown]⟩
    · rw [hmarker]
      exact ⟨openFrame_unknown hunknown, openFrame_unknown hunknown,
        fun bytes m => by rw [assemble, openFrame_unknown hunknown]⟩
    · rw [hmarker]
      refine ⟨rfl, rfl, fun bytes n => ?_⟩
      rw [List.length_append, List.length_singleton]
      refine ⟨assemble_more, fun hn hsum => ?_, fun hn hsum => ?_⟩
      · rw [assemble_last hn, if_pos hsum]
      · rw [assemble_last hn, if_neg hsum]
  · intro s b e n s1
    have hcounted : s.countError b e = s1 := by cases e <;> rfl
    refine ⟨receiveError_muted, fun hmuted howner => ?_, ?_⟩
    · rw [receiveError_unowned hmuted howner, hcounted]
    · intro k hmuted howner s2
      rw [receiveError_owned hmuted howner, State.reportError, hcounted]
  · intro p r needs
    have hneeds : needs = r.needs := by cases r <;> rfl
    rw [hneeds]
    exact ⟨offer_stored (r := r) (p := p), offer_dropped (r := r) (p := p)⟩
  · rintro c s b hr (⟨_, rfl⟩ | ⟨_, _, rfl⟩ | ⟨_, _, _, rfl⟩ | ⟨_, rfl⟩ | ⟨_, rfl⟩ | ⟨_, _, _, rfl⟩ | ⟨_, _, rfl⟩)
    all_goals exact received_atRest _ hr

/-- Settles O53: the link state decides, and in BOUND the expiry marker and a POLL outstanding. -/
theorem responseTimeoutByLinkState : Obligations.ResponseTimeoutByLinkState := by
  intro s b ns hr htimer l
  rw [exec_responseTimeout hr htimer]
  refine ⟨fun hlink howner => ?_, fun hlink howner => ?_, fun hlink => ?_, fun hlink hexpiry => ?_,
    fun hlink hexpiry hpoll => ?_, fun hlink hexpiry hpoll => ?_⟩
  · simp [expire, hlink, howner, l]
  · simp [expire, hlink, howner]
  · simp [expire, hlink]
  · simp [expire, hlink, show (s.link b).expiry = true from hexpiry]
  · rw [expire_bound hlink hexpiry, Link.firstExpiry, if_neg (hpoll ▸ Bool.false_ne_true)]
  · rw [expire_bound hlink hexpiry, Link.firstExpiry, if_pos hpoll]

end Sys2Proof.Machine
end

section
/-! SUPPORT. The trigger filter: which reports match and qualify (R157 to R160), what a report does (R159 to R167), and
the requests that change the filter (R168 to R170); then the statements about them. -/

namespace Sys2Proof.Machine

/-! ## Recognising a trigger ID -/

/-- Two words agree under a mask when they agree in every bit the mask holds. -/
theorem and_eq_and_iff {w : Nat} (x y m : BitVec w) :
    x &&& m = y &&& m ↔ ∀ i, i < w → m.getLsbD i = true → x.getLsbD i = y.getLsbD i := by
  constructor
  · intro h i _ hm
    simpa [hm] using congrArg (fun v => v.getLsbD i) h
  · intro h
    refine BitVec.eq_of_getLsbD_eq fun i hi => ?_
    rw [BitVec.getLsbD_and, BitVec.getLsbD_and]
    cases hm : m.getLsbD i with
    | false => rw [Bool.and_false, Bool.and_false]
    | true => rw [h i hi hm]

/-- A match entry compares the bits its care mask holds (R157). -/
theorem MatchEntry.recognises_iff (e : MatchEntry) (id : TriggerId) : e.recognises id = true ↔
    e.enabled = true ∧ ∀ i, i < 16 → e.care.getLsbD i = true → id.getLsbD i = e.id.getLsbD i := by
  rw [MatchEntry.recognises, Bool.and_eq_true, beq_iff_eq, and_eq_and_iff]

/-- The hash index as a number: three parts of the ID, exclusive-or (R158). -/
theorem hashIndex_eq (id : TriggerId) :
    hashIndex id = (id.toNat % 64) ^^^ (id.toNat / 64 % 64) ^^^ (id.toNat / 4096) := by
  have hbound := id.isLt
  have htop : id.toNat / 4096 % 16 = id.toNat / 4096 := by omega
  have hfits : id.toNat / 4096 % 64 = id.toNat / 4096 := by omega
  simp [hashIndex, BitVec.toNat_xor, BitVec.extractLsb'_toNat, Nat.shiftRight_eq_div_pow, htop, hfits]

theorem hashIndex_lt (id : TriggerId) : hashIndex id < 64 := BitVec.isLt _

/-- One of the eight match entries recognises an ID (R157). -/
theorem Filter.any_entry_iff (f : Filter) (id : TriggerId) :
    f.entries.toList.any (fun e => e.recognises id) = true ↔ ∃ i : Fin 8, f.entries[i].recognises id = true := by
  rw [List.any_eq_true]
  constructor
  · rintro ⟨e, hmem, he⟩
    obtain ⟨i, hi, rfl⟩ := Vector.getElem_of_mem (Vector.mem_toList_iff.1 hmem)
    exact ⟨⟨i, hi⟩, he⟩
  · rintro ⟨i, he⟩
    exact ⟨f.entries[i], Vector.mem_toList_iff.2 (Vector.getElem_mem i.isLt), he⟩

/-- A report matches when an entry or the hash table recognises it (R157 to R159). -/
theorem Filter.recognises_iff (f : Filter) (id : TriggerId) : f.recognises id = true ↔
    (∃ i : Fin 8, f.entries[i].recognises id = true)
      ∨ f.hashEnabled = true ∧ f.hashTable.getLsbD (hashIndex id) = true := by
  rw [Filter.recognises, Bool.or_eq_true, f.any_entry_iff, Filter.hashRecognises, Bool.and_eq_true]

/-- Settles O46: each entry bit by bit, the entries one by one, and the hash table behind its enable. -/
theorem matchEntryComparesCaredBits : Obligations.MatchEntryComparesCaredBits := by
  refine ⟨MatchEntry.recognises_iff, fun f id hoff => ?_, fun f id => ?_⟩
  · simp [f.recognises_iff, hoff]
  · rw [f.recognises_iff, hashIndex_eq]

/-! ## Reports taken -/

/-- The mode of the filter decides what a match counts for (R160). -/
theorem Filter.qualifies_of_mode {f : Filter} {id : TriggerId} {m : FilterMode} (h : f.mode = m) :
    f.qualifies id = m.qualifies (f.recognises id) := by
  rw [Filter.qualifies, h]

section
variable {s : State} {k : Slot} {r : TriggerReport}

/-- A report that does not qualify is offered as a record when log-unmatched is on, and changes nothing else (R159,
R161, R167). -/
theorem takeReport_unqualified (h : (s.part k).filter.qualifies r.id = false) :
    takeReport k r s = if (s.part k).filter.logUnmatched = true then
      offerRecord k (.trigger r.step r.time r.board r.id false r.stamp) s else s := by
  simp [takeReport, h]

/-- A report that qualifies is counted, then offered as a record (R159, R167). -/
theorem takeReport_qualified (h : (s.part k).filter.qualifies r.id = true) :
    takeReport k r s = offerRecord k (.trigger r.step r.time r.board r.id true r.stamp) (countReport k r s) := by
  simp [takeReport, h]

/-- A counted report requests its stop when the count brings or finds the counter at 0 (R161 to R163, R165). -/
theorem countReport_eq (k : Slot) (r : TriggerReport) (s : State) :
    countReport k r s =
      let c := (s.part k).filter.counter
      let s1 := s.setPart k { s.part k with filter := { (s.part k).filter with counter := c - 1 } }
      if c ≤ 1 then candidate k (min (r.step + (s.part k).heff) 4294967295) (.trigger r.board r.id) s1 else s1 := by
  simp only [countReport, State.updPart_eq, State.setPart_part_self, Partition.triggerStop, Nat.sub_eq_zero_iff_le]
  rfl

end

/-- Settles O47: the mode decides, and a report it does not qualify is at most a record. -/
theorem filterModeQualifies : Obligations.FilterModeQualifies := by
  refine ⟨fun f id => ⟨Filter.qualifies_of_mode, Filter.qualifies_of_mode, Filter.qualifies_of_mode,
    Filter.qualifies_of_mode⟩, fun s k r hoff => takeReport_unqualified (Filter.qualifies_of_mode hoff), ?_⟩
  rintro s k r f (⟨hmode, hfound⟩ | ⟨hmode, hfound⟩)
  · exact takeReport_unqualified ((Filter.qualifies_of_mode hmode).trans hfound)
  · exact takeReport_unqualified ((Filter.qualifies_of_mode hmode).trans (congrArg not hfound))

/-- Settles O48: the report is counted before its record is offered. -/
theorem qualifyingReportCountsAndStops : Obligations.QualifyingReportCountsAndStops := fun s k r h => by
  rw [takeReport_qualified h, countReport_eq]

/-! ## The requests that change the filter -/

section
variable {s : State} {k : Slot}

theorem flagByte_flagOf (b : Byte) : flagByte (flagOf b) = if b = 0 then 0 else 1 := by
  by_cases h : b = 0 <;> simp [flagByte, flagOf, h]

/-- A mode is coded by its own byte (R211). -/
theorem FilterMode.ofByte_code (m : FilterMode) : FilterMode.ofByte m.code = some m := by
  cases m <;> rfl

/-- A byte above 3 codes no mode (R211). -/
theorem FilterMode.ofByte_above {b : Byte} (h : 3 < b.toNat) : FilterMode.ofByte b = none := by
  have hne : ∀ c : Byte, c.toNat ≤ 3 → b ≠ c := by
    rintro c hc rfl
    omega
  rw [FilterMode.ofByte, if_neg (hne 0 (by decide)), if_neg (hne 1 (by decide)), if_neg (hne 2 (by decide)),
    if_neg (hne 3 (by decide))]

/-- SET_FILTER in an open slot with a byte that is no mode is refused (R168). -/
theorem exec_setFilter_badValue {mode log : Byte} {count : BitVec 16} (h : Waits s k (.setFilter mode count log))
    (hopen : (s.part k).state ≠ .closed) (hm : FilterMode.ofByte mode = none) :
    exec (.setFilter k mode count log) s = .next (refuse k .badValue s) := by
  refine (take_waits h).trans ?_
  rw [whenOpen_open hopen, hm]

/-- SET_FILTER in an open slot with a mode loads the counter with the count kept (R168). -/
theorem exec_setFilter_mode {m : FilterMode} {log : Byte} {count : BitVec 16}
    (h : Waits s k (.setFilter m.code count log)) (hopen : (s.part k).state ≠ .closed) :
    let n := max 1 count.toNat
    let f := { (s.part k).filter with mode := m, setting := n, counter := n, logUnmatched := flagOf log }
    exec (.setFilter k m.code count log) s = .next (respond k .ok (decide (count = 0)) f.bytes
      (s.setPart k { s.part k with filter := f })) := by
  refine (take_waits h).trans ?_
  simp only [whenOpen_open hopen, m.ofByte_code, State.updFilter, State.updPart_eq, State.setPart_part_self]
  rfl

/-- SET_MATCH in an open slot with an index above 7 is refused (R169). -/
theorem exec_setMatch_badValue {index enable : Byte} {id care : BitVec 16}
    (h : Waits s k (.setMatch index id care enable)) (hopen : (s.part k).state ≠ .closed) (hi : 7 < index.toNat) :
    exec (.setMatch k index id care enable) s = .next (refuse k .badValue s) := by
  refine (take_waits h).trans ?_
  rw [whenOpen_open hopen, dif_neg (by omega)]

/-- SET_MATCH in an open slot replaces the entry it names (R169). -/
theorem exec_setMatch_entry {index enable : Byte} {id care : BitVec 16} {i : Fin 8}
    (h : Waits s k (.setMatch index id care enable)) (hopen : (s.part k).state ≠ .closed) (hi : index.toNat = i.val) :
    let entries := (s.part k).filter.entries.set i ⟨id, care, flagOf enable⟩
    exec (.setMatch k index id care enable) s = .next (respond k .ok false (matchBytes entries.toList)
      (s.setPart k { s.part k with filter := { (s.part k).filter with entries := entries } })) := by
  refine (take_waits h).trans ?_
  rw [whenOpen_open hopen, dif_pos (hi ▸ i.isLt)]
  simp only [State.updFilter, State.updPart_eq, State.setPart_part_self, hi]

end

/-- Settles O49: the byte of a mode or of an index decides between the refusal and the values replaced. -/
theorem filterSettingsReplaced : Obligations.FilterSettingsReplaced := by
  constructor
  · intro s k mode log count h hopen n
    refine ⟨fun hbad => exec_setFilter_badValue h hopen (FilterMode.ofByte_above hbad), ?_⟩
    rintro m rfl
    rw [exec_setFilter_mode h hopen, Filter.bytes, flagByte_flagOf]
    rfl
  · intro s k index enable id care h hopen
    exact ⟨exec_setMatch_badValue h hopen, fun i => exec_setMatch_entry h hopen⟩

/-! ## SET_HASH -/

section
variable {s : State} {k : Slot}

/-- ADD_IDS sets the entry at the hash index of each ID and leaves the others (R170). -/
theorem addIds_getLsbD (ids : List TriggerId) (table : BitVec 64) (i : Nat) :
    (addIds table ids).getLsbD i = true ↔ table.getLsbD i = true ∨ ∃ id ∈ ids, hashIndex id = i := by
  induction ids generalizing table with
  | nil => simp [addIds]
  | cons id ids ih =>
    have hset : (BitVec.twoPow 64 (hashIndex id)).getLsbD i = true ↔ hashIndex id = i := by
      have := hashIndex_lt id
      rw [BitVec.getLsbD_twoPow, Bool.and_eq_true, decide_eq_true_iff, decide_eq_true_iff]
      omega
    rw [addIds, ih, BitVec.getLsbD_or, Bool.or_eq_true, hset, or_assoc, List.exists_mem_cons_iff]

/-- A SET_HASH changes the enable and the table together, and answers both (R170). -/
theorem takeHash_eq (k : Slot) (enable : Byte) (change : BitVec 64 → BitVec 64) (s : State) :
    takeHash k enable change s =
      let table := change (s.part k).filter.hashTable
      respond k .ok false ((if enable = 0 then 0 else 1) :: leBytes 8 table.toNat)
        (s.setPart k { s.part k with filter := { (s.part k).filter with
          hashEnabled := decide (enable ≠ 0), hashTable := table } }) := by
  simp only [takeHash, State.updFilter, State.updPart_eq, State.setPart_part_self, Filter.hashBytes, Filter.setHash,
    flagByte_flagOf]
  rfl

/-- A SET_HASH request in an open slot has the effect of its operation. -/
theorem take_takeHash {r : Request} {enable : Byte} {change : BitVec 64 → BitVec 64} (h : Waits s k r)
    (hopen : (s.part k).state ≠ .closed) :
    take k r (whenOpen k (takeHash k enable change)) s = .next (takeHash k enable change s) :=
  (take_waits h).trans (congrArg Host.Outcome.next (whenOpen_open hopen))

/-- ADD_IDS in an open slot with a count outside 1 to 8 is refused (R170). -/
theorem exec_setHashAddIds_badValue {enable count : Byte} {ids : List TriggerId}
    (h : Waits s k (.setHashAddIds enable count ids)) (hopen : (s.part k).state ≠ .closed)
    (hcount : count = 0 ∨ 8 < count.toNat) :
    exec (.setHashAddIds k enable count ids) s = .next (refuse k .badValue s) := by
  have hout : ¬ (1 ≤ count.toNat ∧ count.toNat ≤ 8) := by
    rcases hcount with rfl | hbig
    · decide
    · omega
  refine (take_waits h).trans ?_
  rw [whenOpen_open hopen, if_neg hout]

/-- ADD_IDS in an open slot with a count of 1 to 8 adds its IDs (R170). -/
theorem exec_setHashAddIds {enable count : Byte} {ids : List TriggerId}
    (h : Waits s k (.setHashAddIds enable count ids)) (hopen : (s.part k).state ≠ .closed) (hcount : count ≠ 0)
    (hmost : count.toNat ≤ 8) :
    exec (.setHashAddIds k enable count ids) s = .next (takeHash k enable (fun table => addIds table ids) s) := by
  have hleast : 1 ≤ count.toNat := Nat.one_le_iff_ne_zero.2 fun h0 => hcount (BitVec.eq_of_toNat_eq h0)
  refine (take_waits h).trans ?_
  rw [whenOpen_open hopen, if_pos ⟨hleast, hmost⟩]

end

/-- Settles O50: the four operations by what each makes of the table, and the table of ADD_IDS bit by bit. -/
theorem hashTableChanged : Obligations.HashTableChanged := by
  intro s k enable hopen put
  have hput : ∀ change : BitVec 64 → BitVec 64,
      Host.Outcome.next (takeHash k enable change s) = put (change (s.part k).filter.hashTable) :=
    fun change => congrArg Host.Outcome.next (takeHash_eq k enable change s)
  refine ⟨fun h => ?_, fun table h => ?_, fun h => ?_, fun count ids h => ⟨?_, fun hcount hmost => ?_⟩, hashIndex_eq⟩
  · exact (take_takeHash h hopen).trans (hput fun table => table)
  · exact (take_takeHash h hopen).trans (hput fun _ => table)
  · exact (take_takeHash h hopen).trans (hput fun _ => 0)
  · exact exec_setHashAddIds_badValue h hopen
  · exact ⟨addIds (s.part k).filter.hashTable ids, (exec_setHashAddIds h hopen hcount hmost).trans (hput _),
      fun i _ => addIds_getLsbD ids _ i⟩

end Sys2Proof.Machine
end

section
/-! SUPPORT. READ_EVENTS taken (R179); then the statement about it and the bytes of a record (R214). -/

namespace Sys2Proof.Machine

/-- The count is brought into 1 to 4 exactly when it lies outside (R179). -/
theorem eventCount_ne_toNat (count : Byte) :
    (eventCount count != count.toNat) = decide (count = 0 ∨ 4 < count.toNat) := by
  have hzero : count = 0 ↔ count.toNat = 0 := BitVec.toNat_eq
  rw [Bool.eq_iff_iff, bne_iff_ne, decide_eq_true_iff, hzero, eventCount, clampTo]
  omega

/-- A READ_EVENTS takes the oldest records off the queue and answers them with what is left (R179). -/
theorem takeEvents_eq (k : Slot) (count : Byte) (s : State) :
    takeEvents k count s =
      let n := eventCount count
      let q := (s.part k).queue
      respond k .ok (n != count.toNat)
        ([BitVec.ofNat 8 (min n q.records.length), BitVec.ofNat 8 (q.records.length - n)] ++ leBytes 2 q.drops
          ++ [flagByte q.overflow] ++ recordBytes (q.records.take n))
        (s.setPart k { s.part k with queue := { q with records := q.records.drop n } }) := by
  simp only [takeEvents, State.updPart_eq, State.setPart_part_self, List.length_take, List.length_drop]

section
variable {s : State} {k : Slot} {count : Byte}

/-- A READ_EVENTS in a CLOSED slot is refused (R179). -/
theorem exec_readEvents_closed (h : Waits s k (.readEvents count)) (hclosed : (s.part k).state = .closed) :
    exec (.readEvents k count) s = .next (refuse k .notOpen s) :=
  (take_waits h).trans (congrArg Host.Outcome.next (whenOpen_closed hclosed))

/-- A READ_EVENTS in an open slot is taken (R179). -/
theorem exec_readEvents_open (h : Waits s k (.readEvents count)) (hopen : (s.part k).state ≠ .closed) :
    exec (.readEvents k count) s = .next (takeEvents k count s) :=
  (take_waits h).trans (congrArg Host.Outcome.next (whenOpen_open hopen))

end

/-- Settles O51: the layout of each record by its kind, and the request by whether the slot is open. -/
theorem oldestEventsRead : Obligations.OldestEventsRead := by
  refine ⟨⟨rfl, fun r rs => congrArg (· ++ recordBytes rs) ?_⟩, fun s k count h => ⟨exec_readEvents_closed h, ?_⟩⟩
  · cases r with
    | stop step vt primary also => cases primary <;> rfl
    | trigger step vt board id qualified stamp => cases stamp <;> rfl
    | link board frontier event => rcases event with (_ | _ | _ | _ | _) | _ | (_ | _ | _) <;> rfl
  · intro hopen
    rw [exec_readEvents_open h hopen, takeEvents_eq, ← eventCount_ne_toNat]
    rfl

end Sys2Proof.Machine
end

section
/-! SUPPORT. The bits of a transaction (R183), the transaction a byte selects (R212), what each transaction makes of its
port (R185, R192 to R195), and the attention line (R181, R196, R201); then the statement about them. -/

namespace Sys2Proof.Machine

/-! ## Bits and bytes on a port -/

/-- The eight bits of a byte make up that byte. -/
theorem byteOfBits_getLsbD (b : Byte) :
    byteOfBits (b.getLsbD 7) (b.getLsbD 6) (b.getLsbD 5) (b.getLsbD 4) (b.getLsbD 3) (b.getLsbD 2) (b.getLsbD 1)
      (b.getLsbD 0) = b := by
  revert b
  decide

/-- The bits of a byte stand most significant first (R183). -/
theorem bitsOfByte_getElem? (b : Byte) : ∀ i : Fin 8, (bitsOfByte b)[7 - i.val]? = some (b.getLsbD i.val)
  | 0 | 1 | 2 | 3 | 4 | 5 | 6 | 7 => rfl

theorem length_flatMap_bitsOfByte (bytes : List Byte) : (bytes.flatMap bitsOfByte).length = 8 * bytes.length := by
  simp [List.length_flatMap, bitsOfByte, Nat.mul_comm]

/-- Eight bits are counted as one byte, and fewer behind them are not counted (R183). -/
theorem length_receivedBytes : ∀ bits : List Bool, (receivedBytes bits).length = bits.length / 8
  | _ :: _ :: _ :: _ :: _ :: _ :: _ :: _ :: rest => by
    simp only [receivedBytes, List.length_cons, length_receivedBytes rest]
    omega
  | [] | [_] | [_, _] | [_, _, _] | [_, _, _, _] | [_, _, _, _, _] | [_, _, _, _, _, _] | [_, _, _, _, _, _, _] =>
    by simp [receivedBytes]

/-- Fewer than eight bits are no byte (R183). -/
theorem receivedBytes_of_length_lt {bits : List Bool} (h : bits.length < 8) : receivedBytes bits = [] :=
  List.length_eq_zero_iff.1 ((length_receivedBytes bits).trans (Nat.div_eq_of_lt h))

/-- Bytes sent bit by bit are received, and a byte left incomplete behind them is not counted (R183). -/
theorem receivedBytes_flatMap (bytes : List Byte) {rest : List Bool} (h : rest.length < 8) :
    receivedBytes (bytes.flatMap bitsOfByte ++ rest) = bytes := by
  induction bytes with
  | nil => exact receivedBytes_of_length_lt h
  | cons b bytes ih => exact congrArg₂ List.cons (byteOfBits_getLsbD b) ih

/-- With nothing to shift out data out is 0 throughout (R183). -/
theorem shiftOut_nil (n : Nat) : shiftOut [] n = List.replicate (8 + n) false := by
  simp [shiftOut, List.replicate_add]

/-- What is shifted out behind the transaction byte: the bits of the bytes and then zeros, as far as the clock goes
(R183). -/
theorem shiftOut_eq_take (out : List Byte) (n : Nat) :
    shiftOut out n = List.replicate (8 + 0) false
      ++ (out.flatMap bitsOfByte ++ List.replicate (8 + n) false).take n := by
  rw [shiftOut, List.take_append, length_flatMap_bitsOfByte, List.take_replicate, Nat.min_eq_left (by omega)]

/-- The port status byte bit by bit (R194). -/
theorem bitsOfByte_portStatusByte (ready inProgress overrun attention : Bool) :
    bitsOfByte (portStatusByte ready inProgress overrun attention)
      = [false, false, false, false, attention, overrun, inProgress, ready] := by
  revert ready inProgress overrun attention
  decide

/-! ## The lines of a port -/

/-- The attention line by the slot, its queue and its enable (R181, R196, R201). -/
theorem State.attention_iff (s : State) (k : Slot) : s.attention k = true ↔ s.resetHeld = false
    ∧ (s.part k).state ≠ .closed ∧ (s.part k).queue.records ≠ [] ∧ (s.part k).settings.attention = true := by
  simp only [State.attention, Bool.and_eq_true, Bool.not_eq_true', bne_iff_ne, List.isEmpty_eq_false_iff]
  tauto

/-- Data out is driven in a transaction, unless the sequencer is held in reset (R183, assumption 51). -/
theorem State.drivesDataOut_iff (s : State) (k : Slot) :
    s.drivesDataOut k = true ↔ s.resetHeld = false ∧ (s.port k).transaction ≠ .none := by
  simp [State.drivesDataOut]

/-! ## What a transaction makes of its port -/

/-- A transaction byte selects a transaction exactly when it is that transaction's byte (R212). -/
theorem transactionOf_eq_some_iff {b : Byte} {kind : TransactionKind} : transactionOf b = some kind ↔ b = kind.byte := by
  refine ⟨fun h => ?_, fun h => h ▸ transactionOf_byte kind⟩
  unfold transactionOf at h
  split_ifs at h with hwrite hread hstatus
  · exact Option.some.inj h ▸ hwrite
  · exact Option.some.inj h ▸ hread
  · exact Option.some.inj h ▸ hstatus

section
variable {p : Port} (hbegun : p.transaction = .begun)
include hbegun

theorem Port.write_idle (bits : List Bool) (h : p.state = .idle) : p.write bits =
    { p with state := .receiving, transaction := .writing, request := (receivedBytes bits).take 64,
             overlong := decide (64 < bits.length / 8), dataOut := List.replicate (8 + bits.length) false } := by
  rw [Port.write, hbegun, h, length_receivedBytes, shiftOut_nil]
  rfl

theorem Port.write_overrun (bits : List Bool) (h : p.state = .processing ∨ p.state = .responseReady) : p.write bits =
    { p with transaction := .overrun, overrun := true, dataOut := List.replicate (8 + bits.length) false } := by
  rcases h with h | h <;> rw [Port.write, hbegun, h, shiftOut_nil]

theorem Port.read_responseReady (n : Nat) (h : p.state = .responseReady) : p.read n =
    { p with transaction := .reading, readPosition := min (n / 8) p.response.length,
             dataOut := shiftOut p.response n } := by
  rw [Port.read, hbegun, h]

theorem Port.read_empty (n : Nat) (h : p.state = .idle ∨ p.state = .processing) : p.read n =
    { p with transaction := .readingEmpty, dataOut := shiftOut [emptyIndication] n } := by
  rcases h with h | h <;> rw [Port.read, hbegun, h]

theorem Port.readStatus_begun (attention : Bool) (n : Nat) : p.readStatus attention n =
    { p with transaction := .status, overrun := false,
             dataOut := shiftOut [portStatusByte (p.state == .responseReady) (p.state == .processing) p.overrun
               attention] n } := by
  rw [Port.readStatus, hbegun]

theorem Port.unknown_begun (n : Nat) : p.unknown n =
    { p with transaction := .unknown, dataOut := List.replicate (8 + n) false } := by
  rw [Port.unknown, hbegun, shiftOut_nil]

end

theorem Port.fall_none {p : Port} (h : p.transaction = .none) : p.fall =
    { p with transaction := .begun, inactivity := true, dataOut := [] } := by
  rw [Port.fall, h]

/-! ## The commands -/

section
variable {s : State} (k : Slot) (hr : s.resetHeld = false)
include hr

theorem exec_selectFall : exec (.selectFall k) s = .next (s.setPort k (s.port k).fall) := by
  simp [exec, execSelectFall, hr]

theorem exec_writeRequest (bits : List Bool) :
    exec (.writeRequest k bits) s = .next (s.setPort k ((s.port k).write bits)) := act_running hr

theorem exec_readResponse (bits : List Bool) :
    exec (.readResponse k bits) s = .next (s.setPort k ((s.port k).read bits.length)) := act_running hr

theorem exec_readPortStatus (bits : List Bool) :
    exec (.readPortStatus k bits) s = .next (s.setPort k ((s.port k).readStatus (s.attention k) bits.length)) :=
  act_running hr

theorem exec_unknownTransaction {b : Byte} (bits : List Bool) (hb : transactionOf b = none) :
    exec (.unknownTransaction k b bits) s = .next (s.setPort k ((s.port k).unknown bits.length)) := by
  rw [exec, execUnknownTransaction, act_running hr, transact_eq, hb]
  rfl

end

/-- Settles O21: the lines, the transactions by the port state, the transaction byte, and the bits of bytes. -/
theorem transactionsBegin : Obligations.TransactionsBegin := by
  refine ⟨State.attention_iff, ?_, fun b => ⟨transactionOf_eq_some_iff, transactionOf_eq_some_iff,
    transactionOf_eq_some_iff⟩, fun s k kind bits hr => ?_, fun bytes rest h => receivedBytes_flatMap bytes h,
    bitsOfByte_getElem?⟩
  · intro s k hr p zeros
    refine ⟨fun hnone => ⟨?_, _, exec_selectFall k hr, congrArg _ (Port.fall_none hnone), ?_⟩, fun hbegun =>
      ⟨fun bits h => ?_, fun bits h => ?_, fun bits h => ?_, fun bits h => ?_, fun bits => ?_, fun b bits hb => ?_⟩⟩
    · exact Bool.eq_false_iff.2 fun h => ((s.drivesDataOut_iff k).1 h).2 hnone
    · rw [State.drivesDataOut_iff, State.setPort_port_self, Port.fall_none hnone]
      exact ⟨hr, nofun⟩
    · rw [exec_writeRequest k hr, Port.write_idle hbegun bits h]
    · rw [exec_writeRequest k hr, Port.write_overrun hbegun bits h]
    · rw [exec_readResponse k hr, Port.read_responseReady hbegun bits.length h, shiftOut_eq_take]
    · rw [exec_readResponse k hr, Port.read_empty hbegun bits.length h, shiftOut_eq_take]
      rfl
    · rw [exec_readPortStatus k hr, Port.readStatus_begun hbegun, shiftOut_eq_take, List.flatMap_singleton,
        bitsOfByte_portStatusByte]
    · rw [exec_unknownTransaction k hr bits hb, Port.unknown_begun hbegun]
  · cases kind with
    | writeRequest | readResponse | readPortStatus => exact act_running hr

end Sys2Proof.Machine
end

section
/-! SUPPORT. Response frames (R191, R192, R212), the ends of transactions (R192, R195) and the judgement of request frames
(R186 to R189), and the statements about them. -/

namespace Sys2Proof.Machine

/-! ## Responses -/

/-- A port with its request answered: the response is ready to be read (R191). -/
def Port.answered (response : List Byte) (p : Port) : Port :=
  { p with state := .responseReady, work := none, request := [], overlong := false, readPosition := 0,
           response := response }

/-- A response replaces the port that answers (R191). -/
theorem respond_eq (k : Slot) (st : Status) (c : Bool) (body : List Byte) (s : State) :
    respond k st c body s = s.setPort k ((s.port k).answered
      (responseFrame ((s.port k).request.getD 0 0) ((s.port k).request.getD 1 0) st c body)) := rfl

/-- A response frame is its five leading bytes, its body and its check byte (R191, R212). -/
theorem responseFrame_eq (code seqTag : Byte) (st : Status) (c : Bool) (body : List Byte) :
    ∃ check, responseFrame code seqTag st c body
      = [echoCode code, seqTag, st.code, flagByte c, BitVec.ofNat 8 body.length] ++ (body ++ [check]) := ⟨_, rfl⟩

/-- A response never begins with the empty indication (R192). -/
theorem echoCode_ne_emptyIndication (code : Byte) : echoCode code ≠ emptyIndication := by
  unfold echoCode
  split
  · decide
  · assumption

/-- Settles O10: the response frame byte by byte. -/
theorem responseFrameBuilt : Obligations.ResponseFrameBuilt := by
  intro k status clamped body s p code
  obtain ⟨check, hframe⟩ := responseFrame_eq code ((s.port k).request.getD 1 0) status clamped body
  have hport : p = (s.port k).answered (responseFrame code ((s.port k).request.getD 1 0) status clamped body) :=
    respond_port k status clamped body s
  have hresponse : p.response = responseFrame code ((s.port k).request.getD 1 0) status clamped body :=
    congrArg Port.response hport
  refine ⟨congrArg Port.state hport, congrArg Port.work hport, congrArg Port.readPosition hport,
    (congrArg Port.overrun hport :), ?_, ?_, ?_, ?_, ?_, fun j hj => respond_port_ne k j hj _ _ _ s⟩
  · rw [hresponse, hframe]
    rfl
  · rw [hresponse, hframe]
    exact List.take_left
  · rw [hresponse, hframe]
    simp
  · rw [hresponse]
    exact sumBytes_sealBytes _
  · rw [hresponse, hframe]
    exact fun h => echoCode_ne_emptyIndication code (Option.some.inj h)

/-! ## Ends of transactions -/

/-- The rise of select ends a READ_RESPONSE (R192). -/
theorem Port.rise_reading {p : Port} (h : p.transaction = .reading) :
    p.rise = { p.endRead with transaction := .none, inactivity := false } := by
  rw [Port.rise, h]

/-- The rise of select ends a transaction that neither takes nor shifts out a frame (R183). -/
theorem Port.rise_other {p : Port} (hnone : p.transaction ≠ .none) (hwriting : p.transaction ≠ .writing)
    (hreading : p.transaction ≠ .reading) : p.rise = { p with transaction := .none, inactivity := false } := by
  unfold Port.rise
  split
  · exact absurd ‹_› hnone
  · exact absurd ‹_› hwriting
  · exact absurd ‹_› hreading
  all_goals rfl

section
variable {p : Port} (hrunning : p.inactivity = true)
include hrunning

/-- The timeout discards a frame that is being received (R195). -/
theorem Port.expire_writing (h : p.transaction = .writing) : p.expire =
    { p with state := .idle, request := [], overlong := false, transaction := .ignored, inactivity := false } := by
  rw [Port.expire, if_pos hrunning, h]

/-- The timeout ends a READ_RESPONSE as the rise of select does (R195). -/
theorem Port.expire_reading (h : p.transaction = .reading) :
    p.expire = { p.endRead with transaction := .ignored, inactivity := false } := by
  rw [Port.expire, if_pos hrunning, h]

theorem Port.expire_other (hwriting : p.transaction ≠ .writing) (hreading : p.transaction ≠ .reading) :
    p.expire = { p with transaction := .ignored, inactivity := false } := by
  rw [Port.expire, if_pos hrunning]
  dsimp only
  split
  · exact absurd ‹_› hwriting
  · exact absurd ‹_› hreading
  all_goals rfl

end

/-- Settles O22: the transaction decides, at the rise of select and at the timeout. -/
theorem transactionsEnd : Obligations.TransactionsEnd := by
  intro s k hr p released
  have hrise : exec (.selectRise k) s = .next (s.setPort k p.rise) := rfl
  have hexpire : exec (.inactivityTimeout k) s = .next (s.setPort k p.expire) :=
    act_running (f := fun s => s.updPort k Port.expire) hr
  rw [hrise, hexpire]
  refine ⟨fun h => ?_, fun hnone hwriting hreading => ?_, fun hrunning h => ?_, fun hrunning h => ?_,
    fun hrunning hwriting hreading => ?_⟩
  · rw [Port.rise_reading h]
    rfl
  · rw [Port.rise_other hnone hwriting hreading]
  · rw [Port.expire_writing hrunning h]
  · rw [Port.expire_reading hrunning h]
    rfl
  · rw [Port.expire_other hrunning hwriting hreading]

/-! ## Request frames judged -/

@[simp] theorem State.setPort_setPort (s : State) (k : Slot) (p q : Port) :
    (s.setPort k p).setPort k q = s.setPort k q := by
  simp [State.setPort]

/-- The conditions of a malformed frame (R186). -/
theorem malformed_iff {frame : List Byte} {overlong : Bool} : malformed frame overlong = true ↔
    frame.length < 4 ∨ overlong = true ∨ 60 < (frame.getD 2 0).toNat ∨ frame.length ≠ (frame.getD 2 0).toNat + 4
      ∨ sumBytes frame ≠ 0 := by
  simp only [malformed, Bool.or_eq_true, decide_eq_true_iff, or_assoc]
  rfl

/-- The codes of the catalogue are 01h to 22h (R212). -/
theorem knownCode_iff {code : Byte} : knownCode code = true ↔ code ≠ 0 ∧ code.toNat ≤ 0x22 := by
  have hzero : code = 0 ↔ code.toNat = 0 := BitVec.toNat_inj.symm
  rw [knownCode, Bool.and_eq_true, decide_eq_true_iff, decide_eq_true_iff, Ne, hzero, Nat.one_le_iff_ne_zero]

/-- The port with the transaction of its request frame ended (R186). -/
def Port.received (p : Port) : Port := { p with transaction := .none, inactivity := false }

@[simp] theorem Port.received_request (p : Port) : p.received.request = p.request := rfl
@[simp] theorem Port.received_overlong (p : Port) : p.received.overlong = p.overlong := rfl

/-- The port with its request handed over (R189). -/
def Port.handedOver (p : Port) : Port := { p.received with state := .processing, work := some .handed }

/-- A request handed over waits in PROCESSING (R189). -/
theorem handOver_waits {k : Slot} {r : Request} {s : State} {p : Port}
    (h : ∀ enable operation, r ≠ .setHashOther enable operation) :
    handOver k r (s.setPort k p.received) = s.setPort k p.handedOver := by
  unfold handOver
  split
  · exact absurd rfl (h _ _)
  · simp [Port.handedOver]

/-- A SET_HASH of an unknown operation is answered as it is handed over (R170, assumption 24). -/
theorem handOver_setHashOther {k : Slot} {s : State} {p : Port} (enable operation : Byte) :
    handOver k (.setHashOther enable operation) (s.setPort k p.received)
      = refuse k (if (s.part k).state = .closed then .notOpen else .badValue) (s.setPort k p.received) := by
  simp only [handOver, whenOpen, refuse, respond_eq, State.updPort_eq, State.setPort_part, State.setPort_setPort,
    State.setPort_port_self, Port.answered]
  split_ifs <;> rfl

section
variable {k : Slot} {s : State} {p : Port}

/-- Check 1: the form of the frame (R186). -/
theorem judgeRequest_malformed (h : malformed p.request p.overlong = true) :
    judgeRequest k (s.setPort k p.received) = refuse k .badFrame (s.setPort k p.received) := by
  simp [judgeRequest, h]

variable (hgood : malformed p.request p.overlong = false)
include hgood

/-- Check 2: the start-up (R188). -/
theorem judgeRequest_starting (hphase : s.loader.phase ≠ .ready) :
    judgeRequest k (s.setPort k p.received) = refuse k .starting (s.setPort k p.received) := by
  simp [judgeRequest, hgood, hphase]

variable (hready : s.loader.phase = .ready)
include hready

/-- Check 3: the request code (R187). -/
theorem judgeRequest_unknown (hcode : knownCode (byteAt p.request 0) = false) :
    judgeRequest k (s.setPort k p.received) = refuse k .unknownRequest (s.setPort k p.received) := by
  simp [judgeRequest, hgood, hready, hcode]

variable (hcode : knownCode (byteAt p.request 0) = true)
include hcode

/-- Check 4: the fields (R187). -/
theorem judgeRequest_missing (h : decodeRequest p.request = none) :
    judgeRequest k (s.setPort k p.received) = refuse k .badFrame (s.setPort k p.received) := by
  simp [judgeRequest, hgood, hready, hcode, h]

/-- A request that passes the checks is handed over (R189). -/
theorem judgeRequest_decoded {r : Request} (h : decodeRequest p.request = some r) :
    judgeRequest k (s.setPort k p.received) = handOver k r (s.setPort k p.received) := by
  simp [judgeRequest, hgood, hready, hcode, h]

end

/-- The end of a request frame is its judgement (R186). -/
theorem endRequestFrame_writing {k : Slot} {s : State} (h : (s.port k).transaction = .writing) :
    endRequestFrame k s = judgeRequest k (s.setPort k (s.port k).received) := by
  rw [endRequestFrame, h]
  rfl

/-- Settles O23: malformed, STARTING, the code, the fields, and the request handed over, in the order of the checks. -/
theorem requestFrameJudged : Obligations.RequestFrameJudged := by
  intro s k hr hwriting p f s1 bad
  have hexec : exec (.requestFrameEnd k) s = .next (judgeRequest k (s.setPort k p.received)) :=
    (act_running hr).trans (congrArg _ (endRequestFrame_writing hwriting))
  have hgood : ¬ bad → malformed p.request p.overlong = false := fun h =>
    Bool.eq_false_iff.2 fun hmalformed => h (malformed_iff.1 hmalformed)
  rw [hexec]
  refine ⟨fun hbad => ?_, fun hbad hphase => ?_, fun hbad hready hcode => ?_, fun hbad hready hcode hrange => ?_⟩
  · exact congrArg _ (judgeRequest_malformed (malformed_iff.2 hbad))
  · exact congrArg _ (judgeRequest_starting (hgood hbad) hphase)
  · have hunknown : knownCode (byteAt p.request 0) = false := Bool.eq_false_iff.2 fun h => by
      obtain ⟨hne, hle⟩ := knownCode_iff.1 h
      exact hcode.elim hne hle.not_gt
    exact congrArg _ (judgeRequest_unknown (hgood hbad) hready hunknown)
  · have hknown : knownCode (byteAt p.request 0) = true := knownCode_iff.2 ⟨hcode, hrange⟩
    refine ⟨fun hnone => ?_, fun enable operation hother => ?_, fun r hdecode hwaits => ?_⟩
    · exact congrArg _ (judgeRequest_missing (hgood hbad) hready hknown hnone)
    · rw [judgeRequest_decoded (hgood hbad) hready hknown hother]
      exact congrArg _ (handOver_setHashOther enable operation)
    · rw [judgeRequest_decoded (hgood hbad) hready hknown hdecode]
      exact congrArg _ (handOver_waits hwaits)

end Sys2Proof.Machine
end

section
/-! SUPPORT. What an event can do to the work of the ports (R184, R189 to R192): a port goes on with its request or answers
it. First one port and the invariant of all, then the operations that leave the ports alone, faults and frames, and the
ends of exchanges. -/

namespace Sys2Proof.Machine

/-! ## One port -/

/-- A port as R184, R185 and R189 to R192 say. -/
structure Port.Sound (p : Port) : Prop where
  worked : p.work.isSome = true ↔ p.state = .processing
  writing : p.transaction = .writing ↔ p.state = .receiving
  reading : p.transaction = .reading → p.state = .responseReady
  kept : p.request.length ≤ Config.requestBytes

theorem portInvAt_iff (s : State) (k : Slot) : portInvAt s k = true ↔ (s.port k).Sound := by
  have hsplit : portInvAt s k = true ↔ ((s.port k).work.isSome = true ↔ (s.port k).state = .processing)
      ∧ ((s.port k).transaction = .writing ↔ (s.port k).state = .receiving)
      ∧ ((s.port k).transaction = .reading → (s.port k).state = .responseReady)
      ∧ (s.port k).request.length ≤ Config.requestBytes := by
    have hbeq (a b : Bool) : (a == b) = true ↔ (a = true ↔ b = true) := beq_iff_eq.trans Bool.eq_iff_iff
    simp only [portInvAt, Bool.and_eq_true, hbeq]
    simp only [beq_iff_eq, Bool.or_eq_true, bne_iff_ne, decide_eq_true_iff, and_assoc, imp_iff_not_or, ne_eq]
  exact hsplit.trans ⟨fun ⟨hwork, hwriting, hreading, hkept⟩ => ⟨hwork, hwriting, hreading, hkept⟩,
    fun h => ⟨h.worked, h.writing, h.reading, h.kept⟩⟩

/-- The port works a request that does not wait for the configuration memory. -/
def Port.Busy (p : Port) : Prop := ∃ w, p.work = some w ∧ w ≠ .storing

/-- What an event can make of a port that works a request: it stays, goes on with its work, or answers (R190, R191). -/
inductive Port.Moves : Port → Port → Prop
  | stays (p : Port) : Moves p p
  | works {p : Port} (h : p.Busy) {w : Work} (hw : w ≠ .storing) : Moves p { p with work := some w }
  | answers {p : Port} (h : p.Busy) (response : List Byte) : Moves p (p.answered response)

theorem Port.Moves.trans {p q r : Port} (h : p.Moves q) (h' : q.Moves r) : p.Moves r := by
  cases h with
  | stays => exact h'
  | works hb hw =>
    cases h' with
    | stays => exact .works hb hw
    | works _ hw' => exact .works hb hw'
    | answers _ response => exact .answers hb response
  | answers hb response =>
    cases h' with
    | stays => exact .answers hb response
    | works hb' _ | answers hb' _ =>
      obtain ⟨w, hw, -⟩ := hb'
      exact nomatch hw

/-- Work that is noted something about goes on, and any other work is left (R29, R66, R69, R103). -/
theorem Port.Moves.notes {p : Port} {work : Option Work}
    (h : work = p.work ∨ p.Busy ∧ ∃ w, work = some w ∧ w ≠ .storing) : p.Moves { p with work := work } := by
  rcases h with rfl | ⟨hb, w, rfl, hw⟩
  · exact .stays p
  · exact .works hb hw

/-- A port that works a request has no WRITE_REQUEST in progress: its answer leaves it sound (R185, R191). -/
theorem Port.Sound.answered {p : Port} (h : p.Sound) (hw : p.work.isSome = true) (response : List Byte) :
    (p.answered response).Sound where
  worked := ⟨nofun, nofun⟩
  writing := by
    refine ⟨fun ht => ?_, nofun⟩
    have hstate : PortState.processing = .receiving := (h.worked.1 hw).symm.trans (h.writing.1 ht)
    exact nomatch hstate
  reading _ := rfl
  kept := Nat.zero_le _

theorem Port.Sound.withWork {p : Port} (h : p.Sound) (hw : p.work.isSome = true) (w : Work) :
    Port.Sound { p with work := some w } where
  worked := ⟨fun _ => h.worked.1 hw, fun _ => rfl⟩
  writing := h.writing
  reading := h.reading
  kept := h.kept

theorem Port.Busy.isSome {p : Port} (h : p.Busy) : p.work.isSome = true := by
  obtain ⟨w, hw, -⟩ := h
  rw [hw]
  rfl

theorem Port.Moves.sound {p q : Port} (h : p.Moves q) (hp : p.Sound) : q.Sound := by
  cases h with
  | stays => exact hp
  | works hb _ => exact hp.withWork hb.isSome _
  | answers hb response => exact hp.answered hb.isSome response

/-- A port whose request waits for the configuration memory stays as it is (R208). -/
theorem Port.Moves.eq_of_storing {p q : Port} (h : p.Moves q) (hp : p.work = some .storing) : q = p := by
  have hidle : ¬ p.Busy := fun ⟨w, hw, hne⟩ => hne (Option.some.inj (hw.symm.trans hp))
  cases h with
  | stays => rfl
  | works hb _ | answers hb _ => exact absurd hb hidle

/-! ## All ports -/

/-- The port that a store operation is done for (R208). -/
def StoreOp.port : StoreOp → Slot
  | .read port _ _ | .write port _ _ => port

/-- Every port is as chapter 9 says, and the port whose store request is in progress works it (R208). -/
structure PortsSound (s : State) : Prop where
  sound : ∀ k, (s.port k).Sound
  storing : ∀ op, s.loader.op = some op → (s.port op.port).work = some .storing

theorem portInv_iff (s : State) : PortInv s ↔ PortsSound s := by
  have hstore : storePortInv s = true ↔ ∀ op, s.loader.op = some op → (s.port op.port).work = some .storing := by
    unfold storePortInv
    cases s.loader.op with
    | none => simp
    | some op => cases op <;> simp [StoreOp.port]
  exact (and_congr (forall_congr' (portInvAt_iff s)) hstore).trans
    ⟨fun ⟨hsound, hop⟩ => ⟨hsound, hop⟩, fun h => ⟨h.sound, h.storing⟩⟩

/-- From `s` to `t` each port stays, goes on with its work or answers, and the store operation is the same. -/
structure WorkOnly (s t : State) : Prop where
  op : t.loader.op = s.loader.op
  moves : ∀ k, (s.port k).Moves (t.port k)

theorem WorkOnly.refl (s : State) : WorkOnly s s := ⟨rfl, fun _ => .stays _⟩

theorem WorkOnly.trans {s t u : State} (h : WorkOnly s t) (h' : WorkOnly t u) : WorkOnly s u :=
  ⟨h'.op.trans h.op, fun k => (h.moves k).trans (h'.moves k)⟩

theorem PortsSound.workOnly {s t : State} (h : PortsSound s) (hw : WorkOnly s t) : PortsSound t where
  sound k := (hw.moves k).sound (h.sound k)
  storing op hop := by
    have hwork := h.storing op (hw.op.symm.trans hop)
    rw [(hw.moves op.port).eq_of_storing hwork]
    exact hwork

theorem workOnly_setPort {s : State} {k : Slot} {p : Port} (h : (s.port k).Moves p) : WorkOnly s (s.setPort k p) where
  op := rfl
  moves j := by
    by_cases hj : j = k
    · rw [hj, State.setPort_port_self]
      exact h
    · rw [State.setPort_port_ne _ _ _ _ hj]
      exact .stays _

/-- From `s` to `t` the ports and the store operation are the same. -/
def SamePorts (s t : State) : Prop := t.ports = s.ports ∧ t.loader.op = s.loader.op

theorem SamePorts.refl (s : State) : SamePorts s s := ⟨rfl, rfl⟩

theorem SamePorts.trans {s t u : State} (h : SamePorts s t) (h' : SamePorts t u) : SamePorts s u :=
  ⟨h'.1.trans h.1, h'.2.trans h.2⟩

theorem SamePorts.port {s t : State} (h : SamePorts s t) (k : Slot) : t.port k = s.port k :=
  congrArg (fun ports : Vector Port 4 => ports[k]) h.1

theorem SamePorts.workOnly {s t : State} (h : SamePorts s t) : WorkOnly s t :=
  ⟨h.2, fun k => h.port k ▸ .stays _⟩

theorem OnlyRun.samePorts {s t : State} (h : OnlyRun s t) : SamePorts s t := by
  obtain ⟨-, -, hports, hloader, -⟩ := h
  exact ⟨hports, congrArg Loader.op hloader⟩

theorem OnlyRun.workOnly {s t : State} (h : OnlyRun s t) : WorkOnly s t := h.samePorts.workOnly

section
variable {s t : State} {k : Slot} (hb : (s.port k).Busy)
include hb

/-- A port that works a request answers it, after changes elsewhere (R191). -/
theorem SamePorts.respond (h : SamePorts s t) (st : Status) (c : Bool) (body : List Byte) :
    WorkOnly s (respond k st c body t) :=
  h.workOnly.trans (workOnly_setPort (.answers (h.port k ▸ hb) _))

/-- A port that works a request goes on with it, after changes elsewhere (R190). -/
theorem SamePorts.works (h : SamePorts s t) {w : Work} (hw : w ≠ .storing) :
    WorkOnly s (t.updPort k fun p => { p with work := some w }) :=
  h.workOnly.trans (workOnly_setPort (.works (h.port k ▸ hb) hw))

theorem workOnly_respond (st : Status) (c : Bool) (body : List Byte) : WorkOnly s (respond k st c body s) :=
  (SamePorts.refl s).respond hb st c body

theorem workOnly_refuse (st : Status) : WorkOnly s (refuse k st s) := workOnly_respond hb st false []

end

/-! ## What leaves the ports alone -/

section
variable (k : Slot) (b : Board) (s : State)

theorem samePorts_updBoard (f : BoardRecord → BoardRecord) : SamePorts s (s.updBoard b f) := .refl s
theorem samePorts_updBoardLink (f : BoardRecord → BoardRecord) (g : Link → Link) :
    SamePorts s ((s.updBoard b f).updLink b g) := .refl s
theorem samePorts_recompute : SamePorts s (recompute k s) := .refl s
theorem samePorts_failBoard (cause : FaultCause) : SamePorts s (failBoard b cause s) := .refl s
theorem samePorts_breakBoard : SamePorts s (breakBoard b s) := .refl s
theorem samePorts_syncBoard (next : Nat) (level : ClockMask) : SamePorts s (syncBoard b next level s) := .refl s
theorem samePorts_muteBoards : SamePorts s (muteBoards k s) := (onlyRun_mapLinks _ s).samePorts
theorem samePorts_enterFaulted (cause : FaultCause) : SamePorts s (enterFaulted k cause s) := .refl s
theorem samePorts_offerLink (e : LinkEvent) : SamePorts s (offerLink k b e s) := .refl s
theorem samePorts_changeBoards (test : Board → Bool) (f : BoardRecord → BoardRecord) (g : Link → Link) :
    SamePorts s (s.changeBoards test f g) :=
  ⟨State.changeBoards_ports s test f g, congrArg Loader.op (State.changeBoards_loader s test f g)⟩

theorem samePorts_engineSelect : SamePorts s (engineSelect s) := by
  rcases engineSelect_cases s with h | ⟨_, _, _, h⟩ <;> rw [h] <;> exact .refl s

theorem samePorts_engineSelectFree : SamePorts s (engineSelectFree s) := by
  unfold engineSelectFree
  split
  · exact .refl s
  · split <;> exact .refl s

theorem samePorts_settleStartUp : SamePorts s (settleStartUp s) := by
  unfold settleStartUp
  split <;> exact .refl s

end

/-- What every board's operation leaves alone, all of them leave alone. -/
theorem samePorts_forBoards {op : Board → State → State} (h : ∀ b s, SamePorts s (op b s)) (bs : List Board)
    (s : State) : SamePorts s (forBoards op bs s) :=
  forBoards_keeps (P := SamePorts s) (fun b t ht => ht.trans (h b t)) bs s (.refl s)

/-- What every slot's operation leaves alone, all of them leave alone. -/
theorem samePorts_forSlots {op : Slot → State → State} (h : ∀ k s, SamePorts s (op k s)) (ks : List Slot)
    (s : State) : SamePorts s (forSlots op ks s) :=
  forSlots_keeps (P := SamePorts s) (fun k t ht => ht.trans (h k t)) ks s (.refl s)

/-! ## What is noted in an exchange -/

theorem workOnly_noteClaimFailed (k : Slot) (b : Board) (s : State) : WorkOnly s (noteClaimFailed k b s) := by
  refine workOnly_setPort (.notes ?_)
  split
  · rename_i hwork
    exact .inr ⟨⟨_, hwork, nofun⟩, _, rfl, nofun⟩
  · exact .inl rfl

theorem workOnly_noteResetFailed (k : Slot) (b : Board) (s : State) : WorkOnly s (noteResetFailed k b s) := by
  refine workOnly_setPort (.notes ?_)
  split
  · rename_i hwork
    exact .inr ⟨⟨_, hwork, nofun⟩, _, rfl, nofun⟩
  · exact .inl rfl

theorem workOnly_noteReplied (k : Slot) (b : Board) (s : State) : WorkOnly s (noteReplied k b s) := by
  refine workOnly_setPort (.notes ?_)
  split
  · rename_i hwork
    exact .inr ⟨⟨_, hwork, nofun⟩, _, rfl, nofun⟩
  · exact .inl rfl

theorem workOnly_noteProbe (b : Board) (answered : Bool) (s : State) : WorkOnly s (noteProbe b answered s) where
  op := rfl
  moves k := by
    rw [noteProbe_port]
    refine .notes ?_
    cases hwork : (s.port k).work with
    | none => exact .inl rfl
    | some w =>
      cases w with
      | reprobing set found absent =>
        rw [Option.map_some, Work.noteProbe_reprobing]
        exact .inr ⟨⟨_, hwork, nofun⟩, _, rfl, nofun⟩
      | _ => exact .inl rfl

/-! ## Faults -/

theorem workOnly_dropClaimed (k : Slot) (b : Board) (cause : FaultCause) (s : State) :
    WorkOnly s (dropClaimed k b cause s) := by
  unfold dropClaimed
  refine WorkOnly.trans ?_ ((samePorts_recompute k _).trans (samePorts_offerLink k b _ _)).workOnly
  exact (samePorts_updBoardLink b s _ _).workOnly.trans (workOnly_noteClaimFailed k b _)

theorem workOnly_endSync (k : Slot) (b : Board) (s : State) : WorkOnly s (endSync k b s) := by
  have hfailed := ((samePorts_failBoard b s .timeout).trans (onlyRun_updPart k
    (fun p => { p with sticky := p.sticky.addCause .timeout }) _).samePorts).workOnly
  unfold endSync
  dsimp only
  split
  · split
    · exact hfailed.trans (workOnly_dropClaimed k b _ _)
    · exact hfailed.trans (workOnly_noteResetFailed k b _)
  · exact .refl s

theorem workOnly_muteOnFault (k : Slot) (s : State) : WorkOnly s (muteOnFault k s) :=
  (forBoards_keeps (P := WorkOnly s) (fun b t h => h.trans (workOnly_endSync k b t)) _ s (.refl s)).trans
    (samePorts_muteBoards k _).workOnly

theorem workOnly_faultInRun (k : Slot) (b : Board) (cause : FaultCause) (s : State) :
    WorkOnly s (faultInRun k b cause s) := by
  unfold faultInRun
  refine WorkOnly.trans ?_ (workOnly_muteOnFault k _)
  refine WorkOnly.trans ?_ ((onlyRun_offerStop k _).trans (onlyRun_offerGroupStop k _)).workOnly
  exact ((onlyRun_updPart k _ s).samePorts.trans (samePorts_enterFaulted k _ cause)).workOnly

theorem workOnly_faultInStopped (k : Slot) (b : Board) (cause : FaultCause) (s : State) :
    WorkOnly s (faultInStopped k b cause s) := by
  have hentered := (samePorts_enterFaulted k (noteResetFailed k b s) cause).trans (samePorts_offerLink k b _ (.fault cause))
  exact (workOnly_noteResetFailed k b s).trans
    ((hentered.trans (onlyRun_offerGroupStop k _).samePorts).workOnly.trans (workOnly_muteOnFault k _))

theorem workOnly_boardFault (b : Board) (cause : FaultCause) (s : State) : WorkOnly s (boardFault b cause s) := by
  refine (samePorts_failBoard b s cause).workOnly.trans ?_
  unfold boardFault
  dsimp only
  split
  · exact .refl _
  · split
    iterate 3 exact workOnly_faultInRun _ b cause _
    · split
      · exact workOnly_dropClaimed _ b cause _
      · exact workOnly_faultInStopped _ b cause _
    · split
      · exact .refl _
      · exact (onlyRun_updPart _ _ _).workOnly
    · exact .refl _

theorem workOnly_outOfSequence (b : Board) (s : State) : WorkOnly s (outOfSequence b s) := by
  unfold outOfSequence
  split
  · exact .refl s
  · exact workOnly_boardFault b .sequence s

/-! ## Frames received -/

/-- A frame ignored in the discarded range, or out of sequence (R121, R140). -/
theorem workOnly_notTaken (b : Board) (c : Bool) (s : State) :
    WorkOnly s (if c = true then ignoreFrame b s else outOfSequence b s) := by
  split
  · exact (onlyRun_updLink b _ s).workOnly
  · exact workOnly_outOfSequence b s

theorem workOnly_judgeArmAck (b : Board) (tag : Tag) (s : State) : WorkOnly s (judgeArmAck b tag s) := by
  unfold judgeArmAck
  dsimp only
  split
  · split
    · exact ((onlyRun_updLink b _ s).trans (onlyRun_ackInPipe b _ _)).workOnly
    · exact workOnly_notTaken b _ s
  · exact workOnly_notTaken b _ s

theorem workOnly_judgeArmNak (b : Board) (tag : Tag) (s : State) : WorkOnly s (judgeArmNak b tag s) := by
  unfold judgeArmNak
  dsimp only
  split
  · exact (onlyRun_updLink b _ s).workOnly
  · split
    · split
      · split
        · exact (onlyRun_updLink b _ s).workOnly.trans (workOnly_boardFault b .retries _)
        · exact ((onlyRun_updLink b _ s).trans (onlyRun_updLink b _ _)).workOnly
      · exact workOnly_outOfSequence b s
    · exact workOnly_outOfSequence b s

theorem workOnly_judgeDone (b : Board) (tag : Tag) (trigger : Option TriggerId) (stamp : Option (BitVec 32))
    (s : State) : WorkOnly s (judgeDone b tag trigger stamp s) := by
  unfold judgeDone
  dsimp only
  split
  · split
    · exact ((onlyRun_updLink b _ s).trans ((onlyRun_doneInPipe b _ _ _).trans (onlyRun_advanceOwner b _))).workOnly
    · exact workOnly_notTaken b _ s
  · exact workOnly_notTaken b _ s

theorem workOnly_judgeFlushAck (b : Board) (tag : Tag) (s : State) : WorkOnly s (judgeFlushAck b tag s) := by
  unfold judgeFlushAck
  split
  · exact ((onlyRun_updLink b _ s).trans (onlyRun_advanceOwner b _)).workOnly
  · exact workOnly_outOfSequence b s

/-- Steps 5 and 6 of a reconciliation: a fault beyond the retry limit, and otherwise no work of a port (R146). -/
theorem workOnly_finishStatus (b : Board) (progress : Bool) (s : State) : WorkOnly s (finishStatus b progress s) := by
  unfold finishStatus
  lift_lets
  extract_lets n a unsent reported
  have hunsent : OnlyRun s unsent := by
    unfold unsent
    split
    · exact .refl s
    · exact onlyRun_updLink b _ s
  have hreported : OnlyRun unsent reported := by
    unfold reported
    split
    · exact onlyRun_offerRecord _ _ _
    · exact .refl _
  split
  · exact hunsent.workOnly.trans (workOnly_boardFault b .retries _)
  · exact (hunsent.trans (hreported.trans ((onlyRun_updLink b _ _).trans (onlyRun_advanceOwner b _)))).workOnly

theorem workOnly_reconcile (b : Board) (armed acks dones : Nat) (trigger : Option (Tag × TriggerId)) (s : State) :
    WorkOnly s (reconcile b armed acks dones trigger s) :=
  ((onlyRun_updLink b _ s).trans ((onlyRun_statusAcks b acks _).trans ((onlyRun_statusDones b trigger dones _).trans
    (onlyRun_updLink b _ _)))).workOnly.trans (workOnly_finishStatus b _ _)

theorem workOnly_judgeStatus (b : Board) (armed finished : Tag) (trigger : Option (Tag × TriggerId)) (s : State) :
    WorkOnly s (judgeStatus b armed finished trigger s) := by
  unfold judgeStatus
  dsimp only
  split
  · split
    · split
      · exact workOnly_reconcile b _ _ _ trigger s
      · exact workOnly_boardFault b .sequence s
    · exact workOnly_boardFault b .sequence s
  · exact .refl s

theorem workOnly_judgeSyncAck (b : Board) (tag : Tag) (s : State) : WorkOnly s (judgeSyncAck b tag s) := by
  unfold judgeSyncAck
  split
  · exact (samePorts_updBoardLink b s _ _).workOnly
  · exact workOnly_boardFault b .sequence s

theorem workOnly_takeProbeReply (b : Board) (id : BitVec 16) (depth : Byte) (s : State) :
    WorkOnly s (takeProbeReply b id depth s) := by
  unfold takeProbeReply
  dsimp only
  split
  · exact ((samePorts_updBoardLink b s _ _).trans (samePorts_updBoard b _ _)).workOnly.trans
      (workOnly_noteProbe b true _)
  · exact ((samePorts_updBoardLink b s _ _).trans (samePorts_syncBoard b _ _ _)).workOnly.trans
      (workOnly_noteReplied _ b _)

theorem workOnly_judgeBound (b : Board) (s : State) : ∀ f : UpFrame, WorkOnly s (judgeBound b f s)
  | .armAck tag => workOnly_judgeArmAck b tag s
  | .armNak tag _ => workOnly_judgeArmNak b tag s
  | .done tag trigger stamp => workOnly_judgeDone b tag trigger stamp s
  | .flushAck tag => workOnly_judgeFlushAck b tag s
  | .syncAck _ => workOnly_outOfSequence b s
  | .status armed finished trigger => workOnly_judgeStatus b armed finished trigger s
  | .probeReply _ _ => .refl s

theorem workOnly_judgeFrame (b : Board) (f : UpFrame) (s : State) : WorkOnly s (judgeFrame b f s) := by
  unfold judgeFrame
  split
  · exact .refl s
  · split
    · exact workOnly_takeProbeReply b _ _ s
    · exact .refl s
    · exact workOnly_judgeSyncAck b _ s
    · exact .refl s
    · exact workOnly_judgeBound b s _
    all_goals exact .refl s

theorem samePorts_receiveError (b : Board) (e : RxError) (s : State) : SamePorts s (receiveError b e s) := by
  unfold receiveError
  dsimp only
  split
  · exact .refl s
  · split
    · exact .refl s
    · split <;> exact .refl s

theorem workOnly_handleRx (b : Board) : ∀ (events : List RxEvent) (s : State), WorkOnly s (handleRx b events s)
  | [], s => .refl s
  | .error e :: rest, s => (samePorts_receiveError b e s).workOnly.trans (workOnly_handleRx b rest _)
  | .frame bytes :: rest, s => by
    refine WorkOnly.trans ?_ (workOnly_handleRx b rest _)
    split
    · exact workOnly_judgeFrame b _ s
    · exact .refl s

theorem workOnly_receiveChars (b : Board) : ∀ (chars : List LineChar) (s : State), WorkOnly s (receiveChars b chars s)
  | [], s => .refl s
  | _ :: cs, s =>
    (onlyRun_updLink b _ s).workOnly.trans ((workOnly_handleRx b _ _).trans (workOnly_receiveChars b cs _))

theorem workOnly_receiveSamples (b : Board) (samples : List Bool) (s : State) :
    WorkOnly s (receiveSamples b samples s) :=
  (onlyRun_updLink b _ s).workOnly.trans (workOnly_receiveChars b _ _)

theorem workOnly_receiveFrame (b : Board) (f : UpFrame) (s : State) : WorkOnly s (receiveFrame b f s) := by
  unfold receiveFrame
  refine WorkOnly.trans ?_ ((onlyRun_updLink b _ _).workOnly.trans (workOnly_judgeFrame b f _))
  split
  · exact (samePorts_receiveError b .length s).workOnly
  all_goals exact .refl s

theorem workOnly_expire (b : Board) (s : State) : WorkOnly s (expire b s) := by
  unfold expire
  split
  · split
    · exact (samePorts_updBoardLink b s _ _).workOnly.trans (workOnly_noteProbe b false _)
    · exact workOnly_boardFault b .timeout s
  · exact workOnly_boardFault b .timeout s
  · split
    · exact workOnly_boardFault b .timeout s
    · exact (onlyRun_updLink b _ s).workOnly
  all_goals exact (onlyRun_updLink b _ s).workOnly

/-! ## Ends of exchanges -/

theorem samePorts_reportFailed (k : Slot) (b : Board) (s : State) : SamePorts s (reportFailed k b s) := by
  unfold reportFailed
  split <;> exact .refl s

section
variable {s t : State} {k : Slot} (hb : (s.port k).Busy)
include hb

theorem SamePorts.endTimeReset (h : SamePorts s t) (failed : BoardMask) : WorkOnly s (endTimeReset k failed t) :=
  (h.trans (onlyRun_updPart k _ t).samePorts).respond hb _ _ _

theorem SamePorts.endRecover (h : SamePorts s t) (replied : BoardMask) : WorkOnly s (endRecover k replied t) := by
  have hnoted := h.trans ((samePorts_recompute k t).trans
    (onlyRun_updPart k (fun p => { p with syncPending := false }) _).samePorts)
  unfold Machine.endRecover
  dsimp only
  refine SamePorts.respond hb ?_ _ _ _
  split
  · exact hnoted.trans ((onlyRun_updPart k _ _).trans (onlyRun_restLinks k _)).samePorts
  · exact hnoted.trans ((samePorts_forBoards (samePorts_reportFailed k) _ _).trans (samePorts_muteBoards k _))

end

/-- An exchange whose condition holds is answered (R190). -/
theorem workOnly_settlePort (k : Slot) (s : State) : WorkOnly s (settlePort k s) := by
  unfold settlePort
  split
  · rename_i hwork
    split
    · exact (onlyRun_updPart k _ s).samePorts.respond ⟨_, hwork, nofun⟩ _ _ _
    · exact .refl s
  · rename_i hwork
    split
    · exact (SamePorts.refl s).endTimeReset ⟨_, hwork, nofun⟩ _
    · exact .refl s
  · rename_i hwork
    split
    · exact (SamePorts.refl s).endRecover ⟨_, hwork, nofun⟩ _
    · exact .refl s
  · rename_i hwork
    split
    · exact workOnly_respond ⟨_, hwork, nofun⟩ _ _ _
    · exact .refl s
  all_goals exact .refl s

theorem workOnly_settle (s : State) : WorkOnly s (settle s) :=
  (workOnly_settlePort 0 s).trans ((workOnly_settlePort 1 _).trans ((workOnly_settlePort 2 _).trans
    ((workOnly_settlePort 3 _).trans ((samePorts_settleStartUp _).trans (samePorts_engineSelect _)).workOnly)))

theorem workOnly_expireResponse (b : Board) (s : State) : WorkOnly s (expireResponse b s) := by
  unfold expireResponse
  split
  · exact (workOnly_expire b s).trans (workOnly_settle _)
  all_goals exact .refl s

end Sys2Proof.Machine
end

section
/-! SUPPORT. The ports through transactions, request frames, the store operations and every command; then the statement about
every step. -/

namespace Sys2Proof.Machine

/-! ## Transactions -/

section
variable {p : Port} (h : p.Sound)
include h

/-- A transaction other than a WRITE_REQUEST taken begins, goes on or ends, and the state and the request stay. -/
theorem Port.Sound.transaction {q : Port} (hp : p.transaction ≠ .writing) (hwriting : q.transaction ≠ .writing)
    (hreading : q.transaction ≠ .reading) (hstate : q.state = p.state) (hwork : q.work = p.work)
    (hrequest : q.request = p.request) : q.Sound where
  worked := by
    rw [hstate, hwork]
    exact h.worked
  writing := by
    rw [hstate]
    exact ⟨fun hq => absurd hq hwriting, fun hq => absurd (h.writing.2 hq) hp⟩
  reading hq := absurd hq hreading
  kept := by
    rw [hrequest]
    exact h.kept

/-- A port outside PROCESSING works no request (R189). -/
theorem Port.Sound.work_eq_none (hstate : p.state ≠ .processing) : p.work = none :=
  Option.not_isSome_iff_eq_none.1 fun hwork => hstate (h.worked.1 hwork)

/-- A port that leaves PROCESSING aside, and any WRITE_REQUEST or READ_RESPONSE with it, is sound (R184). -/
theorem Port.Sound.idle {q : Port} (hp : p.state ≠ .processing) (hwork : q.work = p.work) (hstate : q.state = .idle)
    (hwriting : q.transaction ≠ .writing) (hreading : q.transaction ≠ .reading)
    (hkept : q.request.length ≤ Config.requestBytes) : q.Sound where
  worked := by
    rw [hwork, h.work_eq_none hp, hstate]
    exact ⟨nofun, nofun⟩
  writing := by
    rw [hstate]
    exact ⟨fun hq => absurd hq hwriting, nofun⟩
  reading hq := absurd hq hreading
  kept := hkept

theorem Port.Sound.write (bits : List Bool) : (p.write bits).Sound := by
  unfold Port.write
  split
  · rename_i hstate
    exact {
      worked := by
        rw [h.work_eq_none (by rw [hstate]; nofun)]
        exact ⟨nofun, nofun⟩
      writing := ⟨fun _ => rfl, fun _ => rfl⟩
      reading := nofun
      kept := List.length_take_le _ _ }
  · exact h.transaction (by simp [*]) nofun nofun rfl rfl rfl
  · exact h.transaction (by simp [*]) nofun nofun rfl rfl rfl
  · exact h

theorem Port.Sound.read (n : Nat) : (p.read n).Sound := by
  unfold Port.read
  split
  · rename_i ht hstate
    exact {
      worked := h.worked
      writing := ⟨nofun, fun hreceiving => nomatch hstate.symm.trans hreceiving⟩
      reading := fun _ => hstate
      kept := h.kept }
  iterate 3 exact h.transaction (by simp [*]) nofun nofun rfl rfl rfl
  · exact h

theorem Port.Sound.readStatus (attention : Bool) (n : Nat) : (p.readStatus attention n).Sound := by
  unfold Port.readStatus
  split
  · exact h.transaction (by simp [*]) nofun nofun rfl rfl rfl
  · exact h

theorem Port.Sound.unknown (n : Nat) : (p.unknown n).Sound := by
  unfold Port.unknown
  split
  · exact h.transaction (by simp [*]) nofun nofun rfl rfl rfl
  · exact h

theorem Port.Sound.fall : p.fall.Sound := by
  unfold Port.fall
  split
  · exact h.transaction (by simp [*]) nofun nofun rfl rfl rfl
  · exact h

theorem Port.Sound.fallHeld : p.fallHeld.Sound := by
  unfold Port.fallHeld
  split
  · exact h.transaction (by simp [*]) nofun nofun rfl rfl rfl
  · exact h

/-- The end of a READ_RESPONSE releases the response or keeps it (R192). -/
theorem Port.Sound.endRead {t : Transaction} (hp : p.transaction = .reading) (hwriting : t ≠ .writing)
    (hreading : t ≠ .reading) : Port.Sound { p.endRead with transaction := t, inactivity := false } := by
  have hready : p.state = .responseReady := h.reading hp
  unfold Port.endRead
  split
  · exact h.idle (by rw [hready]; nofun) rfl rfl hwriting hreading h.kept
  · exact h.transaction (by rw [hp]; nofun) hwriting hreading rfl rfl rfl

theorem Port.Sound.rise : p.rise.Sound := by
  by_cases hnone : p.transaction = .none
  · rw [Port.rise, hnone]
    exact h
  · by_cases hwriting : p.transaction = .writing
    · rw [Port.rise, hwriting]
      exact h
    · by_cases hreading : p.transaction = .reading
      · rw [Port.rise_reading hreading]
        exact h.endRead hreading nofun nofun
      · rw [Port.rise_other hnone hwriting hreading]
        exact h.transaction hwriting nofun nofun rfl rfl rfl

theorem Port.Sound.expire : p.expire.Sound := by
  by_cases hrunning : p.inactivity = true
  · by_cases hwriting : p.transaction = .writing
    · rw [Port.expire_writing hrunning hwriting]
      exact h.idle (by rw [h.writing.1 hwriting]; nofun) rfl rfl nofun nofun (Nat.zero_le _)
    · by_cases hreading : p.transaction = .reading
      · rw [Port.expire_reading hrunning hreading]
        exact h.endRead hreading nofun nofun
      · rw [Port.expire_other hrunning hwriting hreading]
        exact h.transaction hwriting nofun nofun rfl rfl rfl
  · rw [Port.expire, if_neg hrunning]
    exact h

end

section
variable (p : Port)

theorem Port.write_work (bits : List Bool) : (p.write bits).work = p.work := by
  unfold Port.write
  split <;> rfl

theorem Port.read_work (n : Nat) : (p.read n).work = p.work := by
  unfold Port.read
  split <;> rfl

theorem Port.readStatus_work (attention : Bool) (n : Nat) : (p.readStatus attention n).work = p.work := by
  unfold Port.readStatus
  split <;> rfl

theorem Port.unknown_work (n : Nat) : (p.unknown n).work = p.work := by
  unfold Port.unknown
  split <;> rfl

theorem Port.fall_work : p.fall.work = p.work := by
  unfold Port.fall
  split <;> rfl

theorem Port.fallHeld_work : p.fallHeld.work = p.work := by
  unfold Port.fallHeld
  split <;> rfl

theorem Port.endRead_work : p.endRead.work = p.work := by
  unfold Port.endRead
  split <;> rfl

theorem Port.rise_work : p.rise.work = p.work := by
  unfold Port.rise
  split
  · rfl
  · rfl
  · exact p.endRead_work
  all_goals rfl

theorem Port.expire_work : p.expire.work = p.work := by
  unfold Port.expire
  dsimp only
  split
  · split
    · rfl
    · exact p.endRead_work
    all_goals rfl
  · rfl

/-- After device reset a port is IDLE, and no transaction is in progress (R184, R201). -/
theorem Port.sound_afterReset : p.afterReset.Sound := by
  have ht : p.afterReset.transaction = .none ∨ p.afterReset.transaction = .ignored := by
    unfold Port.afterReset
    dsimp only
    split
    · exact .inl rfl
    · exact .inr rfl
  exact {
    worked := ⟨nofun, nofun⟩
    writing := ⟨fun h => by simp [h] at ht, nofun⟩
    reading := fun h => by simp [h] at ht
    kept := Nat.zero_le _ }

end

namespace PortsSound

variable {s : State} {k : Slot}

theorem setPort {p : Port} (h : PortsSound s) (hp : p.Sound)
    (hstoring : (s.port k).work = some .storing → p.work = some .storing) : PortsSound (s.setPort k p) where
  sound j := by
    by_cases hj : j = k
    · rw [hj, State.setPort_port_self]
      exact hp
    · rw [State.setPort_port_ne _ _ _ _ hj]
      exact h.sound j
  storing op hop := by
    have hwork := h.storing op hop
    by_cases hj : op.port = k
    · rw [hj, State.setPort_port_self]
      exact hstoring (hj ▸ hwork)
    · rw [State.setPort_port_ne _ _ _ _ hj]
      exact hwork

/-- A port changed, its work left as it was. -/
theorem updPort {f : Port → Port} (h : PortsSound s) (hsound : (s.port k).Sound → (f (s.port k)).Sound)
    (hwork : (f (s.port k)).work = (s.port k).work) : PortsSound (s.updPort k f) :=
  h.setPort (hsound (h.sound k)) hwork.trans

theorem transact (h : PortsSound s) (b : Byte) (dataIn : List Bool) : PortsSound (transact k b dataIn s) := by
  unfold Machine.transact
  split
  · exact h.updPort (fun hp => hp.write dataIn) (Port.write_work _ _)
  · exact h.updPort (fun hp => hp.read _) (Port.read_work _ _)
  · exact h.updPort (fun hp => hp.readStatus _ _) (Port.readStatus_work _ _ _)
  · exact h.updPort (fun hp => hp.unknown _) (Port.unknown_work _ _)

/-- A select line that falls begins a transaction, or is ignored while held in reset (R183, R201). -/
theorem selectFall (h : PortsSound s) :
    PortsSound (s.updPort k (if s.resetHeld then Port.fallHeld else Port.fall)) := by
  split
  · exact h.updPort Port.Sound.fallHeld (Port.fallHeld_work _)
  · exact h.updPort Port.Sound.fall (Port.fall_work _)

theorem afterReset (held : Bool) (s : State) : PortsSound (afterReset held s) where
  sound k := by
    have hport : (Machine.afterReset held s).port k = ((abandonWrite s).port k).afterReset := by
      simp [Machine.afterReset, State.port]
    rw [hport]
    exact Port.sound_afterReset _
  storing := nofun

end PortsSound

/-! ## Request frames -/

/-- A request frame is refused at once, or its request waits in PROCESSING (R186 to R189). -/
theorem endRequestFrame_cases {k : Slot} {s : State} (h : (s.port k).transaction = .writing) :
    (∃ st, endRequestFrame k s = refuse k st (s.setPort k (s.port k).received))
      ∨ endRequestFrame k s = s.setPort k (s.port k).handedOver := by
  rw [endRequestFrame_writing h]
  cases hgood : malformed (s.port k).request (s.port k).overlong with
  | true => exact .inl ⟨_, judgeRequest_malformed hgood⟩
  | false =>
    by_cases hready : s.loader.phase = .ready
    · cases hcode : knownCode (byteAt (s.port k).request 0) with
      | false => exact .inl ⟨_, judgeRequest_unknown hgood hready hcode⟩
      | true =>
        cases hdecode : decodeRequest (s.port k).request with
        | none => exact .inl ⟨_, judgeRequest_missing hgood hready hcode hdecode⟩
        | some r =>
          rw [judgeRequest_decoded hgood hready hcode hdecode]
          by_cases hother : ∃ enable operation, r = .setHashOther enable operation
          · obtain ⟨enable, operation, rfl⟩ := hother
            exact .inl ⟨_, handOver_setHashOther enable operation⟩
          · exact .inr (handOver_waits fun enable operation hr => hother ⟨enable, operation, hr⟩)
    · exact .inl ⟨_, judgeRequest_starting hgood hready⟩

theorem PortsSound.endRequestFrame {s : State} (h : PortsSound s) (k : Slot) : PortsSound (endRequestFrame k s) := by
  by_cases hwriting : (s.port k).transaction = .writing
  · have hreceiving : (s.port k).state = .receiving := (h.sound k).writing.1 hwriting
    have hwork : (s.port k).work = none := (h.sound k).work_eq_none (by rw [hreceiving]; nofun)
    have hstoring {q : Port} : (s.port k).work = some .storing → q.work = some .storing := fun hs =>
      nomatch hwork.symm.trans hs
    rcases endRequestFrame_cases hwriting with ⟨st, heq⟩ | heq <;> rw [heq]
    · rw [refuse, respond_eq, State.setPort_setPort]
      exact h.setPort ⟨⟨nofun, nofun⟩, ⟨by rw [State.setPort_port_self]; nofun, nofun⟩,
        by rw [State.setPort_port_self]; nofun, Nat.zero_le _⟩ hstoring
    · exact h.setPort ⟨⟨fun _ => rfl, fun _ => rfl⟩, ⟨nofun, nofun⟩, nofun, (h.sound k).kept⟩ hstoring
  · unfold Machine.endRequestFrame
    split
    · exact absurd ‹_› hwriting
    · exact h

/-! ## The store operations -/

namespace PortsSound

variable {s : State} {k : Slot}

/-- A store operation begins at the port that works its request (R208). -/
theorem beginStoreOp (h : PortsSound s) (hb : (s.port k).Busy) {op : StoreOp} (hop : op.port = k) :
    PortsSound (beginStoreOp k op s) where
  sound j := by
    unfold Machine.beginStoreOp
    by_cases hj : j = k
    · rw [hj, State.updPort_eq, State.setPort_port_self]
      exact (h.sound k).withWork hb.isSome .storing
    · rw [State.updPort_eq, State.setPort_port_ne _ _ _ _ hj]
      exact h.sound j
  storing op' hop' := by
    obtain rfl : op = op' := Option.some.inj hop'
    rw [hop, Machine.beginStoreOp, State.updPort_eq, State.setPort_port_self]

theorem storeRequest (h : PortsSound s) (hb : (s.port k).Busy) (valid : Bool) {op : StoreOp} (hop : op.port = k) :
    PortsSound (storeRequest k valid op s) := by
  unfold Machine.storeRequest
  split
  · split
    · exact h.beginStoreOp hb hop
    · exact h.workOnly (workOnly_refuse hb _)
  · exact h.workOnly (workOnly_refuse hb _)

/-- The end of the store operation answers the port that it is done for (R209, R210). -/
theorem endStoreOp (h : PortsSound s) {op : StoreOp} (hop : s.loader.op = some op) (st : Status) (body : List Byte) :
    PortsSound (endStoreOp op.port st body s) where
  sound j := by
    by_cases hj : j = op.port
    · rw [hj, Machine.endStoreOp, respond_eq, State.setPort_port_self]
      exact (h.sound op.port).answered (by rw [h.storing op hop]; rfl) _
    · rw [Machine.endStoreOp, respond_port_ne _ _ hj]
      exact h.sound j
  storing := nofun

theorem completeRead (h : PortsSound s) : PortsSound (completeRead s) := by
  unfold Machine.completeRead
  split
  · rename_i hop
    exact h.endStoreOp hop _ _
  all_goals exact h

theorem completeWrite (h : PortsSound s) : PortsSound (completeWrite s) := by
  unfold Machine.completeWrite
  split
  · rename_i port address data hop
    have hwritten : PortsSound { s with store := writeCells address data s.store } := ⟨h.sound, h.storing⟩
    exact hwritten.endStoreOp hop _ _
  all_goals exact h

end PortsSound

theorem samePorts_endLoading (status : StoreStatus) (skipped : Nat) (defaults : Settings) (mask : BoardMask)
    (presets : List Preset) (s : State) : SamePorts s (endLoading status skipped defaults mask presets s) := by
  unfold endLoading
  refine SamePorts.trans ?_ ((samePorts_forBoards samePorts_breakBoard _ _).trans (samePorts_settleStartUp _))
  exact .refl s

theorem samePorts_loadRead (n : Nat) (s : State) : SamePorts s (loadRead n s) := by
  unfold loadRead
  split
  · unfold loadBytes
    dsimp only
    split
    · split_ifs
      · exact .refl s
      · exact .refl s
      · exact samePorts_endLoading _ _ _ _ _ s
    · split
      · exact samePorts_endLoading _ _ _ _ _ s
      · exact .refl s
  · exact .refl s

theorem PortsSound.failAccess {s : State} (h : PortsSound s) : PortsSound (failAccess s) := by
  unfold Machine.failAccess
  split
  · exact h.workOnly (samePorts_endLoading _ _ _ _ _ s).workOnly
  · split
    · rename_i hop
      exact h.endStoreOp hop _ _
    · rename_i port address data hop
      have hleft : PortsSound (leaveUnfinished address data s) := ⟨h.sound, h.storing⟩
      exact hleft.endStoreOp hop _ _
    · exact h

/-! ## The engine and run control -/

theorem onlyRun_appendStep (k : Slot) (n time : Nat) (changed level : ClockMask) (post : Snapshot) (s : State) :
    OnlyRun s (appendStep k n time changed level post s) := .trans (onlyRun_updPart k _ s) (onlyRun_mapLinks _ _)

theorem onlyRun_judgeResult (w : WorkItem) (s : State) : OnlyRun s (judgeResult w s) := by
  unfold judgeResult
  dsimp only
  split
  · split
    · split
      · exact (onlyRun_appendStep _ _ _ _ _ _ s).trans ((onlyRun_runLimitFinding _ _).trans (onlyRun_advance _ _))
      · exact .refl s
    all_goals exact (onlyRun_offerFinding _ _ _ s).trans (onlyRun_advance _ _)
  · exact .refl s

theorem samePorts_endComputation (s : State) : SamePorts s (endComputation s) := by
  unfold endComputation
  split
  · exact .refl s
  · refine SamePorts.trans ?_ ((onlyRun_judgeResult _ _).samePorts.trans (samePorts_engineSelect _))
    exact .refl s

theorem samePorts_nextGroupStop (k : Slot) (s : State) : SamePorts s (nextGroupStop k s) := by
  unfold nextGroupStop
  split
  · exact .refl s
  · exact ((onlyRun_updPart k _ s).trans (onlyRun_takeGroupStop k _)).samePorts.trans (samePorts_engineSelect _)

theorem samePorts_expireGap (k : Slot) (s : State) : SamePorts s (expireGap k s) := by
  unfold expireGap
  split
  · exact .refl s
  · exact ((onlyRun_updPart k _ s).trans (onlyRun_advance k _)).samePorts.trans (samePorts_engineSelect _)

/-! ## Clocks and presets -/

section
variable (k : Slot) (s : State)

theorem samePorts_updFired (f : Snapshot → Snapshot) : SamePorts s (s.updFired k f) := .refl s
theorem samePorts_resetTime : SamePorts s (resetTime k s) := .refl s
theorem samePorts_placeClock (n : LocalNo) (d : Definition) (i : Fin 48) : SamePorts s (placeClock k n d i s) := .refl s
theorem samePorts_updFilter (f : Filter → Filter) : SamePorts s (s.updFilter k f) := .refl s

theorem samePorts_removeClock (n : LocalNo) : SamePorts s (removeClock k n s) := by
  unfold removeClock
  split <;> exact .refl s

theorem samePorts_applyPreset (p : Preset) : SamePorts s (applyPreset k p s).1 := by
  unfold applyPreset
  dsimp only
  split
  · exact .refl s
  · split
    · split <;> exact .refl s
    · exact .refl s

theorem samePorts_closePartition : SamePorts s (closePartition k s) := by
  refine ⟨?_, congrArg Loader.op (closePartition_loader k s)⟩
  simp [closePartition, recompute_eq, releaseSet_eq, voidWork]

theorem samePorts_releaseSet (set : BoardMask) : SamePorts s (releaseSet set s) := by
  rw [releaseSet_eq]
  exact samePorts_changeBoards _ _ _ _

end

section
variable {s t : State} {k : Slot} (hb : (s.port k).Busy)
include hb

/-- An OPEN goes on with its next preset, or is answered (R58, R59). -/
theorem SamePorts.continueOpen (h : SamePorts s t) (todo : List Preset) (applied notEnabled skipped : Nat)
    (clamped : List Preset) : WorkOnly s (continueOpen k todo applied notEnabled skipped clamped t) := by
  unfold Machine.continueOpen
  split
  · refine SamePorts.respond hb ?_ _ _ _
    exact ⟨h.1, h.2⟩
  · exact h.works hb nofun

theorem workOnly_whenOpen {f : State → State} (hf : WorkOnly s (f s)) : WorkOnly s (whenOpen k f s) := by
  unfold whenOpen
  split
  · exact workOnly_refuse hb _
  · exact hf

theorem workOnly_whenStopped {f : State → State} (hf : WorkOnly s (f s)) : WorkOnly s (whenStopped k f s) := by
  rcases whenStopped_cases k f s with heq | heq | ⟨_, heq⟩ <;> rw [heq]
  · exact workOnly_refuse hb _
  · exact workOnly_refuse hb _
  · exact hf

theorem workOnly_withClock {f : LocalNo → ClockEntry → State → State} (localNo : Byte)
    (hf : ∀ n e, WorkOnly s (f n e s)) : WorkOnly s (withClock k localNo f s) := by
  unfold withClock
  split
  · exact workOnly_refuse hb _
  · split
    · exact workOnly_refuse hb _
    · exact hf _ _

/-- A clock that is refused in some state, and otherwise changed (R20, R22 to R24). -/
theorem workOnly_refuse_or_setClock {c : Prop} [Decidable c] (st : Status) (n : LocalNo) (f : ClockEntry → ClockEntry) :
    WorkOnly s (if c then refuse k st s else setClock k n f s) := by
  split
  · exact workOnly_refuse hb st
  · exact (samePorts_updFired k s _).respond hb _ _ _

/-! ## Requests taken -/

theorem workOnly_defineClock (n : LocalNo) (d : Definition) : WorkOnly s (defineClock k n d s) := by
  unfold defineClock
  split
  · exact workOnly_refuse hb _
  · exact (samePorts_placeClock k s n d _).respond hb _ _ _

theorem workOnly_takeClaim (set : BoardMask) : WorkOnly s (takeClaim k set s) := by
  by_cases hfresh : set &&& ~~~(s.ownedMask k) = 0
  · rw [takeClaim_owned hfresh]
    exact workOnly_respond hb _ _ _
  · rw [takeClaim_fresh hfresh]
    have hclaimed : SamePorts s (boardsClaimed k (set &&& ~~~(s.ownedMask k)) s) :=
      (samePorts_changeBoards s _ _ _).trans (onlyRun_setPart k _ _).samePorts
    have hwindows := hclaimed.trans (samePorts_recompute k _)
    rw [claimBegun, ← hwindows.port k]
    exact hwindows.works hb nofun

theorem workOnly_takeRelease (set : BoardMask) : WorkOnly s (takeRelease k set s) := by
  unfold takeRelease
  dsimp only
  split
  · exact workOnly_respond hb _ _ _
  · exact ((samePorts_releaseSet s set).trans (samePorts_recompute k _)).respond hb _ _ _

theorem workOnly_takeJoin (g : Group) : WorkOnly s (takeJoin k g s) := by
  unfold takeJoin
  dsimp only
  split
  · exact workOnly_refuse hb _
  · exact (onlyRun_updPart k _ s).samePorts.respond hb _ _ _

theorem workOnly_takeRun : WorkOnly s (takeRun k s) := by
  unfold takeRun
  refine WorkOnly.trans ?_ ((onlyRun_endAtStart k _).samePorts.trans (samePorts_engineSelect _)).workOnly
  exact (onlyRun_startRun k s).samePorts.respond hb _ _ _

theorem workOnly_takeGroupRun : WorkOnly s (takeGroupRun k s) := by
  unfold takeGroupRun
  have hended (t : State) := (samePorts_forSlots (fun j u => (onlyRun_endAtStart j u).samePorts) (s.members k) t).trans
    (samePorts_engineSelectFree _)
  refine WorkOnly.trans ?_ (hended _).workOnly
  exact (samePorts_forSlots (fun j t => (onlyRun_startRun j t).samePorts) _ s).respond hb _ _ _

theorem workOnly_takeResume : WorkOnly s (takeResume k s) := by
  unfold takeResume
  refine WorkOnly.trans ?_ ((onlyRun_advance k _).samePorts.trans (samePorts_engineSelect _)).workOnly
  exact (onlyRun_updPart k _ s).samePorts.respond hb _ _ _

theorem workOnly_takeStop : WorkOnly s (takeStop k s) := by
  unfold takeStop
  refine WorkOnly.trans ?_ (samePorts_engineSelect _).workOnly
  refine SamePorts.respond hb (OnlyRun.samePorts ?_) _ _ _
  exact (onlyRun_candidate k _ _ s).trans ((onlyRun_updPart k _ _).trans (onlyRun_advance k _))

theorem workOnly_takeRecover : WorkOnly s (takeRecover k s) := by
  have hpending := (onlyRun_updPart k (fun p => { p with syncPending := true }) s).samePorts
  unfold takeRecover
  dsimp only
  split
  · exact hpending.endRecover hb 0
  · exact (hpending.trans (samePorts_forBoards samePorts_breakBoard _ _)).works hb nofun

theorem workOnly_takeHash (enable : Byte) (change : BitVec 64 → BitVec 64) : WorkOnly s (takeHash k enable change s) :=
  (samePorts_updFilter k s _).respond hb _ _ _

theorem workOnly_takeEvents (count : Byte) : WorkOnly s (takeEvents k count s) :=
  (onlyRun_updPart k _ s).samePorts.respond hb _ _ _

end

/-- A preset applied is work of its port that goes on or is answered (R58, R59). -/
theorem workOnly_openNext (k : Slot) (s : State) : WorkOnly s (openNext k s) := by
  unfold openNext
  split
  · rename_i hwork
    dsimp only
    split <;> exact (samePorts_applyPreset k s _).continueOpen ⟨_, hwork, nofun⟩ _ _ _ _ _
  · exact .refl s

/-! ## The commands -/

/-- A request that waits is work of its port (R189). -/
theorem busy_of_waits {s : State} {k : Slot} {r : Request} (h : Waits s k r) : (s.port k).Busy := by
  obtain ⟨-, hhanded⟩ := h
  unfold State.handed at hhanded
  split at hhanded
  · rename_i hport
    exact ⟨_, hport.2, nofun⟩
  · exact nomatch hhanded

theorem PortsSound.of_answers {s : State} {r : Result} (h : PortsSound s) (hr : Answers (WorkOnly s) r) :
    Answers PortsSound r := fun t ht => h.workOnly (hr t ht)

section
variable {s : State} {k : Slot} {r : Request} {f : State → State}

theorem answers_take_busy {P : State → Prop} (h : P s) (hf : (s.port k).Busy → P (f s)) : Answers P (take k r f s) := by
  rcases take_cases k r f s with ⟨hwaits, heq⟩ | heq <;> rw [heq]
  · exact answers_next (hf (busy_of_waits hwaits))
  · exact answers_next h

theorem answers_act_workOnly (hf : WorkOnly s (f s)) : Answers (WorkOnly s) (act f s) := answers_act (.refl s) hf

/-- A request taken is work of its port (R189 to R191). -/
theorem answers_take_workOnly (hf : (s.port k).Busy → WorkOnly s (f s)) : Answers (WorkOnly s) (take k r f s) :=
  answers_take_busy (.refl s) hf

theorem answers_take_whenOpen (hf : (s.port k).Busy → WorkOnly s (f s)) :
    Answers (WorkOnly s) (take k r (whenOpen k f) s) :=
  answers_take_workOnly fun hb => workOnly_whenOpen hb (hf hb)

theorem answers_take_whenStopped (hf : (s.port k).Busy → WorkOnly s (f s)) :
    Answers (WorkOnly s) (take k r (whenStopped k f) s) :=
  answers_take_workOnly fun hb => workOnly_whenStopped hb (hf hb)

/-- A request that names a clock (R14). -/
theorem answers_take_clockRequest {localNo : Byte} {g : LocalNo → ClockEntry → State → State}
    (hg : (s.port k).Busy → ∀ n e, WorkOnly s (g n e s)) :
    Answers (WorkOnly s) (take k r (clockRequest k localNo g) s) :=
  answers_take_whenStopped fun hb => workOnly_withClock hb localNo (hg hb)

end

section
variable (k : Slot) (s : State)

/-! ### Partitions and boards -/

theorem workOnly_execOpenSlot : Answers (WorkOnly s) (execOpenSlot k s) := by
  unfold execOpenSlot
  refine answers_take_workOnly fun hb => ?_
  split
  · exact (onlyRun_setPart k _ s).samePorts.continueOpen hb _ _ _ _ _
  · exact workOnly_refuse hb _

theorem workOnly_execCloseSlot : Answers (WorkOnly s) (execCloseSlot k s) := by
  refine answers_take_whenOpen fun hb => ?_
  split
  · exact (samePorts_closePartition k s).respond hb _ _ _
  · exact workOnly_refuse hb _

theorem workOnly_execSetPartition (window horizon gap retry backoff timeout attention : Byte) :
    Answers (WorkOnly s) (execSetPartition k window horizon gap retry backoff timeout attention s) :=
  answers_take_whenStopped fun hb =>
    ((onlyRun_updPart k _ s).samePorts.trans (samePorts_recompute k _)).respond hb _ _ _

theorem workOnly_execClaimBoards (set : BoardMask) : Answers (WorkOnly s) (execClaimBoards k set s) := by
  refine answers_take_whenStopped fun hb => ?_
  split_ifs
  · exact workOnly_refuse hb _
  · exact workOnly_respond hb _ _ _
  · exact workOnly_respond hb _ _ _
  · exact workOnly_respond hb _ _ _
  · exact workOnly_takeClaim hb set

theorem workOnly_execReleaseBoards (set : BoardMask) : Answers (WorkOnly s) (execReleaseBoards k set s) := by
  refine answers_take_whenOpen fun hb => ?_
  split
  · exact workOnly_takeRelease hb set
  · exact workOnly_refuse hb _

theorem workOnly_execReprobe (set : BoardMask) : Answers (WorkOnly s) (execReprobe k set s) := by
  unfold execReprobe
  refine answers_take_workOnly fun hb => ?_
  split_ifs
  · exact workOnly_respond hb _ _ _
  · exact workOnly_respond hb _ _ _
  · exact workOnly_respond hb _ _ _
  · exact (samePorts_forBoards samePorts_breakBoard _ s).works hb nofun

theorem workOnly_execReadBoard (board : Byte) : Answers (WorkOnly s) (execReadBoard k board s) := by
  refine answers_take_whenOpen fun hb => ?_
  split
  · exact workOnly_respond hb _ _ _
  · exact workOnly_refuse hb _

theorem workOnly_execReadCabinet : Answers (WorkOnly s) (execReadCabinet k s) := by
  unfold execReadCabinet
  exact answers_take_workOnly fun hb => workOnly_respond hb .ok false (cabinetBody s)

theorem workOnly_execJoinGroup (group : Byte) : Answers (WorkOnly s) (execJoinGroup k group s) := by
  refine answers_take_whenStopped fun hb => ?_
  split
  · exact workOnly_takeJoin hb _
  · exact workOnly_refuse hb _

theorem workOnly_execLeaveGroup : Answers (WorkOnly s) (execLeaveGroup k s) :=
  answers_take_whenStopped fun hb => (onlyRun_updPart k _ s).samePorts.respond hb _ _ _

/-! ### Clocks -/

theorem workOnly_execDefineClock (localNo : Byte) (body : ClockBody) :
    Answers (WorkOnly s) (execDefineClock k localNo body s) := by
  refine answers_take_whenStopped fun hb => ?_
  split
  · exact workOnly_defineClock hb _ _
  · exact workOnly_refuse hb _

theorem workOnly_execDeleteClock (localNo : Byte) : Answers (WorkOnly s) (execDeleteClock k localNo s) := by
  refine answers_take_clockRequest fun hb n e => ?_
  split_ifs
  · exact workOnly_refuse hb _
  · exact workOnly_refuse hb _
  · exact (samePorts_removeClock k s n).respond hb _ _ _

theorem workOnly_execRetimeClock (localNo : Byte) (first second : BitVec 24) :
    Answers (WorkOnly s) (execRetimeClock k localNo first second s) := by
  refine answers_take_clockRequest fun hb n e => ?_
  dsimp only
  split
  · exact (samePorts_updFired k s _).respond hb _ _ _
  · exact workOnly_refuse hb _

theorem workOnly_execReadClock (localNo : Byte) : Answers (WorkOnly s) (execReadClock k localNo s) := by
  refine answers_take_whenOpen fun hb => workOnly_withClock hb _ fun n e => ?_
  split
  · exact workOnly_respond hb _ _ _
  · exact workOnly_refuse hb _

theorem workOnly_execTimeReset : Answers (WorkOnly s) (execTimeReset k s) := by
  refine answers_take_whenStopped fun hb => ?_
  dsimp only
  split
  · exact (samePorts_resetTime k s).endTimeReset hb 0
  · exact ((samePorts_resetTime k s).trans ((onlyRun_updPart k _ _).samePorts.trans
      (samePorts_forBoards (fun b t => samePorts_syncBoard b t 1 0) _ _))).works hb nofun

/-! ### Run control -/

theorem workOnly_execSetupRun (mode : Byte) (argument : BitVec 48) :
    Answers (WorkOnly s) (execSetupRun k mode argument s) := by
  refine answers_take_whenStopped fun hb => ?_
  split
  · exact workOnly_refuse hb _
  · exact (onlyRun_updPart k _ s).samePorts.respond hb _ _ _

theorem workOnly_execRun : Answers (WorkOnly s) (execRun k s) := by
  refine answers_take_whenStopped fun hb => ?_
  split
  · exact workOnly_refuse hb _
  · exact workOnly_takeRun hb

theorem workOnly_execGroupRun : Answers (WorkOnly s) (execGroupRun k s) := by
  refine answers_take_whenOpen fun hb => ?_
  split_ifs
  · exact workOnly_refuse hb _
  · exact workOnly_takeGroupRun hb
  · exact workOnly_respond hb _ _ _

theorem workOnly_execPause : Answers (WorkOnly s) (execPause k s) := by
  refine answers_take_whenOpen fun hb => ?_
  split
  · exact (onlyRun_updPart k _ s).samePorts.respond hb _ _ _
  all_goals exact workOnly_refuse hb _

theorem workOnly_execResume : Answers (WorkOnly s) (execResume k s) := by
  refine answers_take_whenOpen fun hb => ?_
  split
  · exact workOnly_takeResume hb
  · exact workOnly_refuse hb _

theorem workOnly_execStop : Answers (WorkOnly s) (execStop k s) := by
  refine answers_take_whenOpen fun hb => ?_
  split
  iterate 3 exact workOnly_takeStop hb
  · exact workOnly_respond hb _ _ _
  all_goals exact workOnly_refuse hb _

theorem workOnly_execRecover : Answers (WorkOnly s) (execRecover k s) := by
  refine answers_take_whenOpen fun hb => ?_
  split
  · exact workOnly_takeRecover hb
  · exact workOnly_refuse hb _

/-! ### The filter -/

theorem workOnly_execSetFilter (mode : Byte) (count : BitVec 16) (logUnmatched : Byte) :
    Answers (WorkOnly s) (execSetFilter k mode count logUnmatched s) := by
  refine answers_take_whenOpen fun hb => ?_
  split
  · exact workOnly_refuse hb _
  · exact (samePorts_updFilter k s _).respond hb _ _ _

theorem workOnly_execSetMatch (index : Byte) (id care : BitVec 16) (enable : Byte) :
    Answers (WorkOnly s) (execSetMatch k index id care enable s) := by
  refine answers_take_whenOpen fun hb => ?_
  split
  · exact (samePorts_updFilter k s _).respond hb _ _ _
  · exact workOnly_refuse hb _

theorem workOnly_execSetHashAddIds (enable count : Byte) (ids : List TriggerId) :
    Answers (WorkOnly s) (execSetHashAddIds k enable count ids s) := by
  refine answers_take_whenOpen fun hb => ?_
  split
  · exact workOnly_takeHash hb _ _
  · exact workOnly_refuse hb _

/-! ### The links -/

theorem workOnly_received (b : Board) (f : UpFrame) : Answers (WorkOnly s) (received b f s) :=
  answers_act_workOnly ((workOnly_receiveFrame b f s).trans (workOnly_settle _))

/-- A command that changes one link. -/
theorem workOnly_act_updLink (b : Board) (f : State → Link → Link) :
    Answers (WorkOnly s) (act (fun s => s.updLink b (f s)) s) :=
  answers_act_workOnly (onlyRun_updLink b (f s) s).workOnly

theorem workOnly_execStrobeFall : Answers (WorkOnly s) (execStrobeFall k s) :=
  answers_act_workOnly (f := fun s => s.mapLinks fun b l => if s.owns k b then { l with strobe := false } else l)
    (onlyRun_mapLinks _ s).workOnly

end

/-- An unknown transaction takes no byte of the three (R183, assumption 2). -/
theorem PortsSound.execUnknownTransaction {s : State} (h : PortsSound s) (k : Slot) (b : Byte) (dataIn : List Bool) :
    Answers PortsSound (execUnknownTransaction k b dataIn s) := by
  unfold Machine.execUnknownTransaction
  refine answers_act h ?_
  split
  · exact h
  · exact h.transact b dataIn

/-- Every command keeps the ports (R184 to R192, R208). -/
theorem exec_keeps_ports {s : State} (h : PortsSound s) (c : Instr) : Answers PortsSound (exec c s) := by
  cases c with
  | deviceReset => exact answers_next (.afterReset false s)
  | resetAsserted => exact answers_next (.afterReset true s)
  | storeAddressNak => exact answers_act h h.failAccess
  | storeAccessTimeout => exact answers_act h h.failAccess
  | storeRead k address length => exact answers_take_busy h fun hb => h.storeRequest hb _ rfl
  | storeReadComplete => exact answers_act h h.completeRead
  | storeWrite k address length data => exact answers_take_busy h fun hb => h.storeRequest hb _ rfl
  | storeWriteComplete => exact answers_act h h.completeWrite
  | selectFall k => exact answers_next h.selectFall
  | selectRise k => exact answers_next (h.updPort Port.Sound.rise (Port.rise_work _))
  | writeRequest k dataIn => exact answers_act h (h.transact _ dataIn)
  | requestFrameEnd k => exact answers_act h (h.endRequestFrame k)
  | readResponse k dataIn => exact answers_act h (h.transact _ dataIn)
  | readPortStatus k dataIn => exact answers_act h (h.transact _ dataIn)
  | unknownTransaction k b dataIn => exact h.execUnknownTransaction k b dataIn
  | inactivityTimeout k =>
    exact answers_act (f := fun s => s.updPort k Port.expire) h (h.updPort Port.Sound.expire (Port.expire_work _))
  | loadReadComplete n => exact h.of_answers (answers_act_workOnly (samePorts_loadRead n s).workOnly)
  | openSlot k => exact h.of_answers (workOnly_execOpenSlot k s)
  | presetApply k => exact h.of_answers (answers_act_workOnly (workOnly_openNext k s))
  | closeSlot k => exact h.of_answers (workOnly_execCloseSlot k s)
  | setPartition k window horizon gap retry backoff timeout attention =>
    exact h.of_answers (workOnly_execSetPartition k s _ _ _ _ _ _ _)
  | readPartition k => exact h.of_answers (answers_take_whenOpen fun hb => workOnly_respond hb _ _ _)
  | claimBoards k set => exact h.of_answers (workOnly_execClaimBoards k s set)
  | releaseBoards k set => exact h.of_answers (workOnly_execReleaseBoards k s set)
  | reprobe k set => exact h.of_answers (workOnly_execReprobe k s set)
  | readBoard k board => exact h.of_answers (workOnly_execReadBoard k s board)
  | readCabinet k => exact h.of_answers (workOnly_execReadCabinet k s)
  | joinGroup k group => exact h.of_answers (workOnly_execJoinGroup k s group)
  | leaveGroup k => exact h.of_answers (workOnly_execLeaveGroup k s)
  | defineClock k localNo body => exact h.of_answers (workOnly_execDefineClock k s localNo body)
  | deleteClock k localNo => exact h.of_answers (workOnly_execDeleteClock k s localNo)
  | enableClock k localNo =>
    exact h.of_answers (answers_take_clockRequest fun hb n e => workOnly_refuse_or_setClock hb _ n _)
  | disableClock k localNo =>
    exact h.of_answers (answers_take_clockRequest fun hb n e => workOnly_refuse_or_setClock hb _ n _)
  | gateClock k localNo =>
    exact h.of_answers (answers_take_clockRequest fun hb n e => workOnly_refuse_or_setClock hb _ n _)
  | ungateClock k localNo =>
    exact h.of_answers (answers_take_clockRequest fun hb n e => workOnly_refuse_or_setClock hb _ n _)
  | retimeClock k localNo first second => exact h.of_answers (workOnly_execRetimeClock k s localNo first second)
  | readClock k localNo => exact h.of_answers (workOnly_execReadClock k s localNo)
  | timeReset k => exact h.of_answers (workOnly_execTimeReset k s)
  | setupRun k mode argument => exact h.of_answers (workOnly_execSetupRun k s mode argument)
  | run k => exact h.of_answers (workOnly_execRun k s)
  | groupRun k => exact h.of_answers (workOnly_execGroupRun k s)
  | pause k => exact h.of_answers (workOnly_execPause k s)
  | resume k => exact h.of_answers (workOnly_execResume k s)
  | stop k => exact h.of_answers (workOnly_execStop k s)
  | recover k => exact h.of_answers (workOnly_execRecover k s)
  | clearErrors k =>
    exact h.of_answers (answers_take_whenStopped fun hb => (onlyRun_updPart k _ s).samePorts.respond hb _ _ _)
  | setFilter k mode count logUnmatched => exact h.of_answers (workOnly_execSetFilter k s mode count logUnmatched)
  | setMatch k index id care enable => exact h.of_answers (workOnly_execSetMatch k s index id care enable)
  | setHashKeep k enable => exact h.of_answers (answers_take_whenOpen fun hb => workOnly_takeHash hb _ _)
  | setHashReplace k enable table => exact h.of_answers (answers_take_whenOpen fun hb => workOnly_takeHash hb _ _)
  | setHashAddIds k enable count ids => exact h.of_answers (workOnly_execSetHashAddIds k s enable count ids)
  | setHashClear k enable => exact h.of_answers (answers_take_whenOpen fun hb => workOnly_takeHash hb _ _)
  | readEvents k count => exact h.of_answers (answers_take_whenOpen fun hb => workOnly_takeEvents hb count)
  | computationEnd => exact h.of_answers (answers_act_workOnly (samePorts_endComputation s).workOnly)
  | groupStopTaken k => exact h.of_answers (answers_act_workOnly (samePorts_nextGroupStop k s).workOnly)
  | settleGapExpiry k => exact h.of_answers (answers_act_workOnly (samePorts_expireGap k s).workOnly)
  | strobeFall k => exact h.of_answers (workOnly_execStrobeFall k s)
  | frameSend b =>
    exact h.of_answers (workOnly_act_updLink s b fun s =>
      Link.sendNext ((s.board b).link == .syncing) (s.responseNs b))
  | frameTransmissionEnd b => exact h.of_answers (workOnly_act_updLink s b fun _ => Link.endFrame)
  | breakEnd b => exact h.of_answers (workOnly_act_updLink s b fun _ => Link.endBreak)
  | breakRecoveryEnd b =>
    exact h.of_answers (workOnly_act_updLink s b fun s =>
      Link.endRecovery ((s.board b).link == .probing) (s.responseNs b))
  | backoffEnd b =>
    exact h.of_answers (workOnly_act_updLink s b fun s => Link.endBackoff (s.responseNs b) (s.pipeFor b))
  | responseTimeout b => exact h.of_answers (answers_act_workOnly (workOnly_expireResponse b s))
  | receiveError b samples =>
    exact h.of_answers (answers_act_workOnly (f := fun s => settle (receiveSamples b samples s))
      ((workOnly_receiveSamples b samples s).trans (workOnly_settle _)))
  | armAck b tag => exact h.of_answers (workOnly_received s b _)
  | armNak b tag cause => exact h.of_answers (workOnly_received s b _)
  | boardDone b tag trigger stamp => exact h.of_answers (workOnly_received s b _)
  | flushAck b tag => exact h.of_answers (workOnly_received s b _)
  | syncAck b tag => exact h.of_answers (workOnly_received s b _)
  | boardStatus b armed finished trigger => exact h.of_answers (workOnly_received s b _)
  | probeReply b id depth => exact h.of_answers (workOnly_received s b _)

/-- Settles O5: each port goes on with its work or answers it, through every command. -/
theorem stepKeepsPorts : Obligations.StepKeepsPorts := by
  intro s t h hstep
  rw [portInv_iff] at h ⊢
  exact answers_step (fun rest => ⟨h.sound, h.storing⟩) (fun c _ hs => exec_keeps_ports hs c) t hstep

end Sys2Proof.Machine
end

section
/-! SUPPORT. Request frames: the fields of a body are read back, and a frame is not malformed and gives its code and its body
(R186, R187, R211, R212); then the statement about them. -/

namespace Sys2Proof.Machine

/-! ## Fields read back -/

/-- A field that is wide enough for its value is read back (R211). -/
theorem ofNat_leNat_of_width {w width : Nat} (hwidth : 2 ^ w ≤ 256 ^ width) (x : BitVec w) :
    BitVec.ofNat w (leNat (leBytes width x.toNat)) = x := by
  have hvalue : leNat (leBytes width x.toNat) = x.toNat :=
    (leNat_leBytes width _).trans (Nat.mod_eq_of_lt (x.isLt.trans_le hwidth))
  rw [hvalue, BitVec.ofNat_toNat, BitVec.setWidth_eq]

/-- A field of 2 bytes is read back (R211). -/
theorem ofNat_leNat_two (x : BitVec 16) : BitVec.ofNat 16 (leNat (leBytes 2 x.toNat)) = x :=
  ofNat_leNat_of_width (by decide) x

/-- A field of 3 bytes is read back (R211). -/
theorem ofNat_leNat_three (x : BitVec 24) : BitVec.ofNat 24 (leNat (leBytes 3 x.toNat)) = x :=
  ofNat_leNat_of_width (by decide) x

theorem wordsOf_wordBytes : ∀ ws : List TriggerId, wordsOf (wordBytes ws) = ws
  | [] => rfl
  | w :: ws => congrArg₂ List.cons (ofNat_leNat_two w) (wordsOf_wordBytes ws)

theorem length_wordBytes : ∀ ws : List TriggerId, (wordBytes ws).length = 2 * ws.length
  | [] => rfl
  | w :: ws => by
    rw [wordBytes, List.length_append, length_wordBytes ws, List.length_cons, Nat.mul_succ, Nat.add_comm]
    rfl

theorem takeFields_of_le {body : List Byte} {width : Nat} (h : width ≤ body.length) (r : Request) :
    takeFields body width r = some r := if_pos h

/-! ## Bodies decoded -/

/-- A byte above a code is none of the codes up to it. -/
theorem byte_ne_of_lt {b : Byte} {n : Nat} (h : n < b.toNat) {m : Byte} (hm : m.toNat ≤ n) : b ≠ m := fun heq => by
  rw [heq] at h
  exact hm.not_gt h

/-- The kind and the parameters of a DEFINE_CLOCK are read back (R212). -/
theorem decodeClockBody_encode (localNo : Byte) : ∀ body : ClockBody,
    (Request.defineClock localNo body).wellFormed = true → decodeClockBody (localNo :: encodeClockBody body) = body
  | .periodic period high phase, _ =>
    congr (congrArg₂ ClockBody.periodic (ofNat_leNat_three period) (ofNat_leNat_three high)) (ofNat_leNat_three phase)
  | .divided parent divisor high, _ =>
    congrArg₂ (ClockBody.divided parent) (ofNat_leNat_two divisor) (ofNat_leNat_two high)
  | .unknownKind kind, h => by
    have hkind : 1 < kind.toNat := of_decide_eq_true h
    exact (if_neg (byte_ne_of_lt hkind (by decide))).trans (if_neg (byte_ne_of_lt hkind (by decide)))

/-- The IDs of an ADD_IDS are read back, as many as its count gives (R170, R187). -/
theorem decodeHash_addIds (enable count : Byte) (ids : List TriggerId)
    (h : (Request.setHashAddIds enable count ids).wellFormed = true) :
    decodeHash (Request.setHashAddIds enable count ids).body = some (.setHashAddIds enable count ids) := by
  have hids : ids.length = if 1 ≤ count.toNat ∧ count.toNat ≤ 8 then count.toNat else 0 := of_decide_eq_true h
  have hbody : (Request.setHashAddIds enable count ids).body
      = [enable, 2, count, 0, 0, 0, 0, 0, 0, 0, 0] ++ wordBytes ids := rfl
  have hdecode : decodeHash (Request.setHashAddIds enable count ids).body =
      if 1 ≤ count.toNat ∧ count.toNat ≤ 8 then
        takeFields (Request.setHashAddIds enable count ids).body (11 + 2 * count.toNat)
          (.setHashAddIds enable count (wordsOf ((wordBytes ids).take (2 * count.toNat))))
      else takeFields (Request.setHashAddIds enable count ids).body 11 (.setHashAddIds enable count []) := rfl
  have hlength : (Request.setHashAddIds enable count ids).body.length = 11 + 2 * ids.length := by
    rw [hbody, List.length_append, length_wordBytes]
    rfl
  rw [hdecode]
  split
  · rename_i hcount
    rw [if_pos hcount] at hids
    have hall : (wordBytes ids).take (2 * count.toNat) = wordBytes ids :=
      List.take_of_length_le (by rw [length_wordBytes, hids])
    rw [takeFields_of_le (by rw [hlength, hids]), hall, wordsOf_wordBytes]
  · rename_i hcount
    rw [if_neg hcount] at hids
    rw [takeFields_of_le (by omega), List.length_eq_zero_iff.1 hids]

/-- An operation that is none of the four is read back (R170). -/
theorem decodeHash_other (enable operation : Byte)
    (h : (Request.setHashOther enable operation).wellFormed = true) :
    decodeHash (Request.setHashOther enable operation).body = some (.setHashOther enable operation) := by
  have hoperation : 3 < operation.toNat := of_decide_eq_true h
  have hne (m : Byte) (hm : m.toNat ≤ 3) : operation ≠ m := byte_ne_of_lt hoperation hm
  have hdecode : decodeHash (Request.setHashOther enable operation).body =
      if operation = 0 then some (.setHashKeep enable)
      else if operation = 1 then some (.setHashReplace enable 0)
      else if operation = 2 then some (.setHashAddIds enable 0 [])
      else if operation = 3 then some (.setHashClear enable)
      else some (.setHashOther enable operation) := rfl
  rw [hdecode, if_neg (hne 0 (by decide)), if_neg (hne 1 (by decide)), if_neg (hne 2 (by decide)),
    if_neg (hne 3 (by decide))]

/-- The address, the length and the bytes of a STORE_WRITE are read back (R187, R208). -/
theorem decodeStoreWrite_body (address : BitVec 16) (length : Byte) (data : List Byte)
    (h : (Request.storeWrite address length data).wellFormed = true) :
    decodeStoreWrite (Request.storeWrite address length data).body = some (.storeWrite address length data) := by
  have hdata : data.length = if 1 ≤ length.toNat ∧ length.toNat ≤ 16 then length.toNat else 0 := of_decide_eq_true h
  have hdecode : decodeStoreWrite (Request.storeWrite address length data).body =
      if 1 ≤ length.toNat ∧ length.toNat ≤ 16 then
        takeFields (Request.storeWrite address length data).body (3 + length.toNat)
          (.storeWrite (BitVec.ofNat 16 (leNat (leBytes 2 address.toNat))) length (data.take length.toNat))
      else takeFields (Request.storeWrite address length data).body 3
        (.storeWrite (BitVec.ofNat 16 (leNat (leBytes 2 address.toNat))) length []) := rfl
  have hlength : (Request.storeWrite address length data).body.length = data.length + 3 := rfl
  rw [hdecode, ofNat_leNat_two]
  split
  · rename_i hrange
    rw [if_pos hrange] at hdata
    rw [takeFields_of_le (by omega), List.take_of_length_le hdata.le]
  · rename_i hrange
    rw [if_neg hrange] at hdata
    rw [takeFields_of_le (by omega), List.length_eq_zero_iff.1 hdata]

/-- The code and the body of a request give the request (R187, R212). -/
theorem decodeBody_body : ∀ r : Request, r.wellFormed = true → decodeBody r.code r.body = some r
  | .openSlot, _ | .closeSlot, _ | .readPartition, _ | .readCabinet, _ | .leaveGroup, _ | .timeReset, _ | .run, _
  | .groupRun, _ | .pause, _ | .resume, _ | .stop, _ | .recover, _ | .clearErrors, _ => rfl
  | .setPartition _ _ _ _ _ _ _, _ | .readBoard _, _ | .joinGroup _, _ | .deleteClock _, _ | .enableClock _, _
  | .disableClock _, _ | .gateClock _, _ | .ungateClock _, _ | .readClock _, _ | .readEvents _, _
  | .setHashKeep _, _ | .setHashClear _, _ => rfl
  | .claimBoards set, _ => congrArg (fun m => some (Request.claimBoards m)) (ofNat_leNat_three set)
  | .releaseBoards set, _ => congrArg (fun m => some (Request.releaseBoards m)) (ofNat_leNat_three set)
  | .reprobe set, _ => congrArg (fun m => some (Request.reprobe m)) (ofNat_leNat_three set)
  | .defineClock localNo body, h => by
    refine (takeFields_of_le ?_ _).trans (congrArg (fun c => some (Request.defineClock localNo c))
      (decodeClockBody_encode localNo body h))
    cases body <;> exact Nat.le_refl 11
  | .retimeClock localNo first second, _ =>
    congrArg₂ (fun x y => some (Request.retimeClock localNo x y)) (ofNat_leNat_three first) (ofNat_leNat_three second)
  | .setupRun mode argument, _ =>
    congrArg (fun x => some (Request.setupRun mode x)) (ofNat_leNat_of_width (width := 6) (by decide) argument)
  | .setFilter mode count logUnmatched, _ =>
    congrArg (fun x => some (Request.setFilter mode x logUnmatched)) (ofNat_leNat_two count)
  | .setMatch index id care enable, _ =>
    congrArg₂ (fun x y => some (Request.setMatch index x y enable)) (ofNat_leNat_two id) (ofNat_leNat_two care)
  | .setHashReplace enable table, _ =>
    congrArg (fun x => some (Request.setHashReplace enable x)) (ofNat_leNat_of_width (width := 8) (by decide) table)
  | .setHashAddIds enable count ids, h => decodeHash_addIds enable count ids h
  | .setHashOther enable operation, h => decodeHash_other enable operation h
  | .storeRead address length, _ =>
    congrArg (fun x => some (Request.storeRead x length)) (ofNat_leNat_two address)
  | .storeWrite address length data, h => decodeStoreWrite_body address length data h

/-! ## Frames -/

theorem knownCode_code (r : Request) : knownCode r.code = true := by cases r <;> rfl

/-- The body of a request fits a frame (R185, R186). -/
theorem Request.length_body_le {r : Request} (h : r.wellFormed = true) : r.body.length ≤ 60 := by
  cases r with
  | setHashAddIds enable count ids =>
    have hids : ids.length = if 1 ≤ count.toNat ∧ count.toNat ≤ 8 then count.toNat else 0 := of_decide_eq_true h
    have hlength : (Request.setHashAddIds enable count ids).body.length = (wordBytes ids).length + 11 := rfl
    rw [hlength, length_wordBytes]
    split at hids <;> omega
  | storeWrite address length data =>
    have hdata : data.length = if 1 ≤ length.toNat ∧ length.toNat ≤ 16 then length.toNat else 0 := of_decide_eq_true h
    have hlength : (Request.storeWrite address length data).body.length = data.length + 3 := rfl
    rw [hlength]
    split at hdata <;> omega
  | defineClock localNo body => cases body <;> exact Nat.le_of_ble_eq_true rfl
  | _ => exact Nat.le_of_ble_eq_true rfl

/-- A request frame is its code, its sequence tag, the length of its body, the body and the check byte (R212). -/
theorem requestFrame_eq (seqTag : Byte) (r : Request) : ∃ check, requestFrame seqTag r
    = [r.code, seqTag, BitVec.ofNat 8 r.body.length] ++ (r.body ++ [check]) := ⟨_, rfl⟩

/-- Settles O11: the length fits its byte, the sum is 0, and each field is read back at its offset. -/
theorem requestFrameRoundTrip : Obligations.RequestFrameRoundTrip := by
  intro r seqTag h
  have hbody : r.body.length ≤ 60 := r.length_body_le h
  have hlengthByte : (byteAt (requestFrame seqTag r) 2).toNat = r.body.length := Nat.mod_eq_of_lt (by omega)
  obtain ⟨check, hframe⟩ := requestFrame_eq seqTag r
  have hlength : (requestFrame seqTag r).length = r.body.length + 4 := by
    rw [hframe]
    simp
  refine ⟨Bool.eq_false_iff.2 fun hbad => ?_, knownCode_code r, ?_⟩
  · rcases malformed_iff.1 hbad with hshort | hover | hlong | hcount | hsum
    · omega
    · exact nomatch hover
    · exact hlong.not_ge (hlengthByte.le.trans hbody)
    · exact hcount (hlength.trans (congrArg (· + 4) hlengthByte.symm))
    · exact hsum (sumBytes_sealBytes _)
  · have hfields : ((requestFrame seqTag r).drop 3).take r.body.length = r.body := by
      rw [hframe]
      exact List.take_left
    rw [decodeRequest, hlengthByte, hfields]
    exact decodeBody_body r h

end Sys2Proof.Machine
end

section
/-! SUPPORT. The configuration memory, its operation and the commands waiting: every event but a store operation and a
reset leaves all three (R201, R208). First the updates and the operations shared by the events, then the boards. -/

namespace Sys2Proof.Machine

/-- What the store requests and the queue work on: the bytes of the configuration memory, the operation in progress on it,
and the commands waiting. -/
def State.stored (s : State) : List Host.Cell × Option StoreOp × List Instr := (s.store, s.loader.op, s.pending)

theorem State.stored_eq_iff {s t : State} :
    t.stored = s.stored ↔ t.store = s.store ∧ t.loader.op = s.loader.op ∧ t.pending = s.pending := by
  simp [State.stored]

/-! ## Updates -/

section
variable (s : State) (k : Slot) (b : Board)

@[simp] theorem State.setPart_stored (p : Partition) : (s.setPart k p).stored = s.stored := rfl
@[simp] theorem State.mapParts_stored (f : Slot → Partition → Partition) : (s.mapParts f).stored = s.stored := by
  simp [State.stored]
@[simp] theorem State.setBoard_stored (r : BoardRecord) : (s.setBoard b r).stored = s.stored := rfl
@[simp] theorem State.setLink_stored (l : Link) : (s.setLink b l).stored = s.stored := rfl
@[simp] theorem State.mapLinks_stored (f : Board → Link → Link) : (s.mapLinks f).stored = s.stored := by
  simp [State.stored]
@[simp] theorem State.setPort_stored (p : Port) : (s.setPort k p).stored = s.stored := rfl
@[simp] theorem State.setRecord_stored (i : Fin 48) (r : Option PoolRecord) : (s.setRecord i r).stored = s.stored := rfl
@[simp] theorem State.mapRecords_stored (f : Option PoolRecord → Option PoolRecord) :
    (s.mapRecords f).stored = s.stored := by simp [State.stored]
@[simp] theorem State.changeBoards_stored (test : Board → Bool) (f : BoardRecord → BoardRecord) (g : Link → Link) :
    (s.changeBoards test f g).stored = s.stored := by simp only [State.stored, State.changeBoards]

end

theorem OnlyRun.stored {s t : State} (h : OnlyRun s t) : t.stored = s.stored := by
  obtain ⟨-, -, -, hloader, hstore, -, -, hpending⟩ := h
  rw [State.stored, hstore, hloader, hpending, State.stored]

/-! ## Shared operations -/

section
variable (s : State) (k : Slot) (b : Board)

@[simp] theorem respond_stored (st : Status) (c : Bool) (body : List Byte) : (respond k st c body s).stored = s.stored :=
  rfl
@[simp] theorem refuse_stored (st : Status) : (refuse k st s).stored = s.stored := rfl
@[simp] theorem voidWork_stored : (voidWork k s).stored = s.stored := rfl
@[simp] theorem recompute_stored : (recompute k s).stored = s.stored := rfl
@[simp] theorem offerLink_stored (e : LinkEvent) : (offerLink k b e s).stored = s.stored := rfl
@[simp] theorem advance_stored : (advance k s).stored = s.stored := (onlyRun_advance k s).stored
@[simp] theorem candidate_stored (n : Nat) (r : StopReason) : (candidate k n r s).stored = s.stored :=
  (onlyRun_candidate k n r s).stored
@[simp] theorem offerGroupStop_stored : (offerGroupStop k s).stored = s.stored := (onlyRun_offerGroupStop k s).stored
@[simp] theorem advanceOwner_stored : (advanceOwner b s).stored = s.stored := (onlyRun_advanceOwner b s).stored

@[simp] theorem engineSelect_stored : (engineSelect s).stored = s.stored := by
  rcases engineSelect_cases s with h | ⟨_, _, _, h⟩ <;> rw [h]
  rfl

@[simp] theorem engineSelectFree_stored : (engineSelectFree s).stored = s.stored := by
  unfold engineSelectFree
  split
  · rfl
  · split <;> rfl

@[simp] theorem settleStartUp_stored : (settleStartUp s).stored = s.stored := by
  unfold settleStartUp
  split <;> rfl

end

@[simp] theorem forBoards_stored {op : Board → State → State} (h : ∀ b s, (op b s).stored = s.stored) (bs : List Board)
    (s : State) : (forBoards op bs s).stored = s.stored :=
  forBoards_keeps (P := fun t => t.stored = s.stored) (fun b t ht => (h b t).trans ht) bs s rfl

@[simp] theorem forSlots_stored {op : Slot → State → State} (h : ∀ k s, (op k s).stored = s.stored) (ks : List Slot)
    (s : State) : (forSlots op ks s).stored = s.stored :=
  forSlots_keeps (P := fun t => t.stored = s.stored) (fun k t ht => (h k t).trans ht) ks s rfl

/-! ## Faults -/

section
variable (s : State) (k : Slot) (b : Board) (cause : FaultCause)

@[simp] theorem breakBoard_stored : (breakBoard b s).stored = s.stored := rfl
@[simp] theorem syncBoard_stored (next : Nat) (level : ClockMask) : (syncBoard b next level s).stored = s.stored := rfl
@[simp] theorem muteBoards_stored : (muteBoards k s).stored = s.stored := State.mapLinks_stored s _
@[simp] theorem enterFaulted_stored : (enterFaulted k cause s).stored = s.stored := rfl
@[simp] theorem noteResetFailed_stored : (noteResetFailed k b s).stored = s.stored := rfl

@[simp] theorem endSync_stored : (endSync k b s).stored = s.stored := by
  unfold endSync
  dsimp only
  split
  · split <;> rfl
  · rfl

@[simp] theorem muteOnFault_stored : (muteOnFault k s).stored = s.stored := by simp [muteOnFault]

@[simp] theorem faultInRun_stored : (faultInRun k b cause s).stored = s.stored := by
  rw [faultInRun, muteOnFault_stored, offerGroupStop_stored, (onlyRun_offerStop k _).stored]
  rfl

@[simp] theorem faultInStopped_stored : (faultInStopped k b cause s).stored = s.stored := by simp [faultInStopped]

@[simp] theorem boardFault_stored : (boardFault b cause s).stored = s.stored := by
  unfold boardFault
  dsimp only
  split
  · rfl
  · split
    iterate 3 exact faultInRun_stored _ _ _ _
    · split
      · rfl
      · exact faultInStopped_stored _ _ _ _
    · split <;> rfl
    · rfl

@[simp] theorem outOfSequence_stored : (outOfSequence b s).stored = s.stored := by
  unfold outOfSequence
  split
  · rfl
  · exact boardFault_stored s b .sequence

/-! ## Frames received -/

/-- A frame ignored in the discarded range, or out of sequence (R121, R140). -/
theorem notTaken_stored (c : Bool) :
    (if c = true then ignoreFrame b s else outOfSequence b s).stored = s.stored := by
  split
  · rfl
  · exact outOfSequence_stored s b

theorem judgeArmAck_stored (tag : Tag) : (judgeArmAck b tag s).stored = s.stored := by
  unfold judgeArmAck
  dsimp only
  split
  · split
    · exact (onlyRun_ackInPipe b _ _).stored
    · exact notTaken_stored s b _
  · exact notTaken_stored s b _

theorem judgeArmNak_stored (tag : Tag) : (judgeArmNak b tag s).stored = s.stored := by
  unfold judgeArmNak
  dsimp only
  split
  · rfl
  · split
    · split
      · split
        · exact boardFault_stored _ b .retries
        · rfl
      · exact outOfSequence_stored s b
    · exact outOfSequence_stored s b

theorem judgeDone_stored (tag : Tag) (trigger : Option TriggerId) (stamp : Option (BitVec 32)) :
    (judgeDone b tag trigger stamp s).stored = s.stored := by
  unfold judgeDone
  dsimp only
  split
  · split
    · rw [advanceOwner_stored, (onlyRun_doneInPipe b _ _ _).stored]
      rfl
    · exact notTaken_stored s b _
  · exact notTaken_stored s b _

theorem judgeFlushAck_stored (tag : Tag) : (judgeFlushAck b tag s).stored = s.stored := by
  unfold judgeFlushAck
  split
  · simp
  · exact outOfSequence_stored s b

/-- Steps 5 and 6 of a reconciliation: ARMs sent again, a record, or a fault (R146). -/
theorem finishStatus_stored (progress : Bool) : (finishStatus b progress s).stored = s.stored := by
  unfold finishStatus
  lift_lets
  extract_lets n a unsent reported
  have hunsent : unsent.stored = s.stored := by
    unfold unsent
    split <;> rfl
  have hreported : reported.stored = unsent.stored := by
    unfold reported
    split <;> rfl
  split
  · simp [hunsent]
  · simp [hreported, hunsent]

theorem reconcile_stored (armed acks dones : Nat) (trigger : Option (Tag × TriggerId)) :
    (reconcile b armed acks dones trigger s).stored = s.stored := by
  have hjudged (t : State) : (statusDones b trigger dones (statusAcks b acks t)).stored = t.stored :=
    ((onlyRun_statusAcks b acks t).trans (onlyRun_statusDones b trigger dones _)).stored
  simp [reconcile, finishStatus_stored, hjudged]

theorem judgeStatus_stored (armed finished : Tag) (trigger : Option (Tag × TriggerId)) :
    (judgeStatus b armed finished trigger s).stored = s.stored := by
  unfold judgeStatus
  dsimp only
  split
  · split
    · split
      · exact reconcile_stored s b _ _ _ trigger
      · exact boardFault_stored s b .sequence
    · exact boardFault_stored s b .sequence
  · rfl

theorem judgeSyncAck_stored (tag : Tag) : (judgeSyncAck b tag s).stored = s.stored := by
  unfold judgeSyncAck
  split
  · rfl
  · exact boardFault_stored s b .sequence

theorem takeProbeReply_stored (id : BitVec 16) (depth : Byte) : (takeProbeReply b id depth s).stored = s.stored := by
  unfold takeProbeReply
  dsimp only
  split <;> rfl

theorem judgeBound_stored : ∀ f : UpFrame, (judgeBound b f s).stored = s.stored
  | .armAck tag => judgeArmAck_stored s b tag
  | .armNak tag _ => judgeArmNak_stored s b tag
  | .done tag trigger stamp => judgeDone_stored s b tag trigger stamp
  | .flushAck tag => judgeFlushAck_stored s b tag
  | .syncAck _ => outOfSequence_stored s b
  | .status armed finished trigger => judgeStatus_stored s b armed finished trigger
  | .probeReply _ _ => rfl

@[simp] theorem judgeFrame_stored (f : UpFrame) : (judgeFrame b f s).stored = s.stored := by
  unfold judgeFrame
  split
  · rfl
  · split
    · exact takeProbeReply_stored s b _ _
    · rfl
    · exact judgeSyncAck_stored s b _
    · rfl
    · exact judgeBound_stored s b _
    all_goals rfl

@[simp] theorem receiveError_stored (e : RxError) : (receiveError b e s).stored = s.stored := by
  unfold receiveError
  dsimp only
  split
  · rfl
  · split
    · rfl
    · split <;> rfl

end

theorem handleRx_stored (b : Board) : ∀ (events : List RxEvent) (s : State), (handleRx b events s).stored = s.stored
  | [], _ => rfl
  | .error e :: rest, s => (handleRx_stored b rest _).trans (receiveError_stored s b e)
  | .frame bytes :: rest, s => by
    refine (handleRx_stored b rest _).trans ?_
    split
    · exact judgeFrame_stored s b _
    · rfl

theorem receiveChars_stored (b : Board) :
    ∀ (chars : List LineChar) (s : State), (receiveChars b chars s).stored = s.stored
  | [], _ => rfl
  | _ :: cs, _ => (receiveChars_stored b cs _).trans (handleRx_stored b _ _)

section
variable (s : State) (k : Slot) (b : Board)

@[simp] theorem receiveSamples_stored (samples : List Bool) : (receiveSamples b samples s).stored = s.stored :=
  receiveChars_stored b _ _

@[simp] theorem receiveFrame_stored (f : UpFrame) : (receiveFrame b f s).stored = s.stored := by
  unfold receiveFrame
  rw [judgeFrame_stored]
  split
  · exact receiveError_stored s b .length
  all_goals rfl

theorem expire_stored : (expire b s).stored = s.stored := by
  unfold expire
  split
  · split
    · rfl
    · exact boardFault_stored s b .timeout
  · exact boardFault_stored s b .timeout
  · split
    · exact boardFault_stored s b .timeout
    · rfl
  all_goals rfl

/-! ## Ends of exchanges -/

theorem reportFailed_stored : (reportFailed k b s).stored = s.stored := by
  unfold reportFailed
  split <;> rfl

@[simp] theorem endTimeReset_stored (failed : BoardMask) : (endTimeReset k failed s).stored = s.stored := rfl

@[simp] theorem endRecover_stored (replied : BoardMask) : (endRecover k replied s).stored = s.stored := by
  unfold endRecover
  dsimp only
  rw [respond_stored]
  split
  · exact (onlyRun_restLinks k _).stored
  · simp [reportFailed_stored]

/-- An exchange that has ended is answered (R190). -/
theorem settlePort_stored : (settlePort k s).stored = s.stored := by
  unfold settlePort
  split
  · split <;> rfl
  · split <;> rfl
  · split
    · exact endRecover_stored s k _
    · rfl
  · split <;> rfl
  all_goals rfl

@[simp] theorem settle_stored : (settle s).stored = s.stored := by
  simp [settle, settleExchanges, settlePort_stored]

theorem expireResponse_stored : (expireResponse b s).stored = s.stored := by
  unfold expireResponse
  split
  · rw [settle_stored, expire_stored]
  all_goals rfl

end

end Sys2Proof.Machine
end

section
/-! SUPPORT. The configuration memory through every command that does not work on it, and what the others do to it; then
the statements about every step and every command. -/

namespace Sys2Proof.Machine

/-! ## Start-up, transactions and request frames -/

section
variable (s : State) (k : Slot)

@[simp] theorem endLoading_stored (status : StoreStatus) (skipped : Nat) (defaults : Settings) (mask : BoardMask)
    (presets : List Preset) : (endLoading status skipped defaults mask presets s).stored = s.stored := by
  rw [endLoading, settleStartUp_stored, forBoards_stored fun b t => breakBoard_stored t b]
  rfl

theorem loadRead_stored (n : Nat) : (loadRead n s).stored = s.stored := by
  unfold loadRead
  split
  · unfold loadBytes
    dsimp only
    split
    · split_ifs
      · rfl
      · rfl
      · exact endLoading_stored s _ _ _ _ _
    · split
      · exact endLoading_stored s _ _ _ _ _
      · rfl
  · rfl

theorem transact_stored (b : Byte) (dataIn : List Bool) : (transact k b dataIn s).stored = s.stored := by
  rw [transact_eq]
  rfl

/-- A request frame is refused, or its request waits at the port (R186 to R189). -/
theorem endRequestFrame_stored : (endRequestFrame k s).stored = s.stored := by
  by_cases hwriting : (s.port k).transaction = .writing
  · rcases endRequestFrame_cases hwriting with ⟨st, heq⟩ | heq <;> rw [heq] <;> rfl
  · unfold endRequestFrame
    split
    · exact absurd ‹_› hwriting
    · rfl

/-! ## The engine and run control -/

theorem endComputation_stored : (endComputation s).stored = s.stored := by
  unfold endComputation
  split
  · rfl
  · rw [engineSelect_stored, (onlyRun_judgeResult _ _).stored]
    rfl

theorem nextGroupStop_stored : (nextGroupStop k s).stored = s.stored := by
  unfold nextGroupStop
  split
  · rfl
  · rw [engineSelect_stored, (onlyRun_takeGroupStop k _).stored]
    rfl

theorem expireGap_stored : (expireGap k s).stored = s.stored := by
  unfold expireGap
  split
  · rfl
  · simp

/-! ## Clocks and presets -/

@[simp] theorem releaseSet_stored (set : BoardMask) : (releaseSet set s).stored = s.stored := by simp [releaseSet_eq]
@[simp] theorem closePartition_stored : (closePartition k s).stored = s.stored := by simp [closePartition]

theorem defineClock_stored (n : LocalNo) (d : Definition) : (defineClock k n d s).stored = s.stored := by
  unfold defineClock
  split <;> rfl

@[simp] theorem removeClock_stored (n : LocalNo) : (removeClock k n s).stored = s.stored := by
  unfold removeClock
  split <;> rfl

theorem applyPreset_stored (p : Preset) : (applyPreset k p s).1.stored = s.stored := by
  unfold applyPreset
  dsimp only
  split
  · rfl
  · split
    · split <;> rfl
    · rfl

theorem continueOpen_stored (todo : List Preset) (applied notEnabled skipped : Nat) (clamped : List Preset) :
    (continueOpen k todo applied notEnabled skipped clamped s).stored = s.stored := by
  unfold continueOpen
  split <;> rfl

theorem openNext_stored : (openNext k s).stored = s.stored := by
  unfold openNext
  split
  · dsimp only
    split <;> rw [continueOpen_stored, applyPreset_stored]
  · rfl

/-! ## Requests taken -/

theorem takeClaim_stored (set : BoardMask) : (takeClaim k set s).stored = s.stored := by
  by_cases hfresh : set &&& ~~~(s.ownedMask k) = 0
  · rw [takeClaim_owned hfresh]
    rfl
  · rw [takeClaim_fresh hfresh]
    simp [claimBegun, boardsClaimed]

theorem takeRelease_stored (set : BoardMask) : (takeRelease k set s).stored = s.stored := by
  unfold takeRelease
  dsimp only
  split
  · rfl
  · simp

theorem takeJoin_stored (g : Group) : (takeJoin k g s).stored = s.stored := by
  unfold takeJoin
  split <;> rfl

theorem endAtStart_stored : (endAtStart k s).stored = s.stored := (onlyRun_endAtStart k s).stored

theorem takeRun_stored : (takeRun k s).stored = s.stored := by
  rw [takeRun, engineSelect_stored, endAtStart_stored]
  rfl

theorem takeGroupRun_stored : (takeGroupRun k s).stored = s.stored := by
  have hstarted (j : Slot) (t : State) : (startRun j t).stored = t.stored := rfl
  simp [takeGroupRun, fun j t => endAtStart_stored t j, hstarted]

theorem takeResume_stored : (takeResume k s).stored = s.stored := by simp [takeResume]
theorem takeStop_stored : (takeStop k s).stored = s.stored := by simp [takeStop]

theorem takeRecover_stored : (takeRecover k s).stored = s.stored := by
  unfold takeRecover
  dsimp only
  split
  · exact endRecover_stored _ k 0
  · exact forBoards_stored (fun b t => breakBoard_stored t b) _ _

end

/-! ## The commands -/

/-- The command answers a next state of which `P` holds. -/
def Leads (P : State → Prop) (r : Result) : Prop := ∃ t, r = .next t ∧ P t

/-- The command answers a next state that holds the configuration memory, its operation and the commands waiting as
they were. -/
abbrev Beside (s : State) (r : Result) : Prop := Leads (fun t => t.stored = s.stored) r

section
variable {P : State → Prop} {s : State} {k : Slot} {r : Request} {f : State → State}

theorem leads_next {t : State} (h : P t) : Leads P (.next t) := ⟨t, rfl, h⟩

theorem Leads.answers {o : Result} (h : Leads P o) : Answers P o := by
  obtain ⟨t, rfl, ht⟩ := h
  exact answers_next ht

theorem leads_act (h : P s) (hf : P (f s)) : Leads P (act f s) := by
  refine leads_next ?_
  split
  · exact h
  · exact hf

theorem leads_take (h : P s) (hf : P (f s)) : Leads P (take k r f s) := by
  rcases take_cases k r f s with ⟨-, heq⟩ | heq <;> rw [heq]
  · exact leads_next hf
  · exact leads_next h

theorem beside_act (hf : (f s).stored = s.stored) : Beside s (act f s) := leads_act rfl hf

/-- A command that changes one link. -/
theorem beside_updLink (b : Board) (f : State → Link → Link) : Beside s (act (fun s => s.updLink b (f s)) s) :=
  beside_act (f := fun s => s.updLink b (f s)) rfl

theorem beside_take (hf : (f s).stored = s.stored) : Beside s (take k r f s) := leads_take rfl hf

theorem whenOpen_stored (hf : (f s).stored = s.stored) : (whenOpen k f s).stored = s.stored := by
  unfold whenOpen
  split
  · rfl
  · exact hf

theorem beside_whenOpen (hf : (f s).stored = s.stored) : Beside s (take k r (whenOpen k f) s) :=
  beside_take (whenOpen_stored hf)

theorem beside_whenStopped (hf : (f s).stored = s.stored) : Beside s (take k r (whenStopped k f) s) := by
  refine beside_take ?_
  rcases whenStopped_cases k f s with heq | heq | ⟨-, heq⟩ <;> rw [heq]
  · rfl
  · rfl
  · exact hf

theorem withClock_stored {f : LocalNo → ClockEntry → State → State} (localNo : Byte)
    (hf : ∀ n e, (f n e s).stored = s.stored) : (withClock k localNo f s).stored = s.stored := by
  unfold withClock
  split
  · rfl
  · split
    · rfl
    · exact hf _ _

/-- A request that names a clock (R14). -/
theorem beside_clockRequest {localNo : Byte} {f : LocalNo → ClockEntry → State → State}
    (hf : ∀ n e, (f n e s).stored = s.stored) : Beside s (take k r (clockRequest k localNo f) s) :=
  beside_whenStopped (withClock_stored localNo hf)

/-- A request that names a clock, which is refused in some state and otherwise changed (R20, R22 to R24). -/
theorem beside_setClock {localNo : Byte} {c : LocalNo → ClockEntry → State → Prop} [∀ n e t, Decidable (c n e t)]
    {st : Status} {f : State → ClockEntry → ClockEntry} :
    Beside s (take k r (clockRequest k localNo fun n e s =>
      if c n e s then refuse k st s else setClock k n (f s) s) s) := by
  refine beside_clockRequest fun n e => ?_
  split <;> rfl

end

section
variable (s : State) (k : Slot) (b : Board)

/-! ### Partitions and boards -/

theorem beside_execOpenSlot : Beside s (execOpenSlot k s) := by
  refine beside_take ?_
  split
  · exact continueOpen_stored _ k _ _ _ _ _
  · rfl

theorem beside_execCloseSlot : Beside s (execCloseSlot k s) := by
  refine beside_whenOpen ?_
  split
  · exact closePartition_stored s k
  · rfl

theorem beside_execClaimBoards (set : BoardMask) : Beside s (execClaimBoards k set s) := by
  refine beside_whenStopped ?_
  split_ifs
  iterate 4 rfl
  exact takeClaim_stored s k set

theorem beside_execReleaseBoards (set : BoardMask) : Beside s (execReleaseBoards k set s) := by
  refine beside_whenOpen ?_
  split
  · exact takeRelease_stored s k set
  · rfl

theorem beside_execReprobe (set : BoardMask) : Beside s (execReprobe k set s) := by
  refine beside_take ?_
  split_ifs
  iterate 3 rfl
  exact forBoards_stored (fun b t => breakBoard_stored t b) _ s

theorem beside_execReadBoard (board : Byte) : Beside s (execReadBoard k board s) := by
  refine beside_whenOpen ?_
  split <;> rfl

theorem beside_execReadCabinet : Beside s (execReadCabinet k s) := by
  unfold execReadCabinet
  exact beside_take (respond_stored s k .ok false (cabinetBody s))

theorem beside_execJoinGroup (group : Byte) : Beside s (execJoinGroup k group s) := by
  refine beside_whenStopped ?_
  split
  · exact takeJoin_stored s k _
  · rfl

/-! ### Clocks -/

theorem beside_execDefineClock (localNo : Byte) (body : ClockBody) : Beside s (execDefineClock k localNo body s) := by
  refine beside_whenStopped ?_
  split
  · exact defineClock_stored s k _ _
  · rfl

theorem beside_execDeleteClock (localNo : Byte) : Beside s (execDeleteClock k localNo s) := by
  refine beside_clockRequest fun n e => ?_
  split_ifs
  · rfl
  · rfl
  · exact removeClock_stored s k n

theorem beside_execRetimeClock (localNo : Byte) (first second : BitVec 24) :
    Beside s (execRetimeClock k localNo first second s) := by
  refine beside_clockRequest fun n e => ?_
  dsimp only
  split <;> rfl

theorem beside_execReadClock (localNo : Byte) : Beside s (execReadClock k localNo s) := by
  refine beside_whenOpen (withClock_stored _ fun n e => ?_)
  split <;> rfl

theorem beside_execTimeReset : Beside s (execTimeReset k s) := by
  refine beside_whenStopped ?_
  dsimp only
  split
  · rfl
  · exact forBoards_stored (fun b t => syncBoard_stored t b 1 0) _ _

/-! ### Run control -/

theorem beside_execSetupRun (mode : Byte) (argument : BitVec 48) : Beside s (execSetupRun k mode argument s) := by
  refine beside_whenStopped ?_
  split <;> rfl

theorem beside_execRun : Beside s (execRun k s) := by
  refine beside_whenStopped ?_
  split
  · rfl
  · exact takeRun_stored s k

theorem beside_execGroupRun : Beside s (execGroupRun k s) := by
  refine beside_whenOpen ?_
  split_ifs
  · rfl
  · exact takeGroupRun_stored s k
  · rfl

theorem beside_execPause : Beside s (execPause k s) := by
  refine beside_whenOpen ?_
  split <;> rfl

theorem beside_execResume : Beside s (execResume k s) := by
  refine beside_whenOpen ?_
  split
  · exact takeResume_stored s k
  · rfl

theorem beside_execStop : Beside s (execStop k s) := by
  refine beside_whenOpen ?_
  split
  iterate 3 exact takeStop_stored s k
  all_goals rfl

theorem beside_execRecover : Beside s (execRecover k s) := by
  refine beside_whenOpen ?_
  split
  · exact takeRecover_stored s k
  · rfl

/-! ### The filter, the links and the ports -/

theorem beside_execSetFilter (mode : Byte) (count : BitVec 16) (logUnmatched : Byte) :
    Beside s (execSetFilter k mode count logUnmatched s) := by
  refine beside_whenOpen ?_
  split <;> rfl

theorem beside_execSetMatch (index : Byte) (id care : BitVec 16) (enable : Byte) :
    Beside s (execSetMatch k index id care enable s) := by
  refine beside_whenOpen ?_
  split <;> rfl

theorem beside_execSetHashAddIds (enable count : Byte) (ids : List TriggerId) :
    Beside s (execSetHashAddIds k enable count ids s) := by
  refine beside_whenOpen ?_
  split <;> rfl

theorem beside_received (f : UpFrame) : Beside s (received b f s) := beside_act (by simp)

theorem beside_execReceiveError (samples : List Bool) : Beside s (execReceiveError b samples s) :=
  beside_act (f := fun s => settle (receiveSamples b samples s)) (by simp)

theorem beside_execStrobeFall : Beside s (execStrobeFall k s) := by
  unfold execStrobeFall
  exact beside_act (State.mapLinks_stored s _)

theorem beside_execUnknownTransaction (code : Byte) (dataIn : List Bool) :
    Beside s (execUnknownTransaction k code dataIn s) := by
  unfold execUnknownTransaction
  refine beside_act ?_
  split
  · rfl
  · exact transact_stored s k code dataIn

end

/-- The commands that begin, end or abandon an operation on the configuration memory. -/
def worksStore : Instr → Bool
  | .deviceReset | .resetAsserted | .storeAddressNak | .storeAccessTimeout | .storeRead _ _ _ | .storeReadComplete
  | .storeWrite _ _ _ _ | .storeWriteComplete => true
  | _ => false

/-- Every other command leaves the configuration memory, its operation and the commands waiting (R201, R208). -/
theorem exec_beside (s : State) (c : Instr) (h : worksStore c = false) : Beside s (exec c s) := by
  cases c with
  | deviceReset | resetAsserted | storeAddressNak | storeAccessTimeout | storeRead | storeReadComplete | storeWrite
  | storeWriteComplete => exact nomatch h
  | loadReadComplete n => exact beside_act (loadRead_stored s n)
  | selectFall k | selectRise k => exact leads_next rfl
  | writeRequest k dataIn | readResponse k dataIn | readPortStatus k dataIn =>
    exact beside_act (transact_stored s k _ dataIn)
  | requestFrameEnd k => exact beside_act (endRequestFrame_stored s k)
  | unknownTransaction k code dataIn => exact beside_execUnknownTransaction s k code dataIn
  | inactivityTimeout k => exact beside_act (f := fun s => s.updPort k Port.expire) rfl
  | openSlot k => exact beside_execOpenSlot s k
  | presetApply k => exact beside_act (openNext_stored s k)
  | closeSlot k => exact beside_execCloseSlot s k
  | setPartition k => exact beside_whenStopped rfl
  | readPartition k => exact beside_whenOpen rfl
  | claimBoards k set => exact beside_execClaimBoards s k set
  | releaseBoards k set => exact beside_execReleaseBoards s k set
  | reprobe k set => exact beside_execReprobe s k set
  | readBoard k board => exact beside_execReadBoard s k board
  | readCabinet k => exact beside_execReadCabinet s k
  | joinGroup k group => exact beside_execJoinGroup s k group
  | leaveGroup k => exact beside_whenStopped rfl
  | defineClock k localNo body => exact beside_execDefineClock s k localNo body
  | deleteClock k localNo => exact beside_execDeleteClock s k localNo
  | enableClock k localNo | disableClock k localNo | gateClock k localNo | ungateClock k localNo =>
    exact beside_setClock
  | retimeClock k localNo first second => exact beside_execRetimeClock s k localNo first second
  | readClock k localNo => exact beside_execReadClock s k localNo
  | timeReset k => exact beside_execTimeReset s k
  | setupRun k mode argument => exact beside_execSetupRun s k mode argument
  | run k => exact beside_execRun s k
  | groupRun k => exact beside_execGroupRun s k
  | pause k => exact beside_execPause s k
  | resume k => exact beside_execResume s k
  | stop k => exact beside_execStop s k
  | recover k => exact beside_execRecover s k
  | clearErrors k => exact beside_whenStopped rfl
  | setFilter k mode count logUnmatched => exact beside_execSetFilter s k mode count logUnmatched
  | setMatch k index id care enable => exact beside_execSetMatch s k index id care enable
  | setHashKeep k enable | setHashReplace k enable | setHashClear k enable => exact beside_whenOpen rfl
  | setHashAddIds k enable count ids => exact beside_execSetHashAddIds s k enable count ids
  | readEvents k count => exact beside_whenOpen rfl
  | computationEnd => exact beside_act (endComputation_stored s)
  | groupStopTaken k => exact beside_act (nextGroupStop_stored s k)
  | settleGapExpiry k => exact beside_act (expireGap_stored s k)
  | strobeFall k => exact beside_execStrobeFall s k
  | frameSend b =>
    exact beside_updLink b fun s => Link.sendNext ((s.board b).link == .syncing) (s.responseNs b)
  | frameTransmissionEnd b => exact beside_updLink b fun _ => Link.endFrame
  | breakEnd b => exact beside_updLink b fun _ => Link.endBreak
  | breakRecoveryEnd b =>
    exact beside_updLink b fun s => Link.endRecovery ((s.board b).link == .probing) (s.responseNs b)
  | backoffEnd b => exact beside_updLink b fun s => Link.endBackoff (s.responseNs b) (s.pipeFor b)
  | responseTimeout b => exact beside_act (expireResponse_stored s b)
  | receiveError b samples => exact beside_execReceiveError s b samples
  | armAck b | armNak b | boardDone b | flushAck b | syncAck b | boardStatus b | probeReply b =>
    exact beside_received s b _

end Sys2Proof.Machine
end

section
/-! SUPPORT. The operations on the configuration memory (R201, R208 to R210): what each leaves well formed, and what a
STORE_WRITE carries; then the statements about every step, every command and the reset state. -/

namespace Sys2Proof.Machine

/-! ## The memory and its operation -/

/-- The configuration memory is in its canonical form, and a write in progress lies within it (R208). -/
structure StoreSound (s : State) : Prop where
  canonical : Memory.wf s.store = true
  within : ∀ port address data, s.loader.op = some (.write port address data) →
    address + data.length ≤ Config.storeBytes

theorem storeInv_iff (s : State) : StoreInv s ↔ StoreSound s := by
  have hsplit : storeInv s = true ↔ Memory.wf s.store = true ∧ ∀ port address data,
      s.loader.op = some (.write port address data) → address + data.length ≤ Config.storeBytes := by
    unfold storeInv
    rw [Bool.and_eq_true]
    refine and_congr_right fun _ => ?_
    cases s.loader.op with
    | none => simp
    | some op => cases op <;> simp
  exact hsplit.trans ⟨fun ⟨hwf, hwithin⟩ => ⟨hwf, hwithin⟩, fun h => ⟨h.canonical, h.within⟩⟩

namespace StoreSound

variable {s : State} (h : StoreSound s)
include h

theorem of_stored {t : State} (heq : t.stored = s.stored) : StoreSound t := by
  obtain ⟨hstore, hop, -⟩ := State.stored_eq_iff.1 heq
  exact ⟨hstore ▸ h.canonical, hop ▸ h.within⟩

/-- The end of the operation leaves no write in progress (R209, R210). -/
theorem endStoreOp (port : Slot) (status : Status) (body : List Byte) : StoreSound (endStoreOp port status body s) :=
  ⟨h.canonical, nofun⟩

theorem completeRead : StoreSound (completeRead s) := by
  unfold Machine.completeRead
  split
  · exact h.endStoreOp _ _ _
  all_goals exact h

theorem completeWrite : StoreSound (completeWrite s) := by
  unfold Machine.completeWrite
  split
  · rename_i port address data hop
    exact ⟨wf_writeCells data address s.store (h.within _ _ _ hop) h.canonical, nofun⟩
  all_goals exact h

theorem failAccess : StoreSound (failAccess s) := by
  unfold Machine.failAccess
  split
  · exact h.of_stored (endLoading_stored s _ _ _ _ _)
  · split
    · exact h.endStoreOp _ _ _
    · rename_i port address data hop
      exact ⟨wf_leaveUnfinished address data s (h.within _ _ _ hop) h.canonical, nofun⟩
    · exact h

theorem afterReset (held : Bool) : StoreSound (afterReset held s) := by
  refine ⟨?_, nofun⟩
  change Memory.wf (abandonWrite s).store = true
  unfold abandonWrite
  split
  · exact wf_leaveUnfinished _ _ s (h.within _ _ _ ‹_›) h.canonical
  all_goals exact h.canonical

/-- A store request that begins a write begins one within the memory (R208). -/
theorem storeRequest {k : Slot} {valid : Bool} {op : StoreOp} (hvalid : valid = true → ∀ port address data,
    op = .write port address data → address + data.length ≤ Config.storeBytes) :
    StoreSound (storeRequest k valid op s) := by
  unfold Machine.storeRequest
  split
  · split
    · exact ⟨h.canonical, fun port address data hop => hvalid ‹_› port address data (Option.some.inj hop)⟩
    · exact h.of_stored (refuse_stored s k _)
  · exact h.of_stored (refuse_stored s k _)

end StoreSound

/-! ## The data of a STORE_WRITE -/

section
variable {body : List Byte} {address : BitVec 16} {length : Byte} {data : List Byte}

theorem decodeHash_ne_storeWrite : decodeHash body ≠ some (.storeWrite address length data) := by
  unfold decodeHash takeFields
  dsimp only
  split_ifs <;> exact nofun

/-- A frame that gives a STORE_WRITE carries the code of one (R212). -/
theorem decodeBody_storeWrite {code : Byte} (h : decodeBody code body = some (.storeWrite address length data)) :
    decodeStoreWrite body = some (.storeWrite address length data) := by
  unfold decodeBody at h
  split at h
  case h_31 => exact absurd h decodeHash_ne_storeWrite
  case h_34 => exact h
  all_goals simp [takeFields] at h

/-- A STORE_WRITE of a length in range carries that many bytes (R187). -/
theorem decodeStoreWrite_length (h : decodeStoreWrite body = some (.storeWrite address length data))
    (hlength : 1 ≤ length.toNat ∧ length.toNat ≤ 16) : data.length = length.toNat := by
  unfold decodeStoreWrite takeFields at h
  dsimp only at h
  split_ifs at h with hrange hbody
  all_goals
    simp only [Option.some.injEq, Request.storeWrite.injEq] at h
    obtain ⟨-, rfl, rfl⟩ := h
  · rw [List.length_take, List.length_drop]
    omega
  · exact absurd hlength hrange

/-- A STORE_WRITE that is waiting and passes its check stays within one page, and so within the memory (R208). -/
theorem storeWrite_within {s : State} {k : Slot} (hw : Waits s k (.storeWrite address length data))
    (hvalid : storeWriteValid address.toNat length.toNat = true) :
    address.toNat + data.length ≤ Config.storeBytes := by
  simp only [storeWriteValid, Bool.and_eq_true, decide_eq_true_eq] at hvalid
  obtain ⟨⟨⟨hlow, hhigh⟩, hpage⟩, haddress⟩ := hvalid
  obtain ⟨-, hhanded⟩ := hw
  unfold State.handed at hhanded
  split at hhanded
  · have hdata := decodeStoreWrite_length (decodeBody_storeWrite hhanded) ⟨hlow, hhigh⟩
    change address.toNat + data.length ≤ 2048
    change address.toNat < 2048 at haddress
    omega
  · exact nomatch hhanded

end

/-! ## Every step -/

/-- A request command has the effect of a request that waits, or none. -/
theorem answers_take_waits {P : State → Prop} {s : State} {k : Slot} {r : Request} {f : State → State} (h : P s)
    (hf : Waits s k r → P (f s)) : Answers P (take k r f s) := by
  rcases take_cases k r f s with ⟨hw, heq⟩ | heq <;> rw [heq]
  · exact answers_next (hf hw)
  · exact answers_next h

/-- Every command keeps the configuration memory (R201, R208 to R210). -/
theorem exec_keeps_store {s : State} (h : StoreSound s) (c : Instr) : Answers StoreSound (exec c s) := by
  by_cases hc : worksStore c = true
  · cases c with
    | deviceReset | resetAsserted => exact answers_next (h.afterReset _)
    | storeAddressNak | storeAccessTimeout => exact answers_act h h.failAccess
    | storeReadComplete => exact answers_act h h.completeRead
    | storeWriteComplete => exact answers_act h h.completeWrite
    | storeRead k address length => exact answers_take h (h.storeRequest fun _ => nofun)
    | storeWrite k address length data =>
      refine answers_take_waits h fun hw => h.storeRequest fun hvalid port a d hop => ?_
      obtain ⟨-, rfl, rfl⟩ := StoreOp.write.inj hop
      exact storeWrite_within hw hvalid
    | _ => exact nomatch hc
  · exact fun t ht => h.of_stored ((exec_beside s c (Bool.eq_false_iff.2 hc)).answers t ht)

/-- Settles O4: a write in progress stays within the memory, so the bytes it stores, or leaves unfinished, do too. -/
theorem stepKeepsConfigurationMemory : Obligations.StepKeepsConfigurationMemory := by
  intro s t h hstep
  rw [storeInv_iff] at h ⊢
  exact answers_step (fun rest => ⟨h.canonical, h.within⟩) (fun c _ hs => exec_keeps_store hs c) t hstep

/-! ## Every command -/

section
variable (s : State) (k : Slot)

theorem storeRequest_pending (valid : Bool) (op : StoreOp) : (storeRequest k valid op s).pending = s.pending := by
  unfold storeRequest
  split
  · split <;> rfl
  · rfl

theorem completeRead_pending : (completeRead s).pending = s.pending := by
  unfold completeRead
  split <;> rfl

theorem completeWrite_pending : (completeWrite s).pending = s.pending := by
  unfold completeWrite
  split <;> rfl

theorem failAccess_pending : (failAccess s).pending = s.pending := by
  unfold failAccess
  split
  · exact (State.stored_eq_iff.1 (endLoading_stored s _ _ _ _ _)).2.2
  · split <;> rfl

theorem afterReset_pending (held : Bool) : (afterReset held s).pending = s.pending := by
  change (abandonWrite s).pending = s.pending
  unfold abandonWrite
  split <;> rfl

/-- Every command answers a next state with the same commands waiting (R201). -/
theorem exec_keeps_pending (c : Instr) : Leads (fun t => t.pending = s.pending) (exec c s) := by
  by_cases hc : worksStore c = true
  · cases c with
    | deviceReset | resetAsserted => exact leads_next (afterReset_pending s _)
    | storeAddressNak | storeAccessTimeout => exact leads_act rfl (failAccess_pending s)
    | storeReadComplete => exact leads_act rfl (completeRead_pending s)
    | storeWriteComplete => exact leads_act rfl (completeWrite_pending s)
    | storeRead k | storeWrite k => exact leads_take rfl (storeRequest_pending s k _ _)
    | _ => exact nomatch hc
  · obtain ⟨t, ht, hstored⟩ := exec_beside s c (Bool.eq_false_iff.2 hc)
    exact ⟨t, ht, (State.stored_eq_iff.1 hstored).2.2⟩

end

/-- Settles O2: every command but the resets and the select lines waits for the reset to be released. -/
theorem everyCommandAnswersNextState : Obligations.EveryCommandAnswersNextState := by
  refine ⟨fun c s => exec_keeps_pending s c, fun c s hheld hreset hassert hfall hrise => ?_⟩
  cases c with
  | deviceReset => exact absurd rfl hreset
  | resetAsserted => exact absurd rfl hassert
  | selectFall k => exact absurd rfl (hfall k)
  | selectRise k => exact absurd rfl (hrise k)
  | _ => exact congrArg Host.Outcome.next (if_pos hheld)

/-- Settles O7: the memory's form is `wf_reset`, and the other invariants are evaluated at the four slots. -/
theorem resetMeetsEveryInvariant : Obligations.ResetMeetsEveryInvariant :=
  ⟨by decide, (storeInv_iff _).2 ⟨wf_reset, nofun⟩, by decide, by decide, by decide, by decide⟩

end Sys2Proof.Machine
end

section
/-! SUPPORT. The bytes a write changes, and the store requests and their ends (R207 to R210); then the statements about the
requests and about a failed operation. -/

namespace Sys2Proof.Machine

/-! ## Bytes written -/

/-- Bytes written leave every byte that they are not written to. -/
theorem readCell_writeCells_outside (vs : List Byte) : ∀ (a : Nat) (m : List Host.Cell) {x : Nat},
    x < a ∨ a + vs.length ≤ x → readCell (writeCells a vs m) x = readCell m x := by
  induction vs with
  | nil => exact fun _ _ _ _ => rfl
  | cons v vs ih =>
    intro a m x hx
    rw [List.length_cons] at hx
    rw [writeCells, ih (a + 1) _ (by omega), readCell_writeCell_ne a v m x (by omega)]

/-- Bytes written within a memory in canonical form are read back (R210). -/
theorem readCell_writeCells_inside (vs : List Byte) : ∀ (a : Nat) (m : List Host.Cell) {x : Nat},
    Memory.wf m = true → a + vs.length ≤ Config.storeBytes → a ≤ x → x < a + vs.length →
      readCell (writeCells a vs m) x = vs.getD (x - a) 0 := by
  induction vs with
  | nil => exact fun a _ x _ _ hle hlt => absurd hlt (Nat.not_lt.2 hle)
  | cons v vs ih =>
    intro a m x hwf hfit hle hlt
    rw [List.length_cons] at hfit hlt
    rw [writeCells]
    by_cases hx : x = a
    · rw [hx, readCell_writeCells_outside vs (a + 1) _ (.inl (Nat.lt_succ_self a)), readCell_writeCell_self a v m hwf,
        Nat.sub_self, List.getD_cons_zero]
    · obtain ⟨d, rfl⟩ : ∃ d, x = a + (d + 1) := ⟨x - a - 1, by omega⟩
      rw [ih (a + 1) _ (wf_writeCell a v m (by omega) hwf) (by omega) (by omega) (by omega), Nat.add_sub_cancel_left,
        List.getD_cons_succ, show a + (d + 1) - (a + 1) = d by omega]

/-- What a write that does not end leaves outside the bytes it addresses (R201, R210; assumption 6). -/
theorem readCell_leaveUnfinished_outside {a : Nat} {data : List Byte} (s : State) {x : Nat}
    (hx : x < a ∨ a + data.length ≤ x) : readCell (leaveUnfinished a data s).store x = readCell s.store x := by
  refine readCell_writeCells_outside _ a s.store ?_
  rwa [mixBytes_length _ _ _ (by simp)]

/-! ## Requests -/

theorem storeReadValid_iff (address length : Nat) :
    storeReadValid address length = true ↔ 1 ≤ length ∧ length ≤ 16 ∧ address + length ≤ 2048 := by
  simp only [storeReadValid, Bool.and_eq_true, decide_eq_true_eq, and_assoc]
  rfl

theorem storeWriteValid_iff (address length : Nat) : storeWriteValid address length = true ↔
    1 ≤ length ∧ length ≤ 16 ∧ address / 16 = (address + length - 1) / 16 ∧ address < 2048 := by
  simp only [storeWriteValid, Bool.and_eq_true, decide_eq_true_eq, and_assoc]
  rfl

/-- A store request by its check and by whether the item is idle (R208). -/
theorem storeRequest_eq {k : Slot} {valid : Bool} {c : Prop} [Decidable c] (hvalid : valid = true ↔ c) (op : StoreOp)
    (s : State) : storeRequest k valid op s =
      if c then
        if s.loader.op = none then
          ({ s with loader := { s.loader with op := some op } } : State).setPort k { s.port k with work := some .storing }
        else refuse k .storeBusy s
      else refuse k .badValue s := by
  unfold storeRequest
  simp only [hvalid, Option.isNone_iff_eq_none]
  rfl

/-! ## Operations completed -/

section
variable {s : State} {k : Slot} {a n : Nat} {data : List Byte} (hr : s.resetHeld = false)
include hr

theorem exec_storeReadComplete (hop : s.loader.op = some (.read k a n)) : exec .storeReadComplete s = .next
    (respond k .ok false (leBytes 2 a ++ leBytes 1 n ++ readCells s.store a n)
      { s with loader := { s.loader with op := none } }) := by
  refine (act_running hr).trans ?_
  rw [completeRead, hop]
  rfl

theorem exec_storeWriteComplete (hop : s.loader.op = some (.write k a data)) : exec .storeWriteComplete s = .next
    (respond k .ok false (leBytes 2 a ++ leBytes 1 data.length)
      { s with loader := { s.loader with op := none }, store := writeCells a data s.store }) := by
  refine (act_running hr).trans ?_
  rw [completeWrite, hop]
  rfl

end

/-- Settles O20: the checks of the two requests, and the bytes a completed write changes. -/
theorem storeRequestsWorked : Obligations.StoreRequestsWorked := by
  refine ⟨fun s k address length hw => ?_, fun s k address length data hw => ?_, fun s k a n hr hop => ?_,
    fun s k a data hr hinv hop => ⟨_, exec_storeWriteComplete hr hop, fun x => ?_⟩⟩
  · exact (take_waits hw).trans (congrArg Host.Outcome.next (storeRequest_eq (storeReadValid_iff _ _) _ s))
  · exact (take_waits hw).trans (congrArg Host.Outcome.next (storeRequest_eq (storeWriteValid_iff _ _) _ s))
  · exact exec_storeReadComplete hr hop
  · have h := (storeInv_iff s).1 hinv
    split
    · rename_i hx
      exact readCell_writeCells_inside data a s.store h.canonical (h.within k a data hop) hx.1 hx.2
    · exact readCell_writeCells_outside data a s.store (by omega)

end Sys2Proof.Machine
end

section
/-! SUPPORT. The end of LOADING and of the start-up (R202, R203, R207), and a failed operation on the memory; then the
statement about a failed operation. -/

namespace Sys2Proof.Machine

/-! ## The end of LOADING -/

theorem State.withLoader_board (s : State) (l : Loader) (b : Board) : State.board { s with loader := l } b = s.board b := by
  dsimp only [State.board]

theorem State.withLoader_link (s : State) (l : Loader) (b : Board) : State.link { s with loader := l } b = s.link b := by
  dsimp only [State.link]

/-- Every board of the probe mask broken and PROBING (R207). -/
def probesBegun (mask : BoardMask) (s : State) : State :=
  s.changeBoards (maskHas mask) (fun r => { r with link := .probing, cause := none }) Link.beginBreak

theorem forBoards_breakBoard_maskBoards (mask : BoardMask) (s : State) :
    forBoards breakBoard (maskBoards mask) s = probesBegun mask s := by
  have htest : (fun b => decide (b ∈ maskBoards mask)) = maskHas mask := by simp
  rw [forBoards_breakBoard (maskBoards_nodup mask), htest, probesBegun]

/-- While a board of the probe mask is PROBING the start-up goes on (R202). -/
theorem settleStartUp_probing {s : State} {b : Board} (hmask : maskHas s.loader.probeMask b = true)
    (hb : (s.board b).link = .probing) : settleStartUp s = s := by
  refine if_neg fun ⟨_, hall⟩ => ?_
  have hleft := List.all_eq_true.1 hall b ((mem_maskBoards _ b).2 hmask)
  simp [hb] at hleft

/-- With no board of the probe mask PROBING the start-up has ended (R202). -/
theorem settleStartUp_ended {s : State} (hphase : s.loader.phase = .probing)
    (h : ∀ b, maskHas s.loader.probeMask b = true → (s.board b).link ≠ .probing) :
    settleStartUp s = { s with loader := { s.loader with phase := .ready } } := by
  refine if_pos ⟨hphase, List.all_eq_true.2 fun b hb => ?_⟩
  simpa using h b ((mem_maskBoards _ b).1 hb)

/-- LOADING ended: the values fixed and the boards of the mask broken; READY at once with an empty mask (R202 to R204,
R207). -/
theorem endLoading_eq (status : StoreStatus) (skipped : Nat) (defaults : Settings) (mask : BoardMask)
    (presets : List Preset) (s : State) : endLoading status skipped defaults mask presets s =
      { probesBegun mask s with loader := { s.loader with
          phase := if mask = 0 then .ready else .probing, load := .header [], status := some status, skipped := skipped,
          defaults := defaults, probeMask := mask, presets := presets } } := by
  rw [endLoading, forBoards_breakBoard_maskBoards]
  by_cases hmask : mask = 0
  · have hnone := (mask_eq_zero_iff mask).1 hmask
    rw [settleStartUp_ended rfl fun b hb => Bool.noConfusion ((hnone b).symm.trans hb), if_pos hmask]
    rfl
  · obtain ⟨b, hb⟩ : ∃ b, maskHas mask b = true := by
      by_contra! hnone
      exact hmask ((mask_eq_zero_iff mask).2 fun b => Bool.eq_false_iff.2 (hnone b))
    rw [settleStartUp_probing (b := b) hb (by simp [probesBegun, hb]), if_neg hmask]
    rfl

section
variable (status : StoreStatus) (skipped : Nat) (defaults : Settings) (mask : BoardMask) (presets : List Preset)
  (s : State)

/-- The values that the end of LOADING fixes (R202 to R204). -/
theorem endLoading_loader : (endLoading status skipped defaults mask presets s).loader =
    { s.loader with
        phase := if mask = 0 then .ready else .probing, load := .header [], status := some status, skipped := skipped,
        defaults := defaults, probeMask := mask, presets := presets } := by rw [endLoading_eq]

theorem endLoading_board (b : Board) : (endLoading status skipped defaults mask presets s).board b =
    if maskHas mask b then { s.board b with link := .probing, cause := none } else s.board b := by
  rw [endLoading_eq, State.withLoader_board, probesBegun, State.changeBoards_board]

theorem endLoading_link (b : Board) : (endLoading status skipped defaults mask presets s).link b =
    if maskHas mask b then (s.link b).beginBreak else s.link b := by
  rw [endLoading_eq, State.withLoader_link, probesBegun, State.changeBoards_link]

/-- What the end of LOADING leaves. -/
theorem endLoading_frame : let t := endLoading status skipped defaults mask presets s
    t.parts = s.parts ∧ t.ports = s.ports ∧ t.pool = s.pool ∧ t.engine = s.engine ∧ t.store = s.store := by
  simp only [endLoading_eq, probesBegun, State.changeBoards_parts, State.changeBoards_ports, State.changeBoards_pool,
    State.changeBoards_engine, State.changeBoards_store, and_self]

end

/-! ## A failed operation -/

section
variable {s : State} {c : Instr} (hr : s.resetHeld = false) (hc : c = .storeAddressNak ∨ c = .storeAccessTimeout)
include hr hc

theorem exec_failAccess : exec c s = .next (failAccess s) := by
  rcases hc with rfl | rfl
  · exact act_running hr
  · exact act_running hr

/-- A failed start-up read: the built-in values take effect whole (R203). -/
theorem exec_failAccess_loading (hphase : s.loader.phase = .loading) : exec c s = .next (endDefaulted s) := by
  rw [exec_failAccess hr hc, failAccess, if_pos hphase]

variable (hphase : s.loader.phase ≠ .loading)
include hphase

theorem exec_failAccess_read {k : Slot} {a n : Nat} (hop : s.loader.op = some (.read k a n)) :
    exec c s = .next (endStoreOp k .storeAbsent [] s) := by
  rw [exec_failAccess hr hc, failAccess, if_neg hphase, hop]

theorem exec_failAccess_write {k : Slot} {a : Nat} {data : List Byte} (hop : s.loader.op = some (.write k a data)) :
    exec c s = .next (endStoreOp k .storeAbsent [] (leaveUnfinished a data s)) := by
  rw [exec_failAccess hr hc, failAccess, if_neg hphase, hop]

end

/-- Settles O19: the end of LOADING with the built-in values, and the store requests answered with STORE_ABSENT. -/
theorem failedMemoryOperation : Obligations.FailedMemoryOperation := by
  refine fun s c hr hc => ⟨fun hphase => ⟨_, exec_failAccess_loading hr hc hphase, ?_⟩,
    fun k a n hphase hop => exec_failAccess_read hr hc hphase hop,
    fun k a data hphase hop => ⟨_, exec_failAccess_write hr hc hphase hop, rfl, ?_, rfl, rfl, fun x hx =>
      readCell_leaveUnfinished_outside s hx⟩⟩
  · obtain ⟨hparts, hports, -, -, hstore⟩ := endLoading_frame .defaulted 0 Settings.builtIn 0xFFFFFF#24 [] s
    have hall (b : Board) : maskHas 0xFFFFFF#24 b = true := by revert b; decide
    have hloader := endLoading_loader .defaulted 0 Settings.builtIn 0xFFFFFF#24 [] s
    refine ⟨congrArg Loader.phase hloader, congrArg Loader.status hloader, congrArg Loader.skipped hloader,
      congrArg Loader.defaults hloader, congrArg Loader.probeMask hloader, congrArg Loader.presets hloader, hparts, hports,
      hstore, fun b => ⟨?_, ?_⟩⟩
    · rw [endDefaulted, endLoading_board, if_pos (hall b)]
    · rw [endDefaulted, endLoading_link, if_pos (hall b)]
  · rw [endStoreOp, respond_port, respond_port]
    rfl

end Sys2Proof.Machine
end

section
/-! SUPPORT. The start-up reads (R203 to R206, R214): the header, the entries of the preset table, and the table entry by
entry; then the statement about them. -/

namespace Sys2Proof.Machine

/-! ## Fields -/

/-- A field is its first byte and the bytes above it (R211). -/
theorem fieldAt_succ (body : List Byte) (i width : Nat) :
    fieldAt body i (width + 1) = (body.getD i 0).toNat + 256 * fieldAt body (i + 1) width := by
  unfold fieldAt
  by_cases hi : i < body.length
  · rw [List.drop_eq_getElem_cons hi, List.take_succ_cons, leNat, List.getD_eq_getElem _ _ hi]
  · have hpast : body.length ≤ i := Nat.le_of_not_lt hi
    rw [List.drop_eq_nil_of_le hpast, List.drop_eq_nil_of_le (Nat.le_succ_of_le hpast), List.getD_eq_default _ _ hpast]
    simp [leNat]

theorem fieldAt_three (body : List Byte) (i : Nat) : fieldAt body i 3 = (body.getD i 0).toNat
    + 256 * (body.getD (i + 1) 0).toNat + 65536 * (body.getD (i + 2) 0).toNat := by
  have hnone : fieldAt body (i + 1 + 1 + 1) 0 = 0 := by simp [fieldAt, leNat]
  rw [fieldAt_succ, fieldAt_succ, fieldAt_succ, hnone, show i + 1 + 1 = i + 2 from rfl]
  omega

/-! ## The header -/

/-- The defaults of a header are its bytes 8 to 0Eh, brought into range as SET_PARTITION would (R54, R204, R214). -/
theorem headerSettings_eq (h : List Byte) : headerSettings h =
    { window := max 1 (min 8 (h.getD 8 0).toNat), horizon := max 1 (min 15 (h.getD 9 0).toNat),
      gapCode := (h.getD 10 0).toNat, retryLimit := max 1 (min 15 (h.getD 11 0).toNat),
      backoffLimit := min 7 (h.getD 12 0).toNat, timeoutCode := min 63 (h.getD 13 0).toNat,
      attention := decide ((h.getD 14 0).toNat ≠ 0) } := by
  have hflag (b : Byte) : decide (b ≠ 0) = decide (b.toNat ≠ 0) :=
    decide_eq_decide.2 (not_congr BitVec.toNat_inj.symm)
  rw [← hflag]
  exact keptSettings_eq _ _ _ _ _ _ _

theorem headerMask_toNat (h : List Byte) : (headerMask h).toNat =
    (h.getD 5 0).toNat + 256 * (h.getD 6 0).toNat + 65536 * (h.getD 7 0).toNat := by
  have hfield : fieldAt h 5 3 = (h.getD 5 0).toNat + 256 * (h.getD 6 0).toNat + 65536 * (h.getD 7 0).toNat :=
    fieldAt_three h 5
  rw [headerMask, BitVec.toNat_ofNat, hfield]
  have h5 := (h.getD 5 0).isLt
  have h6 := (h.getD 6 0).isLt
  have h7 := (h.getD 7 0).isLt
  omega

/-! ## The size of an entry -/

theorem kind_periodic_iff : ∀ presence : Byte, presence &&& 3#8 = 1#8 ↔ presence.toNat % 4 = 1 := by decide
theorem kind_divided_iff : ∀ presence : Byte, presence &&& 3#8 = 2#8 ↔ presence.toNat % 4 = 2 := by decide

theorem bits67_iff : ∀ presence : Byte,
    (presence.getLsbD 6 || presence.getLsbD 7) = false ↔ presence.toNat < 64 := by decide

theorem bit5_iff : ∀ presence : Byte,
    presence.toNat < 64 ∧ presence.getLsbD 5 = false ↔ presence.toNat < 32 := by decide

theorem entrySize_eq (presence : Byte) : entrySize presence =
    if presence.toNat % 4 = 1 ∧ presence.toNat < 64 then
      some (6 + (if presence.getLsbD 4 = true then 3 else 0) + (if presence.getLsbD 5 = true then 3 else 0))
    else if presence.toNat % 4 = 2 ∧ presence.toNat < 32 then
      some (6 + (if presence.getLsbD 4 = true then 2 else 0))
    else none := by
  simp only [entrySize, kind_periodic_iff, kind_divided_iff, bits67_iff, bit5_iff]

/-! ## What an entry gives -/

section
variable {bytes : List Byte}

theorem entryPreset_none (h : 3 < (bytes.getD 1 0).toNat ∨ 15 < (bytes.getD 2 0).toNat) : entryPreset bytes = none :=
  dif_neg fun ⟨hslot, hlocal⟩ => by
    change (bytes.getD 1 0).toNat < 4 at hslot
    change (bytes.getD 2 0).toNat < 16 at hlocal
    omega

/-- An entry with its slot and its local number in range is kept when its parameters are (R206). -/
theorem entryPreset_eq {k : Slot} {l : LocalNo} (hslot : (bytes.getD 1 0).toNat = k.val)
    (hlocal : (bytes.getD 2 0).toNat = l.val) : entryPreset bytes =
      if (entryBody bytes).inRange = true then some ⟨k, l, entryBody bytes, (bytes.getD 0 0).getLsbD 2⟩ else none := by
  have hrange : (bytes.getD 1 0).toNat < 4 ∧ (bytes.getD 2 0).toNat < 16 :=
    ⟨hslot ▸ k.isLt, hlocal ▸ l.isLt⟩
  obtain rfl : ⟨(bytes.getD 1 0).toNat, hrange.1⟩ = k := Fin.ext hslot
  obtain rfl : ⟨(bytes.getD 2 0).toNat, hrange.2⟩ = l := Fin.ext hlocal
  exact dif_pos hrange

/-- The parameters of a periodic entry, absent fields filled in (R205). -/
theorem entryBody_periodic (h : (bytes.getD 0 0).toNat % 4 = 1) : entryBody bytes =
    .periodic (fieldAt bytes 3 3)
      (if (bytes.getD 0 0).getLsbD 4 = true then fieldAt bytes 6 3 else max 1 (fieldAt bytes 3 3 / 2))
      (if (bytes.getD 0 0).getLsbD 5 = true then fieldAt bytes (if (bytes.getD 0 0).getLsbD 4 = true then 9 else 6) 3
        else 0) :=
  if_pos ((kind_periodic_iff _).2 h)

/-- The parameters of a divided entry, absent fields filled in (R205). -/
theorem entryBody_divided (h : (bytes.getD 0 0).toNat % 4 = 2) : entryBody bytes =
    .divided (bytes.getD 3 0).toNat (fieldAt bytes 4 2)
      (if (bytes.getD 0 0).getLsbD 4 = true then fieldAt bytes 6 2 else max 1 (fieldAt bytes 4 2 / 2)) :=
  if_neg fun hkind => by
    have hperiodic := (kind_periodic_iff _).1 hkind
    change (bytes.getD 0 0).toNat % 4 = 1 at hperiodic
    omega

end

/-! ## The table -/

section
variable {fuel base skipped size : Nat} {kept : List Preset} {presence : Byte} {rest bytes : List Byte}

theorem readTable_tableEnd (h : readEntry base bytes = .tableEnd) :
    readTable (fuel + 1) ⟨kept, skipped, base, bytes, false⟩ = ⟨kept, skipped, base, bytes, true⟩ := by
  simp only [readTable, h]

theorem readTable_unreadable (h : readEntry base bytes = .unreadable) :
    readTable (fuel + 1) ⟨kept, skipped, base, bytes, false⟩ = ⟨kept, min (skipped + 1) 255, base, bytes, true⟩ := by
  simp only [readTable, h, bumpSkipped]

theorem readTable_more (h : readEntry base bytes = .more) :
    readTable (fuel + 1) ⟨kept, skipped, base, bytes, false⟩ = ⟨kept, skipped, base, bytes, false⟩ := by
  simp only [readTable, h]

theorem readTable_skips (h : readEntry base bytes = .entry size) (hnone : entryPreset (bytes.take size) = none) :
    readTable (fuel + 1) ⟨kept, skipped, base, bytes, false⟩
      = readTable fuel ⟨kept, min (skipped + 1) 255, base + size, bytes.drop size, false⟩ := by
  simp only [readTable, h, hnone, bumpSkipped]

theorem readTable_keeps {p : Preset} (h : readEntry base bytes = .entry size)
    (hsome : entryPreset (bytes.take size) = some p) :
    readTable (fuel + 1) ⟨kept, skipped, base, bytes, false⟩
      = readTable fuel ⟨kept ++ [p], skipped, base + size, bytes.drop size, false⟩ := by
  simp only [readTable, h, hsome]

theorem readEntry_nil : readEntry base [] = if 2048 ≤ base then .tableEnd else .more := rfl

theorem readEntry_zero : readEntry base (0 :: rest) = .tableEnd := rfl

theorem readEntry_unsized (hp : presence ≠ 0) (h : entrySize presence = none) :
    readEntry base (presence :: rest) = .unreadable := by
  simp only [readEntry, if_neg hp, h]

/-- An entry that can be sized is read once it is whole, unless it would run past the end of memory (R205; assumption
31). -/
theorem readEntry_sized (hp : presence ≠ 0) (h : entrySize presence = some size) :
    readEntry base (presence :: rest) = if 2048 < base + size then .unreadable
      else if (presence :: rest).length < size then .more else .entry size := by
  simp only [readEntry, if_neg hp, h]
  rfl

end

/-! ## Reading -/

section
variable {s : State} {n : Nat} (hr : s.resetHeld = false) (hphase : s.loader.phase = .loading) (hlow : 1 ≤ n)
  (hhigh : n ≤ 16)
include hr hphase hlow hhigh

theorem exec_loadReadComplete : exec (.loadReadComplete n) s =
    .next (loadBytes (readCells s.store s.loader.load.next (min n s.loader.load.room)) s) :=
  (act_running hr).trans (congrArg Host.Outcome.next (if_pos ⟨hphase, hlow, hhigh⟩))

/-- A header is judged once its 15 bytes have been read (R203, R214). -/
theorem exec_loadReadComplete_header {h : List Byte} (hload : s.loader.load = .header h) :
    let full := h ++ readCells s.store h.length (min n (15 - h.length))
    exec (.loadReadComplete n) s = .next (
      if full.length < 15 then { s with loader := { s.loader with load := .header full } }
      else if full.take 5 = [0x46#8, 0x54#8, 0x47#8, 0x43#8, 0x01#8] then
        { s with loader := { s.loader with load := .table (headerSettings full) (headerMask full) [] 0 0x32 [] } }
      else endDefaulted s) := by
  rw [exec_loadReadComplete hr hphase hlow hhigh]
  simp only [loadBytes, hload, LoadWork.next, LoadWork.room, headerValid, beq_iff_eq]
  rfl

/-- The preset table is read as far as the bytes go (R205). -/
theorem exec_loadReadComplete_table {settings : Settings} {mask : BoardMask} {kept : List Preset} {skipped base : Nat}
    {bytes : List Byte} (hload : s.loader.load = .table settings mask kept skipped base bytes) :
    let all := bytes ++ readCells s.store (base + bytes.length) (min n (2048 - (base + bytes.length)))
    let r := readTable (all.length + 1) ⟨kept, skipped, base, all, false⟩
    exec (.loadReadComplete n) s = .next (
      if r.ended = true then endLoading .loaded r.skipped settings mask r.kept s
      else { s with loader := { s.loader with load := .table settings mask r.kept r.skipped r.base r.bytes } }) := by
  rw [exec_loadReadComplete hr hphase hlow hhigh]
  simp only [loadBytes, hload, LoadWork.next, LoadWork.room]
  rfl

/-- A presence byte of 00h ends the table and LOADING (R205). -/
theorem exec_loadReadComplete_tableEnd {settings : Settings} {mask : BoardMask} {kept : List Preset}
    {skipped base : Nat} (hload : s.loader.load = .table settings mask kept skipped base []) (hbase : base < 2048)
    (hzero : readCell s.store base = 0) :
    exec (.loadReadComplete n) s = .next (endLoading .loaded skipped settings mask kept s) := by
  obtain ⟨m, hm⟩ : ∃ m, min n (2048 - base) = m + 1 := ⟨min n (2048 - base) - 1, by omega⟩
  have hread : readCells s.store base (min n (2048 - base)) = 0 :: readCells s.store (base + 1) m := by
    rw [hm, readCells, hzero]
  have htable := exec_loadReadComplete_table hr hphase hlow hhigh hload
  simp only [List.nil_append, List.length_nil, Nat.add_zero, hread, readTable_tableEnd readEntry_zero] at htable
  exact htable

end

/-! ## The statement -/

/-- The table read by what stands where the next presence byte would begin (R205, R206). -/
theorem readTable_by_entry (fuel : Nat) (kept : List Preset) (skipped base : Nat) {presence : Byte} (rest : List Byte)
    (hp : presence ≠ 0) : let bytes := presence :: rest
    (entrySize presence = none →
      readTable (fuel + 1) ⟨kept, skipped, base, bytes, false⟩ = ⟨kept, min (skipped + 1) 255, base, bytes, true⟩)
    ∧ ∀ size, entrySize presence = some size →
      (2048 < base + size →
        readTable (fuel + 1) ⟨kept, skipped, base, bytes, false⟩ = ⟨kept, min (skipped + 1) 255, base, bytes, true⟩)
      ∧ (base + size ≤ 2048 → bytes.length < size →
        readTable (fuel + 1) ⟨kept, skipped, base, bytes, false⟩ = ⟨kept, skipped, base, bytes, false⟩)
      ∧ (base + size ≤ 2048 → size ≤ bytes.length →
        (entryPreset (bytes.take size) = none → readTable (fuel + 1) ⟨kept, skipped, base, bytes, false⟩
          = readTable fuel ⟨kept, min (skipped + 1) 255, base + size, bytes.drop size, false⟩)
        ∧ ∀ p, entryPreset (bytes.take size) = some p → readTable (fuel + 1) ⟨kept, skipped, base, bytes, false⟩
          = readTable fuel ⟨kept ++ [p], skipped, base + size, bytes.drop size, false⟩) := by
  refine ⟨fun hsize => readTable_unreadable (readEntry_unsized hp hsize), fun size hsize => ⟨fun hbeyond => ?_,
    fun hfit hshort => ?_, fun hfit hwhole => ?_⟩⟩
  · refine readTable_unreadable ?_
    rw [readEntry_sized hp hsize, if_pos hbeyond]
  · refine readTable_more ?_
    rw [readEntry_sized hp hsize, if_neg (Nat.not_lt.2 hfit), if_pos hshort]
  · have hentry : readEntry base (presence :: rest) = .entry size := by
      rw [readEntry_sized hp hsize, if_neg (Nat.not_lt.2 hfit), if_neg (Nat.not_lt.2 hwhole)]
    exact ⟨readTable_skips hentry, fun p => readTable_keeps hentry⟩

section
variable {bytes : List Byte} {k : Slot} {l : LocalNo} (hslot : (bytes.getD 1 0).toNat = k.val)
  (hlocal : (bytes.getD 2 0).toNat = l.val)
include hslot hlocal

/-- A periodic entry is kept when its period is in range (R205, R206). -/
theorem entryPreset_periodic (hkind : (bytes.getD 0 0).toNat % 4 = 1) : entryPreset bytes =
    if 2 ≤ fieldAt bytes 3 3 then some ⟨k, l, entryBody bytes, (bytes.getD 0 0).getLsbD 2⟩ else none := by
  rw [entryPreset_eq hslot hlocal, entryBody_periodic hkind]
  simp only [PresetBody.inRange, decide_eq_true_eq]

/-- A divided entry is kept when its parent and its divisor are in range (R205, R206). -/
theorem entryPreset_divided (hkind : (bytes.getD 0 0).toNat % 4 = 2) : entryPreset bytes =
    if (bytes.getD 3 0).toNat ≤ 15 ∧ 2 ≤ fieldAt bytes 4 2 ∧ fieldAt bytes 4 2 ≤ 256 then
      some ⟨k, l, entryBody bytes, (bytes.getD 0 0).getLsbD 2⟩ else none := by
  rw [entryPreset_eq hslot hlocal, entryBody_divided hkind]
  simp only [PresetBody.inRange, Bool.and_eq_true, decide_eq_true_eq, and_assoc]

end

/-- Settles O18: the reads of the header and of the table, the table entry by entry, and the end of the start-up. -/
theorem startUpReadJudged : Obligations.StartUpReadJudged := by
  refine ⟨fun s n hr hphase hlow hhigh => ⟨fun h hload => exec_loadReadComplete_header hr hphase hlow hhigh hload,
      fun settings mask kept skipped base => exec_loadReadComplete_tableEnd hr hphase hlow hhigh,
      fun settings mask kept skipped base bytes hload => exec_loadReadComplete_table hr hphase hlow hhigh hload⟩,
    fun fuel kept skipped base => ⟨fun hbase => readTable_tableEnd (readEntry_nil.trans (if_pos hbase)),
      fun hbase => readTable_more (readEntry_nil.trans (if_neg (Nat.not_le.2 hbase))),
      fun rest => readTable_tableEnd readEntry_zero,
      fun presence rest => readTable_by_entry fuel kept skipped base rest⟩,
    entrySize_eq, fun bytes => ⟨entryPreset_none, fun k l hslot hlocal => ⟨fun hkind => ?_, fun hkind => ?_⟩⟩,
    fun h => ⟨headerSettings_eq h, headerMask_toNat h⟩, fun status skipped d mask presets s => ?_,
    fun s hphase => ⟨fun ⟨b, hmask, hb⟩ => settleStartUp_probing hmask hb, settleStartUp_ended hphase⟩⟩
  · rw [entryPreset_periodic hslot hlocal hkind, entryBody_periodic hkind]
    exact ⟨fun hlow => if_neg (Nat.not_le.2 hlow), fun hrange => if_pos hrange⟩
  · rw [entryPreset_divided hslot hlocal hkind, entryBody_divided hkind]
    exact ⟨fun hout => if_neg (by omega), fun hparent hlow hhigh => if_pos ⟨hparent, hlow, hhigh⟩⟩
  · refine ⟨endLoading_loader status skipped d mask presets s, fun b hb => ?_, fun b hb => ?_,
      endLoading_frame status skipped d mask presets s⟩
    · rw [endLoading_board, endLoading_link, if_pos hb, if_pos hb]
      exact ⟨rfl, rfl⟩
    · rw [endLoading_board, endLoading_link, hb]
      exact ⟨rfl, rfl⟩

end Sys2Proof.Machine
end

section
/-! SUPPORT. A step by what waits in the queue: idling with no command waiting, and the command at the front otherwise
(00_scope.md, Conventions). -/

namespace Sys2Proof.Machine

/-- With no command waiting the block idles (the model's choice, assumption 3). -/
theorem step_of_pending_nil {s : State} (hidle : s.pending = []) : step s = .next s := by
  rw [step, hidle]

/-- With commands waiting, the one at the front is executed on the state that keeps the rest. -/
theorem step_of_pending_cons {s : State} {c : Instr} {rest : List Instr} (hfront : s.pending = c :: rest) :
    step s = exec c { s with pending := rest } := by
  rw [step, hfront]

/-- Settles O1: a queue with the command put at its front, and an empty queue. -/
theorem stepRunsFrontCommand : Obligations.StepRunsFrontCommand :=
  ⟨fun _ _ => step_of_pending_cons rfl, fun _ => step_of_pending_nil⟩

end Sys2Proof.Machine
end


section
/-! SUPPORT. The invariants of the step pipes, the clocks and the groups (R4 to R8, R73, R106), slot by slot: what each
says, what it reads, and when two states keep all three. -/

namespace Sys2Proof.Machine

/-! ## What the invariants read -/

/-- What the three invariants read of a partition, but for the group stops that wait at it. -/
def Partition.core (p : Partition) :
    PartState × List PipeEntry × Nat × Nat × Nat × Snapshot × Option StopPoint × Option Group :=
  (p.state, p.pipe, p.weff, p.firedFrontier, p.vt, p.fired, p.stop, p.group)

theorem Partition.core_eq_iff {p q : Partition} : q.core = p.core ↔ q.state = p.state ∧ q.pipe = p.pipe
    ∧ q.weff = p.weff ∧ q.firedFrontier = p.firedFrontier ∧ q.vt = p.vt ∧ q.fired = p.fired ∧ q.stop = p.stop
    ∧ q.group = p.group := by simp [Partition.core]

theorem Partition.frontier_congr {p q : Partition} (hpipe : q.pipe = p.pipe) (hfired : q.firedFrontier = p.firedFrontier) :
    q.frontier = p.frontier := by
  simp only [Partition.frontier, hpipe, hfired]

/-- The presets that an OPEN has still to apply (R57). -/
def openingTodo : Option Work → Option (List Preset)
  | some (.opening todo _ _ _ _) => some todo
  | _ => none

/-- Whether a port works a RECOVER (R102). -/
def recovers : Option Work → Bool
  | some (.recovering _) => true
  | _ => false

theorem isRecovering_eq (k : Slot) (s : State) : isRecovering k s = recovers (s.port k).work := by
  unfold isRecovering recovers
  cases (s.port k).work with
  | none => rfl
  | some w => cases w <;> rfl

/-- From work `w` to work `w'` no OPEN and no RECOVER begins, and no preset is added. -/
structure WorkKept (w w' : Option Work) : Prop where
  todo    : ∀ todo', openingTodo w' = some todo' → ∃ todo, openingTodo w = some todo ∧ todo' ⊆ todo
  recover : recovers w' = true → recovers w = true

theorem WorkKept.of_eq {w w' : Option Work} (h : w' = w) : WorkKept w w' := by
  subst h
  exact ⟨fun todo h => ⟨todo, h, List.Subset.refl _⟩, id⟩

/-- Work that is neither an OPEN nor a RECOVER. -/
theorem WorkKept.of_plain {w w' : Option Work} (htodo : openingTodo w' = none) (hrecover : recovers w' = false) :
    WorkKept w w' :=
  ⟨fun _ h => by simp [htodo] at h, fun h => by simp [hrecover] at h⟩

/-! ## Pipes -/

/-- The shape of a pipe (R106) whose FIRED entries are `old` and whose others are `young`. -/
structure PipeParts (fired : Nat) (old young : List PipeEntry) : Prop where
  old_fired     : ∀ e ∈ old, e.stage = .fired
  young_unfired : ∀ e ∈ young, e.stage ≠ .fired
  old_le        : old.length ≤ fired
  old_numbers   : old.map PipeEntry.number = List.range' (fired + 1 - old.length) old.length
  young_numbers : young.map PipeEntry.number = List.range' (fired + 1) young.length

theorem pipeShape_iff (fired : Nat) (pipe : List PipeEntry) :
    pipeShape fired pipe = true ↔ ∃ old young, pipe = old ++ young ∧ PipeParts fired old young := by
  have hrange {m n : Nat} (h : m ≤ fired) :
      List.range' (fired + 1 - m) (m + n) = List.range' (fired + 1 - m) m ++ List.range' (fired + 1) n := by
    rw [← List.range'_append_1, show fired + 1 - m + m = fired + 1 by omega]
  constructor
  · intro h
    simp only [pipeShape, Bool.and_eq_true, decide_eq_true_eq, List.all_eq_true, bne_iff_ne, beq_iff_eq] at h
    obtain ⟨⟨hle, hyoung⟩, hnumbers⟩ := h
    have hsplit := List.takeWhile_append_dropWhile (p := fun e : PipeEntry => e.stage == .fired) (l := pipe)
    have hdrop : pipe.drop (firedCount pipe) = pipe.dropWhile fun e => e.stage == .fired := by
      have := List.drop_left (l₁ := pipe.takeWhile fun e => e.stage == .fired)
        (l₂ := pipe.dropWhile fun e => e.stage == .fired)
      rwa [hsplit] at this
    have hlength : pipe.length = firedCount pipe + (pipe.dropWhile fun e => e.stage == .fired).length := by
      conv_lhs => rw [← hsplit, List.length_append]
      rfl
    rw [hlength, hrange hle, ← hsplit, List.map_append, hsplit] at hnumbers
    obtain ⟨hold, hyoung'⟩ := List.append_inj hnumbers (by simp [firedCount])
    exact ⟨_, _, hsplit.symm, fun e he => by simpa using List.mem_takeWhile_imp he, fun e he => hyoung e (hdrop ▸ he),
      hle, hold, hyoung'⟩
  · rintro ⟨old, young, rfl, hold, hyoung, hle, holdNumbers, hyoungNumbers⟩
    have hcount : firedCount (old ++ young) = old.length := by
      unfold firedCount
      rw [List.takeWhile_append_of_pos fun e he => by simp [hold e he]]
      cases young with
      | nil => simp
      | cons e es => simp [hyoung e List.mem_cons_self]
    simp only [pipeShape, hcount, Bool.and_eq_true, decide_eq_true_eq, List.all_eq_true, bne_iff_ne, beq_iff_eq]
    refine ⟨⟨hle, fun e he => hyoung e (by simpa using he)⟩, ?_⟩
    rw [List.map_append, holdNumbers, hyoungNumbers, List.length_append, hrange hle]

/-- The frontier of a pipe of that shape (R105, R106). -/
theorem PipeParts.frontier {p : Partition} {old young : List PipeEntry} (hp : p.pipe = old ++ young)
    (h : PipeParts p.firedFrontier old young) : p.frontier = p.firedFrontier + young.length := by
  have hlast (es : List PipeEntry) (a : Nat) (hes : es ≠ []) (hn : es.map PipeEntry.number = List.range' a es.length) :
      ∃ e, es.getLast? = some e ∧ e.number = a + es.length - 1 := by
    have hlast := congrArg List.getLast? hn
    rw [List.getLast?_map, List.getLast?_range', if_neg (by simpa using hes)] at hlast
    exact Option.map_eq_some_iff.1 hlast
  unfold Partition.frontier
  rw [hp]
  by_cases hyoung : young = []
  · subst hyoung
    by_cases hold : old = []
    · simp [hold]
    · obtain ⟨e, he, hnumber⟩ := hlast old _ hold h.old_numbers
      have := h.old_le
      simp only [List.append_nil, he, hnumber, List.length_nil]
      omega
  · obtain ⟨e, he, hnumber⟩ := hlast young _ hyoung h.young_numbers
    rw [List.getLast?_append_of_ne_nil _ hyoung, he]
    dsimp only
    omega

theorem PipeParts.nil (fired : Nat) : PipeParts fired [] [] := by constructor <;> simp

theorem PipeParts.lt_of_mem_old {fired : Nat} {old young : List PipeEntry} (h : PipeParts fired old young)
    {e : PipeEntry} (he : e ∈ old) : e.number ≤ fired := by
  have := List.mem_map_of_mem (f := PipeEntry.number) he
  rw [h.old_numbers, List.mem_range'_1] at this
  have := h.old_le
  omega

theorem PipeParts.gt_of_mem_young {fired : Nat} {old young : List PipeEntry} (h : PipeParts fired old young)
    {e : PipeEntry} (he : e ∈ young) : fired < e.number := by
  have := List.mem_map_of_mem (f := PipeEntry.number) he
  rw [h.young_numbers, List.mem_range'_1] at this
  omega

/-- A change of the entries that leaves their numbers and whether they are FIRED. -/
theorem PipeParts.map {fired : Nat} {old young : List PipeEntry} (h : PipeParts fired old young)
    {f : PipeEntry → PipeEntry} (hnumber : ∀ e, (f e).number = e.number)
    (hstage : ∀ e, (f e).stage = .fired ↔ e.stage = .fired) : PipeParts fired (old.map f) (young.map f) := by
  have hmap (es : List PipeEntry) : (es.map f).map PipeEntry.number = es.map PipeEntry.number := by simp [hnumber]
  obtain ⟨hold, hyoung, hle, holdNumbers, hyoungNumbers⟩ := h
  refine ⟨?_, ?_, by simpa using hle, by simpa [hmap] using holdNumbers, by simpa [hmap] using hyoungNumbers⟩
  · simpa [hstage] using hold
  · simpa [hstage] using hyoung

/-- An entry that has fired (R114). -/
def PipeEntry.nowFired (e : PipeEntry) : PipeEntry := { e with stage := .fired }

/-- The oldest entry not FIRED becomes FIRED (R114). -/
theorem PipeParts.fire {fired : Nat} {old rest : List PipeEntry} {e : PipeEntry}
    (h : PipeParts fired old (e :: rest)) : e.number = fired + 1
      ∧ updateEntry e.number PipeEntry.nowFired (old ++ e :: rest)
        = (old ++ [e.nowFired]) ++ rest
      ∧ PipeParts (fired + 1) (old ++ [e.nowFired]) rest := by
  obtain ⟨hold, hyoung, hle, holdNumbers, hyoungNumbers⟩ := id h
  rw [List.map_cons, List.length_cons, List.range'_succ, List.cons.injEq] at hyoungNumbers
  obtain ⟨hnumber, hrest⟩ := hyoungNumbers
  refine ⟨hnumber, ?_, ?_, fun x hx => hyoung x (List.mem_cons_of_mem e hx), by simpa using hle, ?_, hrest⟩
  · have hsame {es : List PipeEntry} (hes : ∀ x ∈ es, x.number ≠ e.number) :
        updateEntry e.number PipeEntry.nowFired es = es :=
      List.map_congr_left (g := id) (fun x hx => if_neg (hes x hx)) |>.trans (List.map_id es)
    have hbefore : ∀ x ∈ old, x.number ≠ e.number := fun x hx => by
      have := h.lt_of_mem_old hx
      omega
    have hafter : ∀ x ∈ rest, x.number ≠ e.number := fun x hx => by
      have := List.mem_map_of_mem (f := PipeEntry.number) hx
      rw [hrest, List.mem_range'_1] at this
      omega
    calc updateEntry e.number PipeEntry.nowFired (old ++ e :: rest)
      _ = updateEntry e.number .nowFired old ++ e.nowFired :: updateEntry e.number .nowFired rest := by
        simp [updateEntry]
      _ = _ := by rw [hsame hbefore, hsame hafter, List.append_assoc, List.singleton_append]
  · simpa [or_imp, forall_and, PipeEntry.nowFired] using hold
  · rw [List.map_append, holdNumbers, List.length_append, List.length_singleton, ← List.range'_append_1]
    simp only [List.map_cons, List.map_nil, PipeEntry.nowFired, hnumber, List.range'_one]
    congr 2 <;> omega

/-- The oldest entries leave, all of them FIRED (R119). -/
theorem PipeParts.drop {fired : Nat} {old young : List PipeEntry} (h : PipeParts fired old young) (n : Nat) :
    PipeParts fired (old.drop n) young := by
  obtain ⟨hold, hyoung, hle, holdNumbers, hyoungNumbers⟩ := h
  refine ⟨fun e he => hold e (List.mem_of_mem_drop he), hyoung, ?_, ?_, hyoungNumbers⟩
  · rw [List.length_drop]
    omega
  · rw [List.map_drop, holdNumbers]
    refine List.ext_getElem (by simp) fun i hi _ => ?_
    simp only [List.length_drop, List.length_range'] at hi
    simp only [List.getElem_drop, List.getElem_range', List.length_drop]
    omega

/-- A step appended follows the frontier (R47, R108). -/
theorem PipeParts.append {fired : Nat} {old young : List PipeEntry} {e : PipeEntry} (h : PipeParts fired old young)
    (hstage : e.stage ≠ .fired) (hnumber : e.number = fired + young.length + 1) :
    PipeParts fired old (young ++ [e]) := by
  obtain ⟨hold, hyoung, hle, holdNumbers, hyoungNumbers⟩ := h
  refine ⟨hold, ?_, hle, holdNumbers, ?_⟩
  · simpa [or_imp, forall_and, hstage] using hyoung
  · rw [List.map_append, hyoungNumbers, List.length_append, List.length_singleton, ← List.range'_append_1]
    simp only [List.map_cons, List.map_nil, hnumber, List.range'_one]
    congr 2
    omega

/-- The steps above `n` that are not FIRED are discarded (R120). -/
theorem PipeParts.cut {fired : Nat} {old young : List PipeEntry} (h : PipeParts fired old young) (n : Nat) :
    ((old ++ young).filter fun e => e.stage == .fired || decide (e.number ≤ n)) = old ++ young.take (n - fired)
      ∧ PipeParts fired old (young.take (n - fired)) := by
  have htake (es : List PipeEntry) (a : Nat) (hn : es.map PipeEntry.number = List.range' a es.length)
      (hes : ∀ e ∈ es, e.stage ≠ .fired) :
      (es.filter fun e => e.stage == .fired || decide (e.number ≤ n)) = es.take (n + 1 - a) := by
    induction es generalizing a with
    | nil => simp
    | cons e es ih =>
      rw [List.map_cons, List.length_cons, List.range'_succ, List.cons.injEq] at hn
      have hrest := ih (a + 1) hn.2 fun x hx => hes x (List.mem_cons_of_mem e hx)
      by_cases hle : a ≤ n
      · rw [show n + 1 - a = (n + 1 - (a + 1)) + 1 by omega, List.take_succ_cons, ← hrest]
        simp [hn.1, hle]
      · rw [show n + 1 - (a + 1) = 0 by omega, List.take_zero] at hrest
        rw [show n + 1 - a = 0 by omega, List.take_zero, List.filter_cons_of_neg, hrest]
        simp [hn.1, hle, hes e List.mem_cons_self]
  obtain ⟨hold, hyoung, hle, holdNumbers, hyoungNumbers⟩ := h
  refine ⟨?_, hold, fun e he => hyoung e (List.mem_of_mem_take he), hle, holdNumbers, ?_⟩
  · rw [List.filter_append, List.filter_eq_self.2 fun e he => by simp [hold e he], htake young _ hyoungNumbers hyoung,
      show n + 1 - (fired + 1) = n - fired by omega]
  · rw [List.map_take, hyoungNumbers]
    exact List.ext_getElem (by simp) fun i _ _ => by simp

/-- What `pipeInvAt` tests of a partition, of the work item for it and of the work of its port. -/
structure PipeSoundAt (s : State) (k : Slot) : Prop where
  shape   : ∃ old young, (s.part k).pipe = old ++ young ∧ PipeParts (s.part k).firedFrontier old young
  rest    : (s.part k).state.isRun = false → (s.part k).pipe = []
  window  : (s.part k).state.isRun = true → (s.part k).pipe.length ≤ (s.part k).weff
  point   : ∀ point, (s.part k).stop = some point → (s.part k).state.isRun = true →
    (s.part k).frontier ≤ max point.step (s.part k).firedFrontier
  item    : ∀ w, s.engine.item = some w → w.slot = k → w.void = false →
    (s.part k).state.isRun = true ∧ w.frontier = (s.part k).frontier ∧ (s.part k).pipe.length < (s.part k).weff
  recover : recovers (s.port k).work = true → (s.part k).state = .faulted

/-- The pipe of a partition in a run. -/
theorem PipeSoundAt.of_run {s : State} {k : Slot} {old young : List PipeEntry}
    (hsplit : (s.part k).pipe = old ++ young) (hparts : PipeParts (s.part k).firedFrontier old young)
    (hrun : (s.part k).state.isRun = true) (hwindow : (s.part k).pipe.length ≤ (s.part k).weff)
    (hpoint : ∀ point, (s.part k).stop = some point →
      (s.part k).firedFrontier + young.length ≤ max point.step (s.part k).firedFrontier)
    (hitem : ∀ w, s.engine.item = some w → w.slot = k → w.void = false →
      w.frontier = (s.part k).firedFrontier + young.length ∧ (s.part k).pipe.length < (s.part k).weff)
    (hrecover : recovers (s.port k).work = false) : PipeSoundAt s k := by
  have hfrontier := hparts.frontier hsplit
  constructor
  · exact ⟨old, young, hsplit, hparts⟩
  · exact fun h => by simp [hrun] at h
  · exact fun _ => hwindow
  · exact fun point h _ => hfrontier ▸ hpoint point h
  · exact fun w hw hslot hvoid => ⟨hrun, hfrontier ▸ hitem w hw hslot hvoid⟩
  · exact fun h => by simp [hrecover] at h

/-- No RECOVER is worked during a run (R102). -/
theorem PipeSoundAt.recovers_of_run {s : State} {k : Slot} (hs : PipeSoundAt s k)
    (hrun : (s.part k).state.isRun = true) : recovers (s.port k).work = false := by
  by_contra h
  simp [hs.recover (by simpa using h), PartState.isRun] at hrun

theorem pipeInvAt_iff (s : State) (k : Slot) : pipeInvAt s k = true ↔ PipeSoundAt s k := by
  have hiff : pipeInvAt s k = true ↔ (∃ old young, (s.part k).pipe = old ++ young
        ∧ PipeParts (s.part k).firedFrontier old young)
      ∧ ((s.part k).state.isRun = false → (s.part k).pipe = [])
      ∧ ((s.part k).state.isRun = true → (s.part k).pipe.length ≤ (s.part k).weff)
      ∧ (∀ point, (s.part k).stop = some point → (s.part k).state.isRun = true →
        (s.part k).frontier ≤ max point.step (s.part k).firedFrontier)
      ∧ (∀ w, s.engine.item = some w → w.slot = k → w.void = false →
        (s.part k).state.isRun = true ∧ w.frontier = (s.part k).frontier ∧ (s.part k).pipe.length < (s.part k).weff)
      ∧ (recovers (s.port k).work = true → (s.part k).state = .faulted) := by
    rw [pipeInvAt, isRecovering_eq, ← pipeShape_iff]
    cases (s.part k).stop <;> cases s.engine.item <;> cases (s.part k).state.isRun <;>
      cases recovers (s.port k).work <;> simp [and_assoc, or_iff_not_imp_left]
  rw [hiff]
  exact ⟨fun ⟨a, b, c, d, e, f⟩ => ⟨a, b, c, d, e, f⟩, fun ⟨a, b, c, d, e, f⟩ => ⟨a, b, c, d, e, f⟩⟩

/-! ## Clocks -/

/-- Time `v` lies in virtual time, and the clocks of `snap` are sound after it (R1, R41). -/
def SoundAfter (v : Nat) (snap : Snapshot) : Prop := v ≤ Config.maxTime ∧ soundClocks v snap = true

/-- What `clockInvAt` tests of a partition and of the OPEN that its port works. -/
structure ClockSoundAt (s : State) (k : Slot) : Prop where
  fired   : SoundAfter (s.part k).vt (s.part k).fired
  pipe    : ∀ e ∈ (s.part k).pipe, SoundAfter e.time e.post
  opening : ∀ todo, openingTodo (s.port k).work = some todo →
    (∀ p ∈ todo, p.sound = true) ∧ (s.part k).vt = 0 ∧ (s.part k).state.isRun = false ∧ (s.part k).group = none

theorem openingSound_iff (s : State) (k : Slot) : openingSound s k = true ↔
    ∀ todo, openingTodo (s.port k).work = some todo →
      (∀ p ∈ todo, p.sound = true) ∧ (s.part k).vt = 0 ∧ (s.part k).state.isRun = false ∧ (s.part k).group = none := by
  unfold openingSound openingTodo
  cases (s.port k).work with
  | none => simp
  | some w => cases w <;> simp [and_assoc]

theorem clockInvAt_iff (s : State) (k : Slot) : clockInvAt s k = true ↔ ClockSoundAt s k := by
  have hiff : clockInvAt s k = true ↔ SoundAfter (s.part k).vt (s.part k).fired
      ∧ (∀ e ∈ (s.part k).pipe, SoundAfter e.time e.post) ∧ openingSound s k = true := by
    simp [clockInvAt, SoundAfter, and_assoc]
  rw [hiff, openingSound_iff]
  exact ⟨fun ⟨a, b, c⟩ => ⟨a, b, c⟩, fun ⟨a, b, c⟩ => ⟨a, b, c⟩⟩

/-- The presets and the engine's working copy: what `ClockInv` says beside the partitions. -/
structure SharedSound (s : State) : Prop where
  presets : presetInv s = true
  copy    : workInv s = true

theorem clockInv_iff (s : State) : ClockInv s ↔ (∀ k, ClockSoundAt s k) ∧ SharedSound s := by
  unfold ClockInv
  simp only [clockInvAt_iff]
  exact ⟨fun ⟨a, b, c⟩ => ⟨a, b, c⟩, fun ⟨a, b, c⟩ => ⟨a, b, c⟩⟩

/-! ## Groups -/

/-- A group stop waits at partition `k` only in a group. -/
def GroupSoundAt (s : State) (k : Slot) : Prop := (s.part k).groupStops ≠ [] → (s.part k).group ≠ none

/-! ## Slots left alone -/

/-- A work item of slot `k` that is not void stands in `t` only as it stood in `s`. -/
def ItemKept (k : Slot) (s t : State) : Prop :=
  ∀ w', t.engine.item = some w' → w'.slot = k → w'.void = false →
    ∃ w, s.engine.item = some w ∧ w.slot = k ∧ w.void = false ∧ w.frontier = w'.frontier

theorem ItemKept.of_eq {k : Slot} {s t : State} (h : t.engine.item = s.engine.item) : ItemKept k s t :=
  fun w' hw' hslot hvoid => ⟨w', h ▸ hw', hslot, hvoid, rfl⟩

theorem ItemKept.of_none {k : Slot} {s t : State} (h : t.engine.item = none) : ItemKept k s t :=
  fun w' hw' => by simp [h] at hw'

theorem ItemKept.voidWork (j k : Slot) (s : State) : ItemKept k s (voidWork j s) := by
  intro w' hw' hslot hvoid
  obtain ⟨w, hw, heq⟩ := Option.map_eq_some_iff.1 hw'
  by_cases hj : w.slot = j
  · rw [if_pos hj] at heq
    simp [← heq] at hvoid
  · rw [if_neg hj] at heq
    exact ⟨w, hw, heq ▸ hslot, heq ▸ hvoid, by rw [heq]⟩

/-- A partition whose work item has been made void has no other (R49). -/
theorem voidWork_item_void {k : Slot} {s : State} {w : WorkItem} (h : (voidWork k s).engine.item = some w)
    (hslot : w.slot = k) : w.void = true := by
  obtain ⟨w', -, heq⟩ := Option.map_eq_some_iff.1 h
  by_cases hj : w'.slot = k
  · rw [if_pos hj] at heq
    rw [← heq]
  · rw [if_neg hj] at heq
    exact absurd (heq ▸ hslot) hj

/-- From `s` to `t` nothing that the invariants read of slot `k` changes, but that a work item goes or becomes void, an
exchange ends, or a group stop is offered to a member of a group or taken. -/
structure BesideAt (k : Slot) (s t : State) : Prop where
  core  : (t.part k).core = (s.part k).core
  stops : (t.part k).groupStops ≠ [] → (s.part k).groupStops ≠ [] ∨ (s.part k).group ≠ none
  item  : ItemKept k s t
  work  : WorkKept (s.port k).work (t.port k).work

namespace BesideAt

variable {k : Slot} {s t : State}

theorem pipe (h : BesideAt k s t) (hs : PipeSoundAt s k) : PipeSoundAt t k := by
  obtain ⟨hstate, hpipe, hweff, hfired, -, -, hstop, -⟩ := Partition.core_eq_iff.1 h.core
  have hfrontier := Partition.frontier_congr hpipe hfired
  constructor
  · rw [hpipe, hfired]
    exact hs.shape
  · rw [hstate, hpipe]
    exact hs.rest
  · rw [hstate, hpipe, hweff]
    exact hs.window
  · rw [hstop, hstate, hfrontier, hfired]
    exact hs.point
  · intro w' hw' hslot hvoid
    obtain ⟨w, hw, hwslot, hwvoid, hwfrontier⟩ := h.item w' hw' hslot hvoid
    rw [hstate, hfrontier, hweff, ← hwfrontier, hpipe]
    exact hs.item w hw hwslot hwvoid
  · rw [hstate]
    exact fun hr => hs.recover (h.work.recover hr)

theorem clock (h : BesideAt k s t) (hs : ClockSoundAt s k) : ClockSoundAt t k := by
  obtain ⟨hstate, hpipe, -, -, hvt, hfired, -, hgroup⟩ := Partition.core_eq_iff.1 h.core
  constructor
  · rw [hvt, hfired]
    exact hs.fired
  · rw [hpipe]
    exact hs.pipe
  · intro todo' htodo'
    obtain ⟨todo, htodo, hsub⟩ := h.work.todo todo' htodo'
    obtain ⟨hall, hrest⟩ := hs.opening todo htodo
    rw [hvt, hstate, hgroup]
    exact ⟨fun p hp => hall p (hsub hp), hrest⟩

theorem group (h : BesideAt k s t) (hs : GroupSoundAt s k) : GroupSoundAt t k := by
  obtain ⟨-, -, -, -, -, -, -, hgroup⟩ := Partition.core_eq_iff.1 h.core
  intro hstops
  rw [hgroup]
  exact (h.stops hstops).elim hs id

end BesideAt

/-- What holds in `s` of the three invariants holds in `t`: the first, the second, the third. -/
structure Keeps (s t : State) : Prop where
  pipes  : (∀ k, PipeSoundAt s k) → ∀ k, PipeSoundAt t k
  clocks : (∀ k, ClockSoundAt s k) ∧ SharedSound s → (∀ k, ClockSoundAt t k) ∧ SharedSound t
  groups : (∀ k, GroupSoundAt s k) → ∀ k, GroupSoundAt t k

theorem Keeps.refl (s : State) : Keeps s s := ⟨id, id, id⟩

theorem Keeps.trans {s t u : State} (h : Keeps s t) (h' : Keeps t u) : Keeps s u :=
  ⟨h'.pipes ∘ h.pipes, h'.clocks ∘ h.clocks, h'.groups ∘ h.groups⟩

/-- `Keeps.trans` with the later change first. -/
theorem Keeps.after {s t u : State} (h' : Keeps t u) (h : Keeps s t) : Keeps s u := h.trans h'

/-- A change of slot `k` that leaves the other slots keeps the invariants when slot `k` keeps them. -/
theorem Keeps.of_slot {s t : State} (k : Slot) (hother : ∀ j, j ≠ k → BesideAt j s t)
    (hpipe : (∀ j, PipeSoundAt s j) → PipeSoundAt t k)
    (hclock : (∀ j, ClockSoundAt s j) → SharedSound s → ClockSoundAt t k ∧ SharedSound t)
    (hgroup : GroupSoundAt s k → GroupSoundAt t k) : Keeps s t where
  pipes h j := by
    by_cases hj : j = k
    · exact hj ▸ hpipe h
    · exact (hother j hj).pipe (h j)
  clocks h := by
    obtain ⟨hk, hshared⟩ := hclock h.1 h.2
    refine ⟨fun j => ?_, hshared⟩
    by_cases hj : j = k
    · exact hj ▸ hk
    · exact (hother j hj).clock (h.1 j)
  groups h j := by
    by_cases hj : j = k
    · exact hj ▸ hgroup (hj ▸ h j)
    · exact (hother j hj).group (h j)

/-- A change that leaves every slot. -/
theorem Keeps.of_beside {s t : State} (h : ∀ k, BesideAt k s t) (hshared : SharedSound s → SharedSound t) :
    Keeps s t :=
  ⟨fun hs k => (h k).pipe (hs k), fun hs => ⟨fun k => (h k).clock (hs.1 k), hshared hs.2⟩,
    fun hs k => (h k).group (hs k)⟩

/-! ## Single updates -/

theorem BesideAt.of_eq {k : Slot} {s t : State} (hpart : t.part k = s.part k) (hport : t.port k = s.port k)
    (hitem : ItemKept k s t) : BesideAt k s t :=
  ⟨by rw [hpart], fun h => .inl (hpart ▸ h), hitem, .of_eq (by rw [hport])⟩

theorem SharedSound.of_eq {s t : State} (h : SharedSound s) (hitem : t.engine.item = s.engine.item)
    (hpresets : t.loader.presets = s.loader.presets) (hload : t.loader.load = s.loader.load) : SharedSound t := by
  obtain ⟨hp, hc⟩ := h
  constructor
  · rwa [presetInv, hpresets, hload]
  · rwa [workInv, hitem]

/-- What leaves the partitions, the ports, the engine and the presets keeps the invariants. -/
theorem Keeps.of_eq {s t : State} (hparts : t.parts = s.parts) (hports : t.ports = s.ports)
    (hengine : t.engine = s.engine) (hpresets : t.loader.presets = s.loader.presets)
    (hload : t.loader.load = s.loader.load) : Keeps s t :=
  .of_beside (fun k => .of_eq (by rw [State.part, hparts, State.part]) (by rw [State.port, hports, State.port])
      (.of_eq (by rw [hengine])))
    fun h => h.of_eq (by rw [hengine]) hpresets hload

section
variable (s : State) (k : Slot) (b : Board)

theorem keeps_setBoard (r : BoardRecord) : Keeps s (s.setBoard b r) := .of_eq rfl rfl rfl rfl rfl
theorem keeps_setLink (l : Link) : Keeps s (s.setLink b l) := .of_eq rfl rfl rfl rfl rfl
theorem keeps_setRecord (i : Fin 48) (r : Option PoolRecord) : Keeps s (s.setRecord i r) := .of_eq rfl rfl rfl rfl rfl

theorem keeps_mapBoards (f : Board → BoardRecord → BoardRecord) : Keeps s (s.mapBoards f) :=
  .of_eq (State.mapBoards_parts s f) (State.mapBoards_ports s f) (State.mapBoards_engine s f)
    (by rw [State.mapBoards_loader]) (by rw [State.mapBoards_loader])

theorem keeps_mapLinks (f : Board → Link → Link) : Keeps s (s.mapLinks f) :=
  .of_eq (State.mapLinks_parts s f) (State.mapLinks_ports s f) (State.mapLinks_engine s f)
    (by rw [State.mapLinks_loader]) (by rw [State.mapLinks_loader])

theorem keeps_mapRecords (f : Option PoolRecord → Option PoolRecord) : Keeps s (s.mapRecords f) :=
  .of_eq (State.mapRecords_parts s f) (State.mapRecords_ports s f) (State.mapRecords_engine s f)
    (by rw [State.mapRecords_loader]) (by rw [State.mapRecords_loader])

variable {s k}

/-- A change of what the invariants do not read of a partition, or of the group stops that wait in a group. -/
theorem keeps_setPart {p : Partition} (hcore : p.core = (s.part k).core)
    (hstops : p.groupStops ≠ [] → (s.part k).groupStops ≠ [] ∨ (s.part k).group ≠ none) : Keeps s (s.setPart k p) := by
  refine .of_beside (fun j => ?_) fun h => h.of_eq rfl rfl rfl
  by_cases hj : j = k
  · subst hj
    refine ⟨?_, ?_, .of_eq rfl, .of_eq rfl⟩ <;> rw [State.setPart_part_self]
    · exact hcore
    · exact hstops
  · exact .of_eq (State.setPart_part_ne _ _ _ _ hj) rfl (.of_eq rfl)

/-- A change of what the invariants do not read of a partition, the group stops left too. -/
theorem keeps_updPart {f : Partition → Partition} (hcore : ∀ p, (f p).core = p.core)
    (hstops : ∀ p, (f p).groupStops = p.groupStops) : Keeps s (s.updPart k f) :=
  keeps_setPart (hcore _) fun h => .inl (hstops _ ▸ h)

/-- A change of a port that begins no OPEN and no RECOVER. -/
theorem keeps_setPort {p : Port} (hwork : WorkKept (s.port k).work p.work) : Keeps s (s.setPort k p) := by
  refine .of_beside (fun j => ?_) fun h => h.of_eq rfl rfl rfl
  by_cases hj : j = k
  · subst hj
    exact ⟨rfl, .inl, .of_eq rfl, by rwa [State.setPort_port_self]⟩
  · exact .of_eq rfl (State.setPort_port_ne _ _ _ _ hj) (.of_eq rfl)

/-- A change of a port that leaves its work. -/
theorem keeps_updPort {f : Port → Port} (hwork : ∀ p, (f p).work = p.work) : Keeps s (s.updPort k f) :=
  keeps_setPort (.of_eq (hwork _))

theorem keeps_voidWork (k : Slot) (s : State) : Keeps s (voidWork k s) := by
  refine .of_beside (fun j => .of_eq rfl rfl (.voidWork k j s)) fun ⟨hp, hc⟩ => ⟨hp, ?_⟩
  unfold workInv voidWork at *
  cases hitem : s.engine.item with
  | none => rfl
  | some w =>
    rw [hitem] at hc
    dsimp only [Option.map_some]
    split
    · exact hc
    · exact hc

theorem keeps_respond (st : Status) (c : Bool) (body : List Byte) (s : State) : Keeps s (respond k st c body s) :=
  keeps_setPort (.of_plain rfl rfl)

theorem keeps_refuse (st : Status) (s : State) : Keeps s (refuse k st s) := keeps_respond st false [] s

end

end Sys2Proof.Machine
end


section
/-! SUPPORT. The operations of the step pipe and of run control keep the invariants of the pipes, the clocks and the groups
(R106): first the kinds of change a partition can make, then each operation as one of them. -/

namespace Sys2Proof.Machine

/-! ## Changes of one partition -/

section
variable {s : State} {k : Slot} {p : Partition}

/-- One partition replaced, and nothing else. -/
theorem keeps_setPart_of (hpipe : PipeSoundAt s k → PipeSoundAt (s.setPart k p) k)
    (hclock : ClockSoundAt s k → SharedSound s → ClockSoundAt (s.setPart k p) k)
    (hgroup : GroupSoundAt s k → GroupSoundAt (s.setPart k p) k) : Keeps s (s.setPart k p) :=
  .of_slot k (fun _ hj => .of_eq (State.setPart_part_ne _ _ _ _ hj) rfl (.of_eq rfl)) (fun h => hpipe (h k))
    (fun h hshared => ⟨hclock (h k) hshared, hshared.of_eq rfl rfl rfl⟩) hgroup

theorem groupSoundAt_setPart (hgroup : p.group = (s.part k).group) (hstops : p.groupStops = (s.part k).groupStops)
    (h : GroupSoundAt s k) : GroupSoundAt (s.setPart k p) k := by
  unfold GroupSoundAt at *
  rwa [State.setPart_part_self, hgroup, hstops]

/-- The pipe of a run changed with its frontier left: entries fire, are marked or retire (R109, R114, R117, R119). -/
structure Partition.Repiped (p q : Partition) : Prop where
  run   : q.state = p.state ∧ q.weff = p.weff ∧ q.stop = p.stop
  group : q.group = p.group ∧ q.groupStops = p.groupStops
  pipe  : ∀ old young, p.pipe = old ++ young → PipeParts p.firedFrontier old young → ∃ old' young',
    q.pipe = old' ++ young' ∧ PipeParts q.firedFrontier old' young' ∧ q.pipe.length ≤ p.pipe.length
      ∧ q.firedFrontier + young'.length = p.firedFrontier + young.length ∧ p.firedFrontier ≤ q.firedFrontier
  times : SoundAfter p.vt p.fired → (∀ e ∈ p.pipe, SoundAfter e.time e.post) →
    SoundAfter q.vt q.fired ∧ ∀ e ∈ q.pipe, SoundAfter e.time e.post
  vt    : q.vt = p.vt ∨ p.state.isRun = true

theorem keeps_repiped (h : (s.part k).Repiped p) : Keeps s (s.setPart k p) := by
  obtain ⟨⟨hstate, hweff, hstop⟩, ⟨hgroup, hstops⟩, hpipe, htimes, hvt⟩ := h
  refine keeps_setPart_of (fun hs => ?_) (fun hs _ => ?_) (groupSoundAt_setPart hgroup hstops)
  · obtain ⟨old, young, hsplit, hparts⟩ := hs.shape
    obtain ⟨old', young', hsplit', hparts', hlength, hsame, hle⟩ := hpipe old young hsplit hparts
    have hfrontier : p.frontier = (s.part k).frontier := by
      rw [hparts.frontier hsplit, hparts'.frontier hsplit', hsame]
    constructor
    all_goals rw [State.setPart_part_self]
    · exact ⟨old', young', hsplit', hparts'⟩
    · rw [hstate]
      intro hrest
      rw [hs.rest hrest, List.length_nil, Nat.le_zero, List.length_eq_zero_iff] at hlength
      exact hlength
    · rw [hstate, hweff]
      exact fun hrun => hlength.trans (hs.window hrun)
    · rw [hstop, hstate, hfrontier]
      intro point hpoint hrun
      have := hs.point point hpoint hrun
      omega
    · intro w hw hslot hvoid
      obtain ⟨hrun, hwork, hroom⟩ := hs.item w hw hslot hvoid
      rw [hstate, hfrontier, hweff]
      exact ⟨hrun, hwork, hlength.trans_lt hroom⟩
    · rw [hstate]
      exact hs.recover
  · obtain ⟨hfired, hposts⟩ := htimes hs.fired hs.pipe
    constructor
    all_goals rw [State.setPart_part_self]
    · exact hfired
    · exact hposts
    · intro todo htodo
      obtain ⟨hall, hzero, hrest, hnone⟩ := hs.opening todo htodo
      rw [hstate, hgroup, hvt.resolve_right (by simp [hrest])]
      exact ⟨hall, hzero, hrest, hnone⟩

/-- A partition that is in no run, and enters none, changed. -/
theorem keeps_still (hrest : PipeSoundAt s k → (s.part k).state.isRun = false) (hrun : p.state.isRun = false)
    (hpipe : p.pipe = (s.part k).pipe) (hrecover : recovers (s.port k).work = true → p.state = (s.part k).state)
    (hclock : ClockSoundAt s k → SharedSound s → SoundAfter p.vt p.fired
      ∧ ∀ todo, openingTodo (s.port k).work = some todo → p.vt = 0 ∧ p.group = none)
    (hgroup : GroupSoundAt s k → p.groupStops ≠ [] → p.group ≠ none) : Keeps s (s.setPart k p) := by
  refine keeps_setPart_of (fun hs => ?_) (fun hs hshared => ?_) fun hs => ?_
  · have hnil : p.pipe = [] := hpipe.trans (hs.rest (hrest hs))
    constructor
    all_goals rw [State.setPart_part_self]
    · exact ⟨[], [], hnil, .nil _⟩
    · exact fun _ => hnil
    · exact fun h => by simp [hrun] at h
    · exact fun _ _ h => by simp [hrun] at h
    · intro w hw hslot hvoid
      have := (hs.item w hw hslot hvoid).1
      simp [hrest hs] at this
    · exact fun h => (hrecover h).trans (hs.recover h)
  · obtain ⟨hfired, hopening⟩ := hclock hs hshared
    constructor
    all_goals rw [State.setPart_part_self]
    · exact hfired
    · exact hpipe ▸ hs.pipe
    · exact fun todo htodo => ⟨(hs.opening todo htodo).1, (hopening todo htodo).1, hrun, (hopening todo htodo).2⟩
  · unfold GroupSoundAt
    rw [State.setPart_part_self]
    exact hgroup hs

/-- The clocks in the fired state changed (R2). -/
theorem keeps_updFired {f : Snapshot → Snapshot}
    (h : ClockSoundAt s k → SharedSound s → SoundAfter (s.part k).vt (f (s.part k).fired)) :
    Keeps s (s.updFired k f) := by
  refine keeps_setPart_of (fun hs => ?_) (fun hs hshared => ?_) (groupSoundAt_setPart rfl rfl)
  · constructor
    all_goals rw [State.setPart_part_self]
    exacts [hs.shape, hs.rest, hs.window, hs.point, hs.item, hs.recover]
  · constructor
    all_goals rw [State.setPart_part_self]
    exacts [h hs hshared, hs.pipe, hs.opening]

/-- A run that goes on in another run state. -/
theorem keeps_runState {st : PartState} (hrun : (s.part k).state.isRun = true) (hst : st.isRun = true) :
    Keeps s (s.setPart k { s.part k with state := st }) := by
  refine keeps_setPart_of (fun hs => ?_) (fun hs _ => ?_) (groupSoundAt_setPart rfl rfl)
  · constructor
    all_goals rw [State.setPart_part_self]
    · exact hs.shape
    · exact fun h => by simp [hst] at h
    · exact fun _ => hs.window hrun
    · exact fun point hpoint _ => hs.point point hpoint hrun
    · exact fun w hw hslot hvoid => ⟨hst, (hs.item w hw hslot hvoid).2⟩
    · exact fun h => by simp [hs.recover h, PartState.isRun] at hrun
  · constructor
    all_goals rw [State.setPart_part_self]
    · exact hs.fired
    · exact hs.pipe
    · exact fun todo htodo => by simp [(hs.opening todo htodo).2.2.1] at hrun

/-- A run that ends with its pipe empty, and any work item void (R49). -/
theorem keeps_runEnded (hrun : p.state.isRun = false) (hnil : PipeSoundAt s k → p.pipe = [])
    (hsub : p.pipe ⊆ (s.part k).pipe)
    (hrecover : PipeSoundAt s k → recovers (s.port k).work = true → p.state = .faulted)
    (hclock : p.vt = (s.part k).vt ∧ p.fired = (s.part k).fired)
    (hgroup : p.group = (s.part k).group ∧ p.groupStops = (s.part k).groupStops) :
    Keeps s (voidWork k (s.setPart k p)) := by
  refine .of_slot k (fun j hj => .of_eq (State.setPart_part_ne _ _ _ _ hj) rfl (.voidWork k j s)) (fun h => ?_)
    (fun h hshared => ⟨?_, ((keeps_voidWork k s).clocks ⟨h, hshared⟩).2.of_eq rfl rfl rfl⟩)
    (groupSoundAt_setPart hgroup.1 hgroup.2)
  · constructor
    all_goals rw [voidWork_part, State.setPart_part_self]
    · exact ⟨[], [], hnil (h k), .nil _⟩
    · exact fun _ => hnil (h k)
    · exact fun h => by simp [hrun] at h
    · exact fun _ _ h => by simp [hrun] at h
    · exact fun w hw hslot hvoid => by simp [voidWork_item_void hw hslot] at hvoid
    · exact hrecover (h k)
  · have hs := h k
    constructor
    all_goals rw [voidWork_part, State.setPart_part_self]
    · rw [hclock.1, hclock.2]
      exact hs.fired
    · exact fun e he => hs.pipe e (hsub he)
    · intro todo htodo
      obtain ⟨hall, hzero, -, hnone⟩ := hs.opening todo htodo
      rw [hclock.1, hgroup.1]
      exact ⟨hall, hzero, hrun, hnone⟩

end

/-! ## Firing, marking and retirement -/

/-- What fires is the oldest entry not FIRED, in RUNNING or STOPPING (R113). -/
theorem Partition.fireable_eq_some {p : Partition} {e : PipeEntry} (h : p.fireable = some e) :
    oldestUnfired p.pipe = some e ∧ (p.state = .running ∨ p.state = .stopping) := by
  unfold Partition.fireable at h
  split at h
  · cases h
  · split_ifs at h with hc
    cases h
    exact ⟨‹_›, hc.2.1⟩

section
variable (s : State) (k : Slot)

/-- The fire of the oldest entry keeps the frontier, and takes the entry's time and clocks (R114). -/
theorem Partition.repiped_fire {p q : Partition} {e : PipeEntry} (he : p.fireable = some e) (hq : q.core = (p.state,
      updateEntry e.number PipeEntry.nowFired p.pipe, p.weff, e.number, e.time, e.post, p.stop, p.group))
    (hstops : q.groupStops = p.groupStops) : p.Repiped q := by
  obtain ⟨hold, hstate⟩ := Partition.fireable_eq_some he
  have hmem : e ∈ p.pipe := List.mem_of_find?_eq_some hold
  simp only [Partition.core, Prod.mk.injEq] at hq
  obtain ⟨hqstate, hqpipe, hqweff, hqfrontier, hqvt, hqfired, hqstop, hqgroup⟩ := hq
  refine ⟨⟨hqstate, hqweff, hqstop⟩, ⟨hqgroup, hstops⟩, fun old young hsplit hparts => ?_, fun _ hposts => ⟨?_, ?_⟩, ?_⟩
  · cases young with
    | nil =>
      rw [hsplit, List.append_nil] at hold
      have := List.find?_some hold
      simp [hparts.old_fired e (List.mem_of_find?_eq_some hold)] at this
    | cons x rest =>
      rw [hsplit, oldestUnfired_append hparts.old_fired (hparts.young_unfired x List.mem_cons_self)] at hold
      cases hold
      obtain ⟨hnumber, hupdate, hparts'⟩ := hparts.fire
      rw [hqpipe, hqfrontier, hsplit, hupdate, hnumber]
      exact ⟨_, _, rfl, hparts', by simp, by simp; omega, by omega⟩
  · rw [hqvt, hqfired]
    exact hposts e hmem
  · rw [hqpipe]
    intro x hx
    obtain ⟨y, hy, rfl⟩ := List.mem_map.1 hx
    split
    · exact hposts y hy
    · exact hposts y hy
  · exact .inr (by rcases hstate with h | h <;> rw [h] <;> rfl)

/-- Entries changed in their flags and in whether they are ARMED (R109, R117). -/
theorem Partition.repiped_map {p : Partition} {f : PipeEntry → PipeEntry} (hnumber : ∀ e, (f e).number = e.number)
    (hstage : ∀ e, (f e).stage = .fired ↔ e.stage = .fired)
    (hpost : ∀ e, (f e).time = e.time ∧ (f e).post = e.post) : p.Repiped { p with pipe := p.pipe.map f } := by
  refine ⟨⟨rfl, rfl, rfl⟩, ⟨rfl, rfl⟩, fun old young hsplit hparts => ?_, fun hfired hposts => ⟨hfired, ?_⟩, .inl rfl⟩
  · exact ⟨old.map f, young.map f, by simp [hsplit], hparts.map hnumber hstage, by simp, by simp, le_rfl⟩
  · intro x hx
    obtain ⟨y, hy, rfl⟩ := List.mem_map.1 hx
    rw [(hpost y).1, (hpost y).2]
    exact hposts y hy

/-- The entries that retire are the oldest, and FIRED (R119). -/
theorem retired_eq_drop (set : List Board) (pipe : List PipeEntry) :
    ∃ n, retired set pipe = pipe.drop n ∧ ∀ e ∈ pipe.take n, e.stage = .fired := by
  induction pipe with
  | nil => exact ⟨0, rfl, by simp⟩
  | cons e es ih =>
    rw [retired]
    split_ifs with h
    · obtain ⟨n, heq, hfired⟩ := ih
      exact ⟨n + 1, heq, by simpa using ⟨h.1, hfired⟩⟩
    · exact ⟨0, rfl, by simp⟩

theorem Partition.repiped_retired (p : Partition) (set : List Board) :
    p.Repiped { p with pipe := retired set p.pipe } := by
  obtain ⟨n, heq, hfired⟩ := retired_eq_drop set p.pipe
  refine ⟨⟨rfl, rfl, rfl⟩, ⟨rfl, rfl⟩, fun old young hsplit hparts => ?_, fun hfired hposts => ⟨hfired, ?_⟩, .inl rfl⟩
  · have hn : young.take (n - old.length) = [] := by
      rw [hsplit, List.take_append] at hfired
      refine List.eq_nil_iff_forall_not_mem.2 fun e he => ?_
      exact hparts.young_unfired e (List.mem_of_mem_take he) (hfired e (List.mem_append_right _ he))
    have hyoung : young.drop (n - old.length) = young := by
      conv_rhs => rw [← List.take_append_drop (n - old.length) young, hn, List.nil_append]
    refine ⟨old.drop n, young, ?_, hparts.drop n, ?_, rfl, le_rfl⟩
    · change retired set p.pipe = _
      rw [heq, hsplit, List.drop_append, hyoung]
    · simp [heq]
  · simp only [heq]
    exact fun e he => hposts e (List.mem_of_mem_drop he)

theorem keeps_fire {e : PipeEntry} (he : (s.part k).fireable = some e) : Keeps s (fire k e s) := by
  refine .trans ?_ (keeps_mapLinks _ _)
  exact keeps_repiped (Partition.repiped_fire he rfl rfl)

theorem keeps_tryFire : Keeps s (tryFire k s) := by
  rcases tryFire_cases k s with h | ⟨e, he, h⟩ <;> rw [h]
  · exact .refl s
  · exact keeps_fire s k he

theorem PipeEntry.ack_stage (set : List Board) (b : Board) (e : PipeEntry) :
    (e.ack set b).stage = .fired ↔ e.stage = .fired := by
  rw [PipeEntry.ack_eq]
  dsimp only
  split_ifs with h
  · simp [h.1]
  · rfl

/-- One entry of a pipe changed in its flags, or in whether it is ARMED. -/
theorem Partition.repiped_updateEntry {p : Partition} (n : Nat) {f : PipeEntry → PipeEntry}
    (hnumber : ∀ e, (f e).number = e.number) (hstage : ∀ e, (f e).stage = .fired ↔ e.stage = .fired)
    (hpost : ∀ e, (f e).time = e.time ∧ (f e).post = e.post) :
    p.Repiped { p with pipe := updateEntry n f p.pipe } :=
  Partition.repiped_map (fun e => by split <;> simp [hnumber]) (fun e => by split <;> simp [hstage])
    fun e => by split <;> simp [hpost]

theorem keeps_markAcked (b : Board) (n : Nat) : Keeps s (markAcked k b n s) := by
  refine .trans ?_ (keeps_tryFire _ k)
  exact keeps_repiped (Partition.repiped_updateEntry n (fun _ => rfl) (PipeEntry.ack_stage _ b) fun _ => ⟨rfl, rfl⟩)

theorem keeps_markDone (b : Board) (n : Nat) : Keeps s (markDone k b n s) :=
  keeps_repiped (Partition.repiped_updateEntry n (fun _ => rfl) (fun _ => .rfl) fun _ => ⟨rfl, rfl⟩)

theorem keeps_retire : Keeps s (retire k s) := keeps_repiped (Partition.repiped_retired _ _)

end

/-! ## Stops -/

section
variable (s : State) (k : Slot)

theorem keeps_offerRecord (r : EventRecord) : Keeps s (offerRecord k r s) := by
  refine keeps_updPart (fun p => ?_) fun p => ?_ <;> unfold Partition.offer <;> split <;> rfl

theorem keeps_offerLink (b : Board) (e : LinkEvent) : Keeps s (offerLink k b e s) := keeps_offerRecord s k _

theorem keeps_offerStop : Keeps s (offerStop k s) := by
  unfold offerStop
  split
  · exact keeps_offerRecord s k _
  · exact .refl s

theorem keeps_restLinks : Keeps s (restLinks k s) := keeps_mapLinks s _

/-- A group stop is offered to members of a group alone (R93). -/
theorem keeps_offerGroupStop : Keeps s (offerGroupStop k s) := by
  unfold offerGroupStop
  split
  · exact .refl s
  · rename_i g _
    refine .of_beside (fun j => ⟨?_, ?_, .of_eq ?_, .of_eq ?_⟩) fun h => h.of_eq ?_ ?_ ?_
    · rw [State.mapParts_part]
      split <;> rfl
    · rw [State.mapParts_part]
      split
      · rename_i hmember
        exact fun _ => .inr (by simp [hmember.2])
      · exact .inl
    · rw [State.mapParts_engine]
    · rw [State.mapParts_port]
    · rw [State.mapParts_engine]
    all_goals rw [State.mapParts_loader]

variable {s k}

/-- When the stop completion condition holds the pipe is empty (R124). -/
theorem PipeSoundAt.nil_of_stopComplete (hs : PipeSoundAt s k) (h : stopComplete k s = true) : (s.part k).pipe = [] := by
  simp only [stopComplete, Bool.and_eq_true, beq_iff_eq, List.all_eq_true, bne_iff_ne, Partition.stopStep] at h
  obtain ⟨⟨⟨hstate, hstop⟩, hunfired⟩, -⟩ := h
  obtain ⟨point, hpoint, hstep⟩ := Option.map_eq_some_iff.1 hstop
  obtain ⟨old, young, hsplit, hparts⟩ := hs.shape
  have hle := hs.point point hpoint (by rw [hstate]; rfl)
  rw [hparts.frontier hsplit, hstep, Nat.max_self] at hle
  have hyoung : young = [] := List.length_eq_zero_iff.1 (by omega)
  have hold : old = [] := List.eq_nil_iff_forall_not_mem.2 fun e he =>
    hunfired e (hsplit ▸ List.mem_append_left _ he) (hparts.old_fired e he)
  rw [hsplit, hold, hyoung, List.append_nil]

theorem keeps_enterStopped (h : stopComplete k s = true) : Keeps s (enterStopped k s) := by
  have hstate : (s.part k).state = .stopping := by
    simp only [stopComplete, Bool.and_eq_true, beq_iff_eq] at h
    exact h.1.1.1
  have hstopped : Keeps s (voidWork k (s.setPart k { s.part k with state := .stopped })) :=
    keeps_runEnded rfl (fun hs => hs.nil_of_stopComplete h) (List.Subset.refl _)
      (fun hs hr => by simp [hs.recover hr] at hstate) ⟨rfl, rfl⟩ ⟨rfl, rfl⟩
  exact .trans (.trans hstopped (keeps_restLinks _ k)) (keeps_offerStop _ k)

variable (s k)

theorem keeps_checkStop : Keeps s (checkStop k s) := by
  rcases checkStop_cases k s with h | ⟨hc, h⟩ <;> rw [h]
  · exact .refl s
  · exact keeps_enterStopped hc

theorem keeps_advance : Keeps s (advance k s) := .trans (keeps_tryFire s k) (keeps_checkStop _ k)

variable {s k}

theorem Partition.stopAt_isRun {p : Partition} (h : p.state.isRun = true) (n : Nat) (r : StopReason) :
    (p.stopAt n r).state.isRun = true := by
  unfold Partition.stopAt
  dsimp only
  split
  · rfl
  · exact h

/-- A stop point set in a run, with what lies above it discarded (R85, R86, R120). -/
theorem PipeSoundAt.stopPointSet {n : Nat} {r : StopReason} (hs : PipeSoundAt s k)
    (hrun : (s.part k).state.isRun = true) : PipeSoundAt (stopPointSet k n r s) k := by
  obtain ⟨old, young, hsplit, hparts⟩ := hs.shape
  have hfrontier := hparts.frontier hsplit
  have hlength := hs.window hrun
  have hstate := Partition.stopAt_isRun hrun n r
  rcases Nat.lt_or_ge n (s.part k).frontier with hbelow | habove
  · obtain ⟨hcut, hparts'⟩ := hparts.cut n
    rw [stopPointSet_rewinds hbelow]
    have hpipe : ((rewind k n (s.setPart k ((s.part k).stopAt n r))).part k).pipe
        = old ++ young.take (n - (s.part k).firedFrontier) := by
      rw [rewind_part_self, State.setPart_part_self, ← hcut, ← hsplit]
      rfl
    refine .of_run (young := young.take (n - (s.part k).firedFrontier)) hpipe ?_ ?_ ?_ ?_ ?_ ?_
    · rw [rewind_part_self, State.setPart_part_self]
      exact hparts'
    · rw [rewind_part_self, State.setPart_part_self]
      exact hstate
    · refine le_trans ?_ (hlength.trans (le_of_eq ?_))
      · rw [hpipe, hsplit, List.length_append, List.length_append, List.length_take]
        omega
      · rw [rewind_part_self, State.setPart_part_self]
        rfl
    · intro point hpoint
      rw [rewind_part_self, State.setPart_part_self] at hpoint ⊢
      cases hpoint
      rw [List.length_take]
      change (s.part k).firedFrontier + _ ≤ max n (s.part k).firedFrontier
      omega
    · intro w hw hslot hvoid
      rw [rewind_engine] at hw
      simp [voidWork_item_void hw hslot] at hvoid
    · rw [rewind, State.mapLinks_port]
      exact hs.recovers_of_run hrun
  · rw [stopPointSet_at_frontier habove]
    refine .of_run (old := old) (young := young) ?_ ?_ ?_ ?_ ?_ ?_ (hs.recovers_of_run hrun)
    all_goals rw [State.setPart_part_self]
    · exact hsplit
    · exact hparts
    · exact hstate
    · exact hlength
    · intro point hpoint
      cases hpoint
      exact le_max_of_le_left (hfrontier ▸ habove)
    · exact fun w hw hslot hvoid => hfrontier ▸ (hs.item w hw hslot hvoid).2

theorem keeps_stopPointSet {n : Nat} {r : StopReason} (hrun : (s.part k).state.isRun = true) :
    Keeps s (stopPointSet k n r s) := by
  obtain ⟨pipe, hpart⟩ := stopPointSet_part_self (s := s) (k := k) (n := n) (r := r)
  have hitem (j : Slot) : ItemKept j s (stopPointSet k n r s) := by
    unfold stopPointSet
    split
    · intro w hw
      rw [rewind_engine] at hw
      exact ItemKept.voidWork k j s w hw
    · exact .of_eq rfl
  have hport (j : Slot) : (stopPointSet k n r s).port j = s.port j := by
    unfold stopPointSet
    split
    · rw [rewind, State.mapLinks_port]
      rfl
    · rfl
  have hsub : pipe ⊆ (s.part k).pipe := by
    have hpipe : ((stopPointSet k n r s).part k).pipe = pipe := by rw [hpart]
    unfold stopPointSet at hpipe
    split at hpipe
    · rw [rewind_part_self, State.setPart_part_self] at hpipe
      exact hpipe ▸ List.filter_subset_self _
    · rw [State.setPart_part_self] at hpipe
      exact hpipe ▸ List.Subset.refl _
  refine .of_slot k (fun j hj => .of_eq (stopPointSet_part_ne hj) (hport j) (hitem j)) (fun h => (h k).stopPointSet hrun)
    (fun h hshared => ⟨?_, ?_⟩) fun h => ?_
  · constructor
    all_goals rw [hpart]
    · exact (h k).fired
    · exact fun e he => (h k).pipe e (hsub he)
    · rw [hport]
      exact fun todo htodo => by simp [((h k).opening todo htodo).2.2.1] at hrun
  · unfold stopPointSet
    split
    · exact ((keeps_voidWork k s).clocks ⟨h, hshared⟩).2.of_eq (by rw [rewind_engine]; rfl)
        (by rw [rewind, State.mapLinks_loader]; rfl) (by rw [rewind, State.mapLinks_loader]; rfl)
    · exact hshared.of_eq rfl rfl rfl
  · unfold GroupSoundAt
    rw [hpart]
    exact h

variable (s k)

theorem keeps_candidate (n : Nat) (r : StopReason) : Keeps s (candidate k n r s) := by
  rcases candidate_cases k n r s with ⟨-, h⟩ | ⟨point, -, -, -, h⟩ | ⟨hrun, hlower⟩
  · rw [h]
    exact .refl s
  · rw [h]
    exact keeps_setPart rfl .inl
  · rw [candidate_sets hrun hlower]
    split
    · exact .trans (keeps_stopPointSet hrun) (keeps_offerGroupStop _ k)
    · exact keeps_stopPointSet hrun

theorem keeps_runLimitFinding : Keeps s (runLimitFinding k s) := by
  unfold runLimitFinding offerFinding
  dsimp only
  split
  · exact .after (keeps_candidate _ k _ _) (keeps_updPart (fun _ => rfl) fun _ => rfl)
  · exact .refl s

theorem keeps_offerFinding (n : Nat) (r : StopReason) : Keeps s (offerFinding k n r s) :=
  .after (keeps_candidate _ k n r) (keeps_updPart (fun _ => rfl) fun _ => rfl)

theorem keeps_endAtStart : Keeps s (endAtStart k s) := by
  unfold endAtStart
  dsimp only
  refine .trans ?_ (.trans (keeps_runLimitFinding _ k) (keeps_advance _ k))
  split
  · exact keeps_candidate s k _ _
  · exact .refl s

theorem keeps_takeGroupStop : Keeps s (takeGroupStop k s) := by
  unfold takeGroupStop
  split
  iterate 2 exact .trans (keeps_candidate s k _ _) (keeps_advance _ k)
  · exact keeps_updPart (fun _ => rfl) fun _ => rfl
  all_goals exact .refl s

end

end Sys2Proof.Machine
end


section
/-! SUPPORT. The engine, the start of a run, faults, the frames received and the ends of exchanges keep the invariants of
the pipes, the clocks and the groups (R47, R96 to R100, R106, R133, R190). -/

namespace Sys2Proof.Machine

/-! ## The engine -/

/-- The clocks of a copy are sound after `v` (R4 to R8, R41). -/
theorem soundClocks_iff (v : Nat) (snap : Snapshot) :
    soundClocks v snap = true ↔ (∀ e ∈ snap, e.sound v = true) ∧ (snap.map ClockEntry.localNo).Nodup := by
  simp [soundClocks]

/-- A clock sound after a time is sound after any time before it. -/
theorem ClockEntry.sound_mono {e : ClockEntry} {v t : Nat} (hle : v ≤ t) (h : e.sound t = true) : e.sound v = true := by
  by_cases hoff : e.state = .off
  · rwa [ClockEntry.sound_off hoff v t]
  · rw [ClockEntry.sound_iff hoff] at h ⊢
    refine ⟨?_, h.2⟩
    cases hwave : e.wave with
    | periodic w =>
      rw [hwave] at h
      obtain ⟨⟨hrange, hlater, hbound⟩, -⟩ := h
      exact ⟨hrange, hle.trans_lt hlater, hbound⟩
    | divided w =>
      rw [hwave] at h
      exact h.1

theorem soundClocks_mono {v t : Nat} {snap : Snapshot} (hle : v ≤ t) (h : soundClocks t snap = true) :
    soundClocks v snap = true := by
  rw [soundClocks_iff] at h ⊢
  exact ⟨fun e he => ClockEntry.sound_mono hle (h.1 e he), h.2⟩

section
variable {s : State} {k : Slot}

/-- The frontier snapshot holds sound clocks (R2). -/
theorem ClockSoundAt.frontierSnapshot (h : ClockSoundAt s k) : soundClocks 0 (s.part k).frontierSnapshot = true := by
  unfold Partition.frontierSnapshot
  split
  · rename_i e he
    exact soundClocks_mono (Nat.zero_le _) (h.pipe e (List.mem_of_getLast? he)).2
  · exact soundClocks_mono (Nat.zero_le _) h.fired.2

/-- A partition that requests service is in a run and has room in its pipe (R31). -/
theorem Partition.requests_run {p : Partition} (h : p.requests = true) :
    p.state.isRun = true ∧ p.pipe.length < p.weff := by
  simp only [Partition.requests, Bool.and_eq_true, decide_eq_true_eq] at h
  exact ⟨h.1.1.1.1, h.1.1.1.2⟩

theorem keeps_beginWork (h : (s.part k).requests = true) : Keeps s (beginWork k s) := by
  obtain ⟨hrun, hroom⟩ := Partition.requests_run h
  refine .of_slot k (fun j hj => .of_eq rfl rfl ?_) (fun hs => ?_) (fun hs hshared => ⟨?_, hshared.presets, ?_⟩) id
  · intro w hw hslot
    cases hw
    exact absurd hslot.symm hj
  · obtain ⟨hshape, hrest, hwindow, hpoint, -, hrecover⟩ := hs k
    refine ⟨hshape, hrest, hwindow, hpoint, fun w hw _ _ => ?_, hrecover⟩
    cases hw
    exact ⟨hrun, rfl, hroom⟩
  · obtain ⟨hfired, hpipe, hopening⟩ := hs k
    exact ⟨hfired, hpipe, hopening⟩
  · exact (hs k).frontierSnapshot

theorem keeps_engineSelect (s : State) : Keeps s (engineSelect s) := by
  rcases engineSelect_cases s with h | ⟨k, -, hrequests, h⟩ <;> rw [h]
  · exact .refl s
  · exact keeps_beginWork hrequests

theorem keeps_engineSelectFree (s : State) : Keeps s (engineSelectFree s) := by
  have hmem {ks : List Slot} (h : (roundRobin s.engine.lastServed).filter (fun k => (s.part k).requests) = ks) {k : Slot}
      (hk : k ∈ ks) : (s.part k).requests = true := by
    rw [← h, List.mem_filter] at hk
    exact hk.2
  unfold engineSelectFree
  split
  · exact .refl s
  · split
    · exact .refl s
    · rename_i k hk
      exact keeps_beginWork (hmem hk List.mem_cons_self)
    · rename_i k ks _ hks
      refine .after (keeps_beginWork (hmem hks ?_)) (.of_eq rfl rfl rfl rfl rfl)
      rw [List.getD_eq_getElem _ _ (Nat.mod_lt _ (by simp))]
      exact List.getElem_mem _

/-- A step appended for a work item that is not void (R47, R108). -/
theorem keeps_appendStep {w : WorkItem} {t : Nat} {changed level : ClockMask} {post : Snapshot}
    (hitem : s.engine.item = some w) (hvoid : w.void = false) (hrun : (s.part w.slot).state.isRun = true)
    (hcompute : w.compute = .step t changed level post)
    (hstop : (s.part w.slot).withinStop (w.frontier + 1) = true) :
    Keeps s (appendStep w.slot (w.frontier + 1) t changed level post
      { s with engine := { s.engine with item := none } }) := by
  refine .after (keeps_mapLinks _ _) ?_
  refine .of_slot w.slot (fun j hj => .of_eq (State.setPart_part_ne _ _ _ _ hj) rfl (.of_none rfl)) (fun hs => ?_)
    (fun hs hshared => ⟨?_, hshared.presets, rfl⟩) (groupSoundAt_setPart rfl rfl)
  · have hs := hs w.slot
    obtain ⟨old, young, hsplit, hparts⟩ := hs.shape
    obtain ⟨-, hfrontier, hroom⟩ := hs.item w hitem rfl hvoid
    rw [hparts.frontier hsplit] at hfrontier
    refine .of_run (old := old) (young := young ++ [⟨w.frontier + 1, t, changed, level, post, .arming, 0, 0⟩])
      ?_ ?_ ?_ ?_ ?_ (fun _ h => nomatch h) (hs.recovers_of_run hrun)
    all_goals rw [State.updPart_eq, State.setPart_part_self]
    · change (s.part w.slot).pipe ++ _ = _
      rw [hsplit, List.append_assoc]
    · exact hparts.append (fun h => nomatch h) (by rw [← hfrontier])
    · exact hrun
    · simp only [List.length_append, List.length_singleton]
      exact hroom
    · intro point hpoint
      have hle : w.frontier + 1 ≤ point.step := by
        change (s.part w.slot).stop = some point at hpoint
        simpa [Partition.withinStop, Partition.stopStep, hpoint] using hstop
      simp only [List.length_append, List.length_singleton]
      change (s.part w.slot).firedFrontier + (young.length + 1) ≤ _
      exact le_max_of_le_left (by omega)
  · have hs := hs w.slot
    have hcopy : soundClocks 0 w.copy = true := by simpa [workInv, hitem] using hshared.copy
    rw [soundClocks_iff] at hcopy
    obtain ⟨-, hmax, -, -, -, hpost, hlocals⟩ := computeFrom_step_sound hcopy.1 hcompute
    constructor
    all_goals rw [State.updPart_eq, State.setPart_part_self]
    · exact hs.fired
    · intro e he
      rcases List.mem_append.1 he with he | he
      · exact hs.pipe e he
      · rw [List.mem_singleton.1 he]
        exact ⟨hmax, (soundClocks_iff _ _).2 ⟨hpost, hlocals ▸ hcopy.2⟩⟩
    · exact hs.opening

theorem keeps_idle (s : State) : Keeps s { s with engine := { s.engine with item := none } } :=
  .of_beside (fun _ => .of_eq rfl rfl (.of_none rfl)) fun h => ⟨h.presets, rfl⟩

theorem keeps_judgeResult {w : WorkItem} (hitem : s.engine.item = some w) :
    Keeps s (judgeResult w { s with engine := { s.engine with item := none } }) := by
  unfold judgeResult
  dsimp only
  split
  · rename_i htaken
    have hfinding (r : StopReason) : Keeps s (advance w.slot (offerFinding w.slot w.frontier r
        { s with engine := { s.engine with item := none } })) :=
      .after (keeps_advance _ _) (.after (keeps_offerFinding _ _ _ _) (keeps_idle s))
    split
    · rename_i hcompute
      split
      · rename_i hstop
        exact .after (keeps_advance _ _) (.after (keeps_runLimitFinding _ _)
          (keeps_appendStep hitem htaken.1 htaken.2 hcompute hstop))
      · exact keeps_idle s
    all_goals exact hfinding _
  · exact keeps_idle s

theorem keeps_endComputation (s : State) : Keeps s (endComputation s) := by
  unfold endComputation
  split
  · exact .refl s
  · exact .after (keeps_engineSelect _) (keeps_judgeResult ‹_›)

/-! ## The start of a run -/

/-- A run begins in STOPPED, with its pipe empty (R77). -/
theorem keeps_startRun (hstate : (s.part k).state = .stopped)
    (hopening : openingTodo (s.port k).work = none ∨ (s.part k).group ≠ none) : Keeps s (startRun k s) := by
  have hrest : (s.part k).state.isRun = false := by rw [hstate]; rfl
  refine keeps_setPart_of (fun hs => ?_) (fun hs _ => ?_) (groupSoundAt_setPart rfl rfl)
  · have hnil := hs.rest hrest
    refine .of_run (old := []) (young := []) ?_ (.nil _) ?_ ?_ ?_ ?_ ?_
    · rwa [State.setPart_part_self]
    · rw [State.setPart_part_self]
      rfl
    · rw [State.setPart_part_self]
      simp [hnil]
    · rw [State.setPart_part_self]
      exact fun _ h => nomatch h
    · intro w hw hslot hvoid
      have hrun := (hs.item w hw hslot hvoid).1
      simp [hrest] at hrun
    · by_contra h
      simp [hs.recover (by simpa using h)] at hstate
  · constructor
    all_goals rw [State.setPart_part_self]
    · exact hs.fired
    · exact hs.pipe
    · intro todo htodo
      rcases hopening with hnone | hgroup
      · rw [State.setPart_port, hnone] at htodo
        cases htodo
      · exact absurd (hs.opening todo htodo).2.2.2 hgroup

end

/-! ## Settings, faults and exchanges -/

section
variable {s : State} {k : Slot}

/-- Outside a run Weff has no pipe to hold (R55, R106). -/
theorem keeps_recompute (hrest : PipeSoundAt s k → (s.part k).state.isRun = false) : Keeps s (recompute k s) := by
  by_cases h : (s.part k).state.isRun = false
  · exact keeps_still hrest h rfl (fun _ => rfl)
      (fun hs _ => ⟨hs.fired, fun todo htodo => ⟨(hs.opening todo htodo).2.1, (hs.opening todo htodo).2.2.2⟩⟩) id
  · refine keeps_setPart_of (fun hs => absurd (hrest hs) h) (fun hs _ => ?_) (groupSoundAt_setPart rfl rfl)
    constructor
    all_goals rw [State.setPart_part_self]
    exacts [hs.fired, hs.pipe, hs.opening]

end

section
variable (s : State) (k : Slot) (b : Board)

theorem keeps_noteClaimFailed : Keeps s (noteClaimFailed k b s) := by
  refine keeps_setPort ?_
  dsimp only
  split
  · exact .of_plain rfl rfl
  · exact .of_eq rfl

theorem keeps_noteResetFailed : Keeps s (noteResetFailed k b s) := by
  refine keeps_setPort ?_
  dsimp only
  split
  · exact .of_plain rfl rfl
  · exact .of_eq rfl

theorem keeps_noteReplied : Keeps s (noteReplied k b s) := by
  refine keeps_setPort ?_
  dsimp only
  split
  · rename_i h
    exact ⟨fun _ h' => (nomatch h'), fun _ => by rw [h]; rfl⟩
  · exact .of_eq rfl

theorem openingTodo_noteProbe (answered : Bool) (w : Option Work) :
    openingTodo (w.map (Work.noteProbe b answered)) = openingTodo w
      ∧ recovers (w.map (Work.noteProbe b answered)) = recovers w := by
  cases w with
  | none => exact ⟨rfl, rfl⟩
  | some w =>
    cases w
    case reprobing set found absent =>
      simp only [Option.map_some, Work.noteProbe]
      split_ifs <;> exact ⟨rfl, rfl⟩
    all_goals exact ⟨rfl, rfl⟩

theorem keeps_noteProbe (answered : Bool) : Keeps s (noteProbe b answered s) := by
  refine .of_beside (fun j => ⟨rfl, .inl, .of_eq rfl, ?_⟩) fun h => h.of_eq rfl rfl rfl
  have hport : ((noteProbe b answered s).port j).work = (s.port j).work.map (Work.noteProbe b answered) := by
    simp [noteProbe, State.port]
  obtain ⟨htodo, hrecover⟩ := openingTodo_noteProbe b answered (s.port j).work
  rw [hport]
  exact ⟨fun todo h => ⟨todo, htodo ▸ h, List.Subset.refl _⟩, fun h => hrecover ▸ h⟩

theorem keeps_breakBoard : Keeps s (breakBoard b s) := .of_eq rfl rfl rfl rfl rfl
theorem keeps_syncBoard (next : Nat) (level : ClockMask) : Keeps s (syncBoard b next level s) :=
  .of_eq rfl rfl rfl rfl rfl
theorem keeps_failBoard (cause : FaultCause) : Keeps s (failBoard b cause s) := .of_eq rfl rfl rfl rfl rfl
theorem keeps_muteBoards : Keeps s (muteBoards k s) := keeps_mapLinks s _

variable {s k b}

theorem keeps_forBoards {op : Board → State → State} (h : ∀ b s, Keeps s (op b s)) (bs : List Board) (s : State) :
    Keeps s (forBoards op bs s) :=
  forBoards_keeps (P := Keeps s) (fun b t ht => ht.trans (h b t)) bs s (.refl s)

theorem keeps_dropClaimed {cause : FaultCause} (hrest : (s.part k).state.isRun = false) :
    Keeps s (dropClaimed k b cause s) := by
  unfold dropClaimed
  dsimp only
  refine .after (keeps_offerLink _ k b _) (.after (keeps_recompute fun _ => hrest) ?_)
  exact .after (keeps_noteClaimFailed _ k b) (.of_eq rfl rfl rfl rfl rfl)

theorem Partition.offer_state (r : EventRecord) (p : Partition) : (p.offer r).state = p.state := by
  unfold Partition.offer
  split <;> rfl

theorem offerRecord_state (j : Slot) (r : EventRecord) : ((offerRecord k r s).part j).state = (s.part j).state := by
  by_cases hj : j = k
  · rw [hj, offerRecord_eq, State.setPart_part_self, Partition.offer_state]
  · rw [offerRecord_eq, State.setPart_part_ne _ _ _ _ hj]

theorem dropClaimed_state {cause : FaultCause} : ((dropClaimed k b cause s).part k).state = (s.part k).state := by
  unfold dropClaimed offerLink
  rw [offerRecord_state, recompute, State.updPart_eq, State.setPart_part_self]
  rfl

/-- Muting ends the SYNCs of a partition in FAULTED, which it leaves (R149). -/
theorem endSync_faulted (h : (s.part k).state = .faulted) :
    Keeps s (endSync k b s) ∧ ((endSync k b s).part k).state = .faulted := by
  unfold endSync
  dsimp only
  split
  · have hstate : ((((failBoard b .timeout s).updPart k fun p =>
        { p with sticky := p.sticky.addCause .timeout }) : State).part k).state = .faulted := by
      rw [State.updPart_eq, State.setPart_part_self]
      exact h
    have hfailed := (keeps_failBoard s b .timeout).trans
      (keeps_updPart (k := k) (f := fun p => { p with sticky := p.sticky.addCause .timeout }) (fun _ => rfl)
        fun _ => rfl)
    split
    · exact ⟨hfailed.trans (keeps_dropClaimed (by rw [hstate]; rfl)), dropClaimed_state.trans hstate⟩
    · exact ⟨hfailed.trans (keeps_noteResetFailed _ k b), hstate⟩
  · exact ⟨.refl s, h⟩

theorem keeps_muteOnFault (h : (s.part k).state = .faulted) : Keeps s (muteOnFault k s) := by
  refine .after (keeps_muteBoards _ k) ?_
  refine (forBoards_keeps (P := fun t => Keeps s t ∧ (t.part k).state = .faulted) (fun b t ht => ?_) allBoards s
    ⟨.refl s, h⟩).1
  obtain ⟨hkeeps, hstate⟩ := endSync_faulted (b := b) ht.2
  exact ⟨ht.1.trans hkeeps, hstate⟩

theorem offerGroupStop_state (j : Slot) : ((offerGroupStop k s).part j).state = (s.part j).state := by
  unfold offerGroupStop
  split
  · rfl
  · rw [State.mapParts_part]
    split <;> rfl

theorem offerStop_state (j : Slot) : ((offerStop k s).part j).state = (s.part j).state := by
  unfold offerStop
  split
  · exact offerRecord_state j _
  · rfl

theorem enterFaulted_state (cause : FaultCause) : ((enterFaulted k cause s).part k).state = .faulted := by
  rw [enterFaulted, voidWork_part, State.updPart_eq, State.setPart_part_self]

/-- A fault in a run empties the pipe (R97). -/
theorem keeps_faultInRun (cause : FaultCause) (s : State) : Keeps s (faultInRun k b cause s) := by
  unfold faultInRun
  dsimp only
  refine .after (keeps_muteOnFault ?_) (.after (keeps_offerGroupStop _ k) (.after (keeps_offerStop _ k) ?_))
  · rw [offerGroupStop_state, offerStop_state, enterFaulted_state]
  · rw [enterFaulted, State.updPart_eq, State.updPart_eq, State.setPart_part_self, State.setPart_setPart]
    exact keeps_runEnded rfl (fun _ => rfl) (List.nil_subset _) (fun _ _ => rfl) ⟨rfl, rfl⟩ ⟨rfl, rfl⟩

theorem keeps_faultInStopped (cause : FaultCause) (h : (s.part k).state = .stopped) :
    Keeps s (faultInStopped k b cause s) := by
  unfold faultInStopped
  refine .after (keeps_muteOnFault ?_) (.after (keeps_offerGroupStop _ k) (.after (keeps_offerLink _ k b _)
    (.after ?_ (keeps_noteResetFailed s k b))))
  · rw [offerGroupStop_state, offerLink, offerRecord_state, enterFaulted_state]
  · exact keeps_runEnded rfl (fun hs => hs.rest (by rw [noteResetFailed, State.updPort_eq, State.setPort_part, h]; rfl))
      (List.Subset.refl _) (fun _ _ => rfl) ⟨rfl, rfl⟩ ⟨rfl, rfl⟩

theorem keeps_boardFault (b : Board) (cause : FaultCause) (s : State) : Keeps s (boardFault b cause s) := by
  have hfailed := keeps_failBoard s b cause
  unfold boardFault
  dsimp only
  split
  · exact hfailed
  · split
    iterate 3 exact hfailed.trans (keeps_faultInRun _ _)
    · rename_i hstopped
      split
      · exact hfailed.trans (keeps_dropClaimed (by rw [hstopped]; rfl))
      · exact hfailed.trans (keeps_faultInStopped _ hstopped)
    · split
      · exact hfailed
      · exact hfailed.trans (keeps_updPart (fun _ => rfl) fun _ => rfl)
    · exact hfailed

end

end Sys2Proof.Machine
end


section
/-! SUPPORT. The frames received, the ends of exchanges, the start-up and the ports keep the invariants of the pipes, the
clocks and the groups (R106, R133, R190, R203). -/

namespace Sys2Proof.Machine

/-! ## Frames received -/

section
variable (s : State) (k : Slot) (b : Board)

theorem keeps_outOfSequence : Keeps s (outOfSequence b s) := by
  unfold outOfSequence
  split
  · exact .refl s
  · exact keeps_boardFault b .sequence s

theorem keeps_ignoreFrame : Keeps s (ignoreFrame b s) := keeps_setLink s b _

/-- A frame ignored in the discarded range, or out of sequence (R121, R140). -/
theorem keeps_notTaken (c : Bool) : Keeps s (if c = true then ignoreFrame b s else outOfSequence b s) := by
  split
  · exact keeps_ignoreFrame s b
  · exact keeps_outOfSequence s b

theorem keeps_advanceOwner : Keeps s (advanceOwner b s) := by
  unfold advanceOwner
  split
  · exact keeps_advance s _
  · exact .refl s

theorem keeps_ackInPipe (a : Nat) : Keeps s (ackInPipe b a s) := by
  unfold ackInPipe
  split
  · exact keeps_markAcked s _ b a
  · exact .refl s

theorem keeps_takeReport (r : TriggerReport) : Keeps s (takeReport k r s) := by
  have hcounted : Keeps s (countReport k r s) := by
    unfold countReport
    dsimp only
    have hcount := keeps_updPart (s := s) (k := k)
      (f := fun p => { p with filter := { p.filter with counter := (s.part k).filter.counter - 1 } })
      (fun _ => rfl) fun _ => rfl
    split
    · exact hcount.trans (keeps_candidate _ k _ _)
    · exact hcount
  unfold takeReport
  dsimp only
  split <;> split
  · exact hcounted.trans (keeps_offerRecord _ k _)
  · exact hcounted
  · exact keeps_offerRecord s k _
  · exact .refl s

theorem keeps_doneInPipe (d : Nat) (report : Option (TriggerId × Option (BitVec 32))) :
    Keeps s (doneInPipe b d report s) := by
  unfold doneInPipe
  split
  · exact .refl s
  · dsimp only
    refine .after (keeps_retire _ _) ?_
    split
    · exact (keeps_markDone s _ b d).trans (keeps_takeReport _ _ _)
    · exact keeps_markDone s _ b d

theorem keeps_judgeArmAck (tag : Tag) : Keeps s (judgeArmAck b tag s) := by
  unfold judgeArmAck
  dsimp only
  split
  · split
    · exact .after (keeps_ackInPipe _ b _) (keeps_setLink s b _)
    · exact keeps_notTaken s b _
  · exact keeps_notTaken s b _

theorem keeps_judgeArmNak (tag : Tag) : Keeps s (judgeArmNak b tag s) := by
  unfold judgeArmNak
  dsimp only
  split
  · exact keeps_ignoreFrame s b
  · split
    · split
      · split
        · exact .after (keeps_boardFault b .retries _) (keeps_setLink s b _)
        · exact .after (keeps_setLink _ b _) (keeps_setLink s b _)
      · exact keeps_outOfSequence s b
    · exact keeps_outOfSequence s b

theorem keeps_judgeDone (tag : Tag) (trigger : Option TriggerId) (stamp : Option (BitVec 32)) :
    Keeps s (judgeDone b tag trigger stamp s) := by
  unfold judgeDone
  dsimp only
  split
  · split
    · exact .after (keeps_advanceOwner _ b) (.after (keeps_doneInPipe _ b _ _) (keeps_setLink s b _))
    · exact keeps_notTaken s b _
  · exact keeps_notTaken s b _

theorem keeps_judgeFlushAck (tag : Tag) : Keeps s (judgeFlushAck b tag s) := by
  unfold judgeFlushAck
  split
  · exact .after (keeps_advanceOwner _ b) (keeps_setLink s b _)
  · exact keeps_outOfSequence s b

theorem keeps_statusAcks : ∀ (n : Nat) (s : State), Keeps s (statusAcks b n s)
  | 0, s => .refl s
  | n + 1, s => by
    unfold statusAcks
    split
    · exact .after (keeps_statusAcks n _) (.after (keeps_ackInPipe _ b _) (keeps_setLink s b _))
    · exact .refl s

theorem keeps_statusDones (trigger : Option (Tag × TriggerId)) :
    ∀ (n : Nat) (s : State), Keeps s (statusDones b trigger n s)
  | 0, s => .refl s
  | n + 1, s => by
    unfold statusDones
    split
    · exact .after (keeps_statusDones trigger n _) (.after (keeps_doneInPipe _ b _ _) (keeps_setLink s b _))
    · exact .refl s

theorem keeps_finishStatus (progress : Bool) : Keeps s (finishStatus b progress s) := by
  unfold finishStatus
  lift_lets
  extract_lets n a unsent reported
  have hunsent : Keeps s unsent := by
    unfold unsent
    split
    · exact .refl s
    · exact keeps_setLink s b _
  have hreported : Keeps s reported := by
    unfold reported
    split
    · exact hunsent.trans (keeps_offerLink _ _ b .pollRecovered)
    · exact hunsent
  split
  · exact hunsent.trans (keeps_boardFault b .retries _)
  · exact .after (keeps_advanceOwner _ b) (.after (keeps_setLink _ b _) hreported)

theorem keeps_reconcile (armed acks dones : Nat) (trigger : Option (Tag × TriggerId)) :
    Keeps s (reconcile b armed acks dones trigger s) := by
  unfold reconcile
  dsimp only
  exact .after (keeps_finishStatus _ b _) (.after (keeps_setLink _ b _) (.after (keeps_statusDones b trigger dones _)
    (.after (keeps_statusAcks b acks _) (keeps_setLink s b _))))

theorem keeps_judgeStatus (armed finished : Tag) (trigger : Option (Tag × TriggerId)) :
    Keeps s (judgeStatus b armed finished trigger s) := by
  unfold judgeStatus
  dsimp only
  split
  · split
    · split
      · exact keeps_reconcile s b _ _ _ trigger
      · exact keeps_boardFault b .sequence s
    · exact keeps_boardFault b .sequence s
  · exact .refl s

theorem keeps_judgeSyncAck (tag : Tag) : Keeps s (judgeSyncAck b tag s) := by
  unfold judgeSyncAck
  split
  · exact .after (keeps_setLink _ b _) (keeps_setBoard s b _)
  · exact keeps_boardFault b .sequence s

theorem keeps_takeProbeReply (id : BitVec 16) (depth : Byte) : Keeps s (takeProbeReply b id depth s) := by
  unfold takeProbeReply
  dsimp only
  split
  · exact .after (keeps_noteProbe _ b true) (.of_eq rfl rfl rfl rfl rfl)
  · exact .after (keeps_noteReplied _ _ b) (.after (keeps_syncBoard _ b _ _) (.of_eq rfl rfl rfl rfl rfl))

theorem keeps_judgeFrame (f : UpFrame) : Keeps s (judgeFrame b f s) := by
  have hbound : Keeps s (judgeBound b f s) := by
    cases f with
    | armAck tag => exact keeps_judgeArmAck s b tag
    | armNak tag cause => exact keeps_judgeArmNak s b tag
    | done tag trigger stamp => exact keeps_judgeDone s b tag trigger stamp
    | flushAck tag => exact keeps_judgeFlushAck s b tag
    | syncAck tag => exact keeps_outOfSequence s b
    | status armed finished trigger => exact keeps_judgeStatus s b armed finished trigger
    | probeReply id depth => exact .refl s
  unfold judgeFrame
  split
  · exact .refl s
  · split
    · exact keeps_takeProbeReply s b _ _
    · exact .refl s
    · exact keeps_judgeSyncAck s b _
    · exact .refl s
    · exact hbound
    all_goals exact .refl s

theorem keeps_receiveError (e : RxError) : Keeps s (receiveError b e s) := by
  have hcounted := keeps_setBoard s b { s.board b with counters := (s.board b).counters.bump e }
  unfold receiveError
  dsimp only
  split
  · exact .refl s
  · split
    · exact hcounted
    · have hoffered := fun j : Slot => hcounted.trans (keeps_offerLink _ j b (.frameError e))
      split
      · exact (hoffered _).trans (keeps_setLink _ b _)
      · exact hoffered _

theorem keeps_handleRx : ∀ (events : List RxEvent) (s : State), Keeps s (handleRx b events s)
  | [], s => .refl s
  | .error e :: rest, s => .after (keeps_handleRx rest _) (keeps_receiveError s b e)
  | .frame bytes :: rest, s => by
    refine .after (keeps_handleRx rest _) ?_
    split
    · exact keeps_judgeFrame s b _
    · exact .refl s

theorem keeps_receiveChars : ∀ (chars : List LineChar) (s : State), Keeps s (receiveChars b chars s)
  | [], s => .refl s
  | _ :: cs, s => .after (keeps_receiveChars cs _) (.after (keeps_handleRx b _ _) (keeps_setLink s b _))

theorem keeps_receiveSamples (samples : List Bool) : Keeps s (receiveSamples b samples s) :=
  .after (keeps_receiveChars b _ _) (keeps_setLink s b _)

theorem keeps_receiveFrame (f : UpFrame) : Keeps s (receiveFrame b f s) := by
  unfold receiveFrame
  refine .after (keeps_judgeFrame _ b f) (.after (keeps_setLink _ b _) ?_)
  split
  · exact keeps_receiveError s b .length
  all_goals exact .refl s

theorem keeps_expire : Keeps s (expire b s) := by
  unfold expire
  split
  · split
    · exact .after (keeps_noteProbe _ b false) (.of_eq rfl rfl rfl rfl rfl)
    · exact keeps_boardFault b .timeout s
  · exact keeps_boardFault b .timeout s
  · split
    · exact keeps_boardFault b .timeout s
    · exact keeps_setLink s b _
  all_goals exact keeps_setLink s b _

/-! ## Exchanges -/

/-- The sync-pending flag set or cleared. -/
theorem keeps_syncPending (pending : Bool) : Keeps s (s.updPart k fun p => { p with syncPending := pending }) :=
  keeps_updPart (fun _ => rfl) fun _ => rfl

theorem keeps_endClaim (fresh already failed : BoardMask) : Keeps s (endClaim k fresh already failed s) :=
  .after (keeps_respond _ _ _ _) (keeps_syncPending s k false)

theorem keeps_endTimeReset (failed : BoardMask) : Keeps s (endTimeReset k failed s) :=
  .after (keeps_respond _ _ _ _) (keeps_syncPending s k false)

theorem keeps_reportFailed : Keeps s (reportFailed k b s) := by
  unfold reportFailed
  split
  · exact .after (keeps_offerLink _ k b _) (keeps_updPart (fun _ => rfl) fun _ => rfl)
  · exact .refl s

variable {s k}

/-- A RECOVER that ends with every board BOUND: the partition enters STOPPED as its port answers (R103). -/
theorem keeps_recovered (hrest : PipeSoundAt s k → (s.part k).state.isRun = false) (clamped : Bool) (body : List Byte)
    (st : Status) :
    Keeps s (respond k st clamped body (restLinks k (s.setPart k { s.part k with state := .stopped }))) := by
  have hport (j : Slot) : (restLinks k (s.setPart k { s.part k with state := .stopped })).port j = s.port j :=
    State.mapLinks_port _ _ j
  refine .of_slot k (fun j hj => .of_eq ?_ ?_ (.of_eq ?_)) (fun hs => ?_)
    (fun hs hshared => ⟨?_, hshared.of_eq rfl rfl rfl⟩) fun h => ?_
  · rw [respond_part, restLinks_part, State.setPart_part_ne _ _ _ _ hj]
  · rw [respond_port_ne k j hj, hport]
  · rw [respond_engine, restLinks, State.mapLinks_engine]
    rfl
  · have hnil := (hs k).rest (hrest (hs k))
    constructor
    all_goals rw [respond_part, restLinks_part, State.setPart_part_self]
    · exact ⟨[], [], hnil, .nil _⟩
    · exact fun _ => hnil
    · exact fun h => nomatch h
    · exact fun _ _ h => nomatch h
    · intro w hw hslot hvoid
      have hrun := ((hs k).item w hw hslot hvoid).1
      simp [hrest (hs k)] at hrun
    · intro h
      rw [respond_port] at h
      exact nomatch h
  · constructor
    all_goals rw [respond_part, restLinks_part, State.setPart_part_self]
    · exact (hs k).fired
    · exact (hs k).pipe
    · intro todo h
      rw [respond_port] at h
      exact nomatch h
  · unfold GroupSoundAt
    rw [respond_part, restLinks_part, State.setPart_part_self]
    exact h

/-- The end of a RECOVER, which is worked in FAULTED (R102, R103). -/
theorem keeps_endRecover (replied : BoardMask)
    (h : recovers (s.port k).work = true ∨ (s.part k).state = .faulted) : Keeps s (endRecover k replied s) := by
  have hrest (t : State) (ht : recovers (t.port k).work = true ∨ (t.part k).state = .faulted)
      (hs : PipeSoundAt t k) : (t.part k).state.isRun = false := by
    rw [ht.elim hs.recover id]
    rfl
  have hnoted : Keeps s ((recompute k s).updPart k fun p => { p with syncPending := false }) :=
    (keeps_recompute (hrest s h)).trans (keeps_syncPending _ k false)
  unfold endRecover
  dsimp only
  split
  · refine .after (keeps_recovered (hrest _ ?_) _ _ _) hnoted
    simpa [recompute] using h
  · refine .after (keeps_respond _ _ _ _) (.after (keeps_muteBoards _ k) ?_)
    exact hnoted.trans (keeps_forBoards (fun b s => keeps_reportFailed s k b) _ _)

theorem keeps_settlePort (k : Slot) (s : State) : Keeps s (settlePort k s) := by
  unfold settlePort
  split
  · split
    · exact keeps_endClaim s k _ _ _
    · exact .refl s
  · split
    · exact keeps_endTimeReset s k _
    · exact .refl s
  · rename_i hwork
    split
    · exact keeps_endRecover _ (.inl (by rw [hwork]; rfl))
    · exact .refl s
  · split
    · exact keeps_respond _ _ _ s
    · exact .refl s
  all_goals exact .refl s

theorem keeps_settleStartUp (s : State) : Keeps s (settleStartUp s) := by
  unfold settleStartUp
  split
  · exact .of_eq rfl rfl rfl rfl rfl
  · exact .refl s

theorem keeps_settle (s : State) : Keeps s (settle s) :=
  .after (keeps_engineSelect _) (.after (keeps_settleStartUp _) (.after (keeps_settlePort 3 _)
    (.after (keeps_settlePort 2 _) (.after (keeps_settlePort 1 _) (keeps_settlePort 0 s)))))

theorem keeps_expireResponse (b : Board) (s : State) : Keeps s (expireResponse b s) := by
  unfold expireResponse
  split
  · exact .after (keeps_settle _) (keeps_expire s b)
  all_goals exact .refl s

/-! ## Ports and the store -/

theorem keeps_transact (k : Slot) (b : Byte) (dataIn : List Bool) (s : State) : Keeps s (transact k b dataIn s) := by
  unfold transact
  split
  · exact keeps_updPort fun p => p.write_work _
  · exact keeps_updPort fun p => p.read_work _
  · exact keeps_updPort fun p => p.readStatus_work _ _
  · exact keeps_updPort fun p => p.unknown_work _

/-- A request frame is refused, or its request waits at the port (R186 to R189). -/
theorem keeps_endRequestFrame (k : Slot) (s : State) : Keeps s (endRequestFrame k s) := by
  by_cases hwriting : (s.port k).transaction = .writing
  · rcases endRequestFrame_cases hwriting with ⟨st, heq⟩ | heq <;> rw [heq]
    · exact .after (keeps_refuse _ _) (keeps_setPort (.of_eq rfl))
    · exact keeps_setPort (.of_plain rfl rfl)
  · unfold endRequestFrame
    split
    · exact absurd ‹_› hwriting
    · exact .refl s

theorem keeps_storeRequest (k : Slot) (valid : Bool) (op : StoreOp) (s : State) :
    Keeps s (storeRequest k valid op s) := by
  unfold storeRequest
  split_ifs
  · exact .after (keeps_setPort (.of_plain rfl rfl)) (.of_eq rfl rfl rfl rfl rfl)
  · exact keeps_refuse _ s
  · exact keeps_refuse _ s

theorem keeps_endStoreOp (port : Slot) (status : Status) (body : List Byte) (s : State) :
    Keeps s (endStoreOp port status body s) := .after (keeps_respond _ _ _ _) (.of_eq rfl rfl rfl rfl rfl)

theorem keeps_completeRead (s : State) : Keeps s (completeRead s) := by
  unfold completeRead
  split
  · exact keeps_endStoreOp _ _ _ s
  all_goals exact .refl s

theorem keeps_completeWrite (s : State) : Keeps s (completeWrite s) := by
  unfold completeWrite
  split
  · exact .after (keeps_endStoreOp _ _ _ _) (.of_eq rfl rfl rfl rfl rfl)
  all_goals exact .refl s

/-! ## Start-up -/

/-- The loader read on: the presets kept stay sound (R205, R206). -/
theorem keeps_loader {s t : State} (hparts : t.parts = s.parts) (hports : t.ports = s.ports)
    (hengine : t.engine = s.engine) (hpresets : presetInv s = true → presetInv t = true) : Keeps s t :=
  .of_beside (fun k => .of_eq (by rw [State.part, hparts, State.part]) (by rw [State.port, hports, State.port])
      (.of_eq (by rw [hengine])))
    fun h => ⟨hpresets h.presets, by rw [workInv, hengine]; exact h.copy⟩

theorem leNat_lt (bytes : List Byte) : leNat bytes < 256 ^ bytes.length := by
  induction bytes with
  | nil => simp [leNat]
  | cons b bs ih =>
    have := b.isLt
    rw [leNat, List.length_cons, pow_succ]
    omega

/-- An entry that is kept has its parameters in range (R206, R214). -/
theorem entryPreset_sound {bytes : List Byte} {p : Preset} (h : entryPreset bytes = some p) : p.sound = true := by
  have hbody : ∀ period high phase, entryBody bytes = .periodic period high phase → period ≤ 16777215 := by
    intro period high phase hbody
    unfold entryBody at hbody
    dsimp only at hbody
    split at hbody
    · rw [← (PresetBody.periodic.inj hbody).1]
      have hlt := leNat_lt ((bytes.drop 3).take 3)
      have : (256 : Nat) ^ ((bytes.drop 3).take 3).length ≤ 256 ^ 3 :=
        Nat.pow_le_pow_right (by omega) (List.length_take_le _ _)
      unfold fieldAt
      omega
    · cases hbody
  unfold entryPreset at h
  dsimp only at h
  split at h
  · split_ifs at h with hrange
    cases h
    unfold Preset.sound
    rw [hrange, Bool.true_and]
    dsimp only
    cases hcase : entryBody bytes with
    | periodic period high phase => simpa using hbody _ _ _ hcase
    | divided parent divisor high => rfl
  · cases h

theorem readTable_sound (fuel : Nat) {t : TableRead} (h : ∀ p ∈ t.kept, p.sound = true) :
    ∀ p ∈ (readTable fuel t).kept, p.sound = true := by
  induction fuel generalizing t with
  | zero => exact h
  | succ fuel ih =>
    unfold readTable
    split
    iterate 3 exact h
    · dsimp only
      split
      · rename_i hp
        refine ih fun q hq => ?_
        rcases List.mem_append.1 hq with hq | hq
        · exact h q hq
        · rw [List.mem_singleton.1 hq]
          exact entryPreset_sound hp
      · exact ih h

theorem keeps_endLoading {status : StoreStatus} {skipped : Nat} {defaults : Settings} {mask : BoardMask}
    {presets : List Preset} {s : State} (h : presetInv s = true → ∀ p ∈ presets, p.sound = true) :
    Keeps s (endLoading status skipped defaults mask presets s) := by
  unfold endLoading
  refine .after (keeps_settleStartUp _) (.after (keeps_forBoards (fun b s => keeps_breakBoard s b) _ _) ?_)
  exact keeps_loader rfl rfl rfl fun hs => by simpa [presetInv] using h hs

theorem keeps_endDefaulted (s : State) : Keeps s (endDefaulted s) := keeps_endLoading fun _ _ h => nomatch h

theorem keeps_loadRead (n : Nat) (s : State) : Keeps s (loadRead n s) := by
  unfold loadRead
  split
  · unfold loadBytes
    dsimp only
    split
    · rename_i hload
      have hheader (load : LoadWork) (hkept : (match load with
          | .table _ _ kept _ _ _ => kept.all Preset.sound
          | .header _ => true) = true) : Keeps s { s with loader := { s.loader with load := load } } :=
        keeps_loader rfl rfl rfl fun hs => by
          simp only [presetInv, hload, Bool.and_eq_true] at hs
          simp only [presetInv, Bool.and_eq_true]
          exact ⟨hs.1, hkept⟩
      split_ifs
      · exact hheader _ rfl
      · exact hheader _ rfl
      · exact keeps_endDefaulted s
    · rename_i settings mask kept skipped base bytes hload
      have hkept (hs : presetInv s = true) : ∀ p ∈ kept, p.sound = true := by
        simp only [presetInv, hload, Bool.and_eq_true, List.all_eq_true] at hs
        exact hs.2
      split
      · exact keeps_endLoading fun hs => readTable_sound _ (hkept hs)
      · refine keeps_loader rfl rfl rfl fun hs => ?_
        have hread := readTable_sound ((bytes ++ readCells s.store s.loader.load.next
          (min n s.loader.load.room)).length + 1) (t := ⟨kept, skipped, base, bytes ++ readCells s.store
          s.loader.load.next (min n s.loader.load.room), false⟩) (hkept hs)
        simp only [presetInv, Bool.and_eq_true, List.all_eq_true] at hs ⊢
        exact ⟨hs.1, hread⟩
  · exact .refl s

theorem keeps_failAccess (s : State) : Keeps s (failAccess s) := by
  unfold failAccess
  split
  · exact keeps_endDefaulted s
  · split
    · exact keeps_endStoreOp _ _ _ s
    · exact .after (keeps_endStoreOp _ _ _ _) (.of_eq rfl rfl rfl rfl rfl)
    · exact .refl s

/-- After device reset the invariants hold (R201). -/
theorem keeps_afterReset (held : Bool) (s : State) : Keeps s (afterReset held s) := by
  have hpart (k : Slot) : (afterReset held s).part k = Partition.reset := by
    simp [afterReset, State.part, State.reset]
  have hport (k : Slot) : ((afterReset held s).port k).work = none := by
    simp [afterReset, State.port, Port.afterReset, Port.reset]
  have hitem : (afterReset held s).engine.item = none := rfl
  refine ⟨fun _ k => ?_, fun _ => ⟨fun k => ?_, rfl, rfl⟩, fun _ k => ?_⟩
  · constructor
    all_goals rw [hpart]
    · exact ⟨[], [], rfl, .nil _⟩
    · exact fun _ => rfl
    · exact fun h => nomatch h
    · exact fun _ h => nomatch h
    · exact fun w hw => nomatch hitem ▸ hw
    · rw [hport]
      exact fun h => nomatch h
  · constructor
    all_goals rw [hpart]
    · exact ⟨Nat.zero_le _, rfl⟩
    · exact fun _ h => nomatch h
    · rw [hport]
      exact fun _ h => nomatch h
  · unfold GroupSoundAt
    rw [hpart]
    exact fun h => absurd rfl h

end

end Sys2Proof.Machine
end


section
/-! SUPPORT. The clock requests keep the clocks sound (R14 to R28): each change of one clock, of the list of a partition's
clocks, and the presets that OPEN applies. -/

namespace Sys2Proof.Machine

/-! ## Parameters in range -/

/-- The parameters of a clock, and a retime pending for it, are in their ranges (R4, R5, R25). -/
def Wave.inRange : Wave → Prop
  | .periodic w => w.inRange
  | .divided w => w.inRange

theorem Wave.soundAfter.inRange {v : Nat} {w : Wave} (h : w.soundAfter v) : w.inRange := by
  cases w <;> exact h.1

/-- A clock in OFF is sound when its level is 0, its placeholders are those of R6 and its parameters are in range. -/
theorem ClockEntry.sound_off_iff {e : ClockEntry} (h : e.state = .off) (v : Nat) :
    e.sound v = true ↔ e.level = false ∧ e.wave = e.wave.atRest ∧ e.wave.inRange := by
  obtain ⟨n, st, level, wave⟩ := e
  subst h
  cases wave with
  | periodic w =>
    obtain ⟨period, high, phase, next, polarity, retime⟩ := w
    simp only [ClockEntry.sound, ClockEntry.waveSound, ClockEntry.levelSound, ClockEntry.restSound, Wave.atRest,
      Wave.inRange, PeriodicWave.inRange]
    simp
    grind
  | divided w =>
    obtain ⟨divisor, high, count, retime⟩ := w
    simp only [ClockEntry.sound, ClockEntry.waveSound, ClockEntry.levelSound, ClockEntry.restSound, Wave.atRest,
      Wave.inRange, DividedWave.inRange]
    simp
    grind

theorem ClockEntry.sound_inRange {e : ClockEntry} {v : Nat} (h : e.sound v = true) : e.wave.inRange := by
  by_cases hoff : e.state = .off
  · exact ((ClockEntry.sound_off_iff hoff v).1 h).2.2
  · exact ((ClockEntry.sound_iff hoff v).1 h).1.inRange

theorem Wave.inRange_settleRetime {w : Wave} (h : w.inRange) : w.settleRetime.inRange := by
  cases w with
  | periodic w => exact PeriodicWave.inRange_applyRetime h fun n hn => Nat.mod_lt _ hn
  | divided w => exact DividedWave.inRange_applyRetime h

/-- The first rise on the grid comes after `v`, within one period or at the phase (R19). -/
theorem PeriodicWave.firstRise_bounds {w : PeriodicWave} (hp : 0 < w.period) (v : Nat) :
    v < w.firstRise v ∧ w.firstRise v ≤ max w.phase (v + w.period) := by
  unfold PeriodicWave.firstRise
  have := Nat.mod_lt (v - w.phase) hp
  split <;> omega

/-- A clock started on its grid after a time in virtual time is sound, with its waveform low (R19, R20, R28). -/
theorem Wave.started_sound {w : Wave} {v : Nat} (h : w.inRange) (hv : v ≤ Config.maxTime) :
    (w.started v).soundAfter v ∧ (w.started v).high = false := by
  cases w with
  | periodic w =>
    obtain ⟨hper, hlow, hhigh, hphase, hretime⟩ := h
    obtain ⟨hlater, hbound⟩ := PeriodicWave.firstRise_bounds (w := w) (by omega) v
    refine ⟨⟨⟨hper, hlow, hhigh, hphase, hretime⟩, hlater, ?_⟩, rfl⟩
    change w.firstRise v < 2 ^ 50
    unfold Config.maxTime at hv
    omega
  | divided w =>
    obtain ⟨hdiv, hlow, hhigh, hretime⟩ := h
    refine ⟨⟨⟨hdiv, hlow, hhigh, hretime⟩, ?_⟩, ?_⟩
    · change w.divisor - 1 < w.divisor
      omega
    · change decide (w.divisor - 1 < w.high) = false
      simp
      omega

/-! ## One clock changed -/

section
variable {e : ClockEntry} {v : Nat}

@[simp] theorem ClockEntry.enable_localNo : (e.enable v).localNo = e.localNo := by
  unfold ClockEntry.enable
  split <;> rfl

@[simp] theorem ClockEntry.disable_localNo : e.disable.localNo = e.localNo := by
  unfold ClockEntry.disable
  split
  any_goals rfl
  all_goals split <;> rfl

@[simp] theorem ClockEntry.gate_localNo : e.gate.localNo = e.localNo := by
  unfold ClockEntry.gate
  split <;> rfl

@[simp] theorem ClockEntry.ungate_localNo : e.ungate.localNo = e.localNo := by
  unfold ClockEntry.ungate
  split <;> rfl

@[simp] theorem ClockEntry.timeReset_localNo : e.timeReset.localNo = e.localNo := by
  unfold ClockEntry.timeReset
  split <;> rfl

theorem ClockEntry.enable_sound (h : e.sound v = true) (hv : v ≤ Config.maxTime) : (e.enable v).sound v = true := by
  unfold ClockEntry.enable
  split
  · obtain ⟨hstarted, hlow⟩ := Wave.started_sound (ClockEntry.sound_inRange h) hv
    exact (ClockEntry.sound_iff (by simp) v).2 ⟨hstarted, by simp [ClockEntry.levelSound, hlow]⟩
  · rename_i hst
    obtain ⟨hwave, hlevel⟩ := (ClockEntry.sound_iff (by simp [hst]) v).1 h
    simp only [ClockEntry.levelSound, hst, Bool.and_eq_true] at hlevel
    exact (ClockEntry.sound_iff (by simp) v).2 ⟨hwave, by simp [ClockEntry.levelSound, hlevel]⟩
  all_goals exact h

theorem ClockEntry.disable_sound (h : e.sound v = true) : e.disable.sound v = true := by
  have hlive (hoff : e.state ≠ .off) (hpending : e.state ≠ .offPending) :
      (if e.level then { e with state := .offPending } else e.enterOff : ClockEntry).sound v = true := by
    obtain ⟨hwave, hlevel⟩ := (ClockEntry.sound_iff hoff v).1 h
    split
    · rename_i hone
      refine (ClockEntry.sound_iff (by simp) v).2 ⟨hwave, ?_⟩
      cases hst : e.state <;> simp_all [ClockEntry.levelSound]
    · exact ClockEntry.enterOff_sound hwave v
  unfold ClockEntry.disable
  split
  · exact h
  · exact h
  all_goals
    rename_i hst
    exact hlive (by simp [hst]) (by simp [hst])

theorem ClockEntry.gate_sound (h : e.sound v = true) : e.gate.sound v = true := by
  unfold ClockEntry.gate
  split
  · rename_i hst
    obtain ⟨hwave, hlevel⟩ := (ClockEntry.sound_iff (by simp [hst]) v).1 h
    refine (ClockEntry.sound_iff (by dsimp only; split <;> simp) v).2 ⟨hwave, ?_⟩
    simp only [ClockEntry.levelSound, hst, beq_iff_eq] at hlevel
    cases hone : e.level <;> simp [ClockEntry.levelSound, ← hlevel, hone]
  · rename_i hst
    obtain ⟨hwave, hlevel⟩ := (ClockEntry.sound_iff (by simp [hst]) v).1 h
    exact (ClockEntry.sound_iff (by simp) v).2 ⟨hwave, by simpa [ClockEntry.levelSound, hst] using hlevel⟩
  all_goals exact h

theorem ClockEntry.ungate_sound (h : e.sound v = true) : e.ungate.sound v = true := by
  unfold ClockEntry.ungate
  split
  · rename_i hst
    obtain ⟨hwave, hlevel⟩ := (ClockEntry.sound_iff (by simp [hst]) v).1 h
    exact (ClockEntry.sound_iff (by simp) v).2 ⟨hwave, by simpa [ClockEntry.levelSound, hst] using hlevel⟩
  · rename_i hst
    obtain ⟨hwave, hlevel⟩ := (ClockEntry.sound_iff (by simp [hst]) v).1 h
    simp only [ClockEntry.levelSound, hst, Bool.and_eq_true] at hlevel
    exact (ClockEntry.sound_iff (by simp) v).2 ⟨hwave, by simp [ClockEntry.levelSound, hlevel]⟩
  all_goals exact h

/-- A clock re-established at time 0 is sound after it (R28). -/
theorem ClockEntry.timeReset_sound (h : e.sound v = true) : e.timeReset.sound 0 = true := by
  have hrestarted (st : ClockState) (hst : st = .active ∨ st = .gated ∨ st = .ungatePending) :
      ({ e with state := st, level := false, wave := e.wave.settleRetime.started 0 } : ClockEntry).sound 0 = true := by
    obtain ⟨hstarted, hlow⟩ := Wave.started_sound (Wave.inRange_settleRetime (ClockEntry.sound_inRange h))
      (Nat.zero_le Config.maxTime)
    refine (ClockEntry.sound_iff (by rcases hst with rfl | rfl | rfl <;> simp) 0).2 ⟨hstarted, ?_⟩
    rcases hst with rfl | rfl | rfl <;> simp [ClockEntry.levelSound, hlow]
  have hsame {st : ClockState} (hst : e.state = st) :
      ({ e with level := false, wave := e.wave.settleRetime.started 0 } : ClockEntry)
        = { e with state := st, level := false, wave := e.wave.settleRetime.started 0 } := by rw [hst]
  unfold ClockEntry.timeReset
  split
  · rename_i hst
    rwa [ClockEntry.sound_off hst 0 v]
  · rename_i hst
    exact ClockEntry.enterOff_sound ((ClockEntry.sound_iff (by simp [hst]) v).1 h).1 0
  · exact hrestarted .gated (.inr (.inl rfl))
  · rename_i hst
    rw [hsame hst]
    exact hrestarted .active (.inl rfl)
  · rename_i hst
    rw [hsame hst]
    exact hrestarted .gated (.inr (.inl rfl))
  · rename_i hst
    rw [hsame hst]
    exact hrestarted .ungatePending (.inr (.inr rfl))

/-- A high time or high count brought into range (R16, R25). -/
theorem keptHigh_inRange {total : Nat} (h : 2 ≤ total) (high : Nat) :
    0 < keptHigh total high ∧ keptHigh total high < total := by
  unfold keptHigh clampTo
  omega

/-- A retime in range leaves a clock sound, applied at once in OFF and pending in every other state (R26). -/
theorem ClockEntry.retime_sound {first second : BitVec 24} (h : e.sound v = true)
    (hvalid : e.wave.retimeValid (e.wave.retimeValues first second).1 = true) :
    ({ e with
        wave := e.wave.retime (e.state == .off) (e.wave.retimeValues first second).1
          (keptHigh (e.wave.retimeValues first second).1 (e.wave.retimeValues first second).2) }
      : ClockEntry).sound v = true := by
  obtain ⟨n, st, level, wave⟩ := e
  have hfirst := first.isLt
  cases wave with
  | periodic w =>
    replace hvalid : 2 ≤ first.toNat := of_decide_eq_true hvalid
    simp only [Wave.retimeValues]
    obtain ⟨hpos, hlt⟩ := keptHigh_inRange hvalid second.toNat
    by_cases hoff : st = .off
    · subst hoff
      obtain ⟨hlevel, hrest, hper, -, -, -, hretime⟩ := (ClockEntry.sound_off_iff rfl v).1 h
      rw [ClockEntry.sound_off_iff rfl]
      simp only [Wave.atRest, Wave.periodic.injEq] at hrest
      refine ⟨hlevel, ?_, ?_⟩
      · simp only [Wave.retime, Wave.atRest, beq_self_eq_true, if_true, Wave.periodic.injEq]
        rw [hrest]
      · refine ⟨by dsimp only; omega, hpos, hlt, Nat.mod_lt _ (by omega), hretime⟩
    · obtain ⟨⟨⟨hper, hlow, hhigh, hphase, -⟩, hnext⟩, hlevel⟩ := (ClockEntry.sound_iff hoff v).1 h
      have hlive : (st == ClockState.off) = false := by simpa using hoff
      rw [ClockEntry.sound_iff hoff]
      simp only [Wave.retime, hlive]
      exact ⟨⟨⟨hper, hlow, hhigh, hphase, retimeSound_some.2 ⟨by omega, hpos, hlt⟩⟩, hnext⟩, hlevel⟩
  | divided w =>
    replace hvalid : 2 ≤ first.toNat % 65536 ∧ first.toNat % 65536 ≤ 256 :=
      (Bool.and_eq_true_iff.1 hvalid).imp of_decide_eq_true of_decide_eq_true
    simp only [Wave.retimeValues]
    obtain ⟨hpos, hlt⟩ := keptHigh_inRange hvalid.1 (second.toNat % 65536)
    by_cases hoff : st = .off
    · subst hoff
      obtain ⟨hlevel, hrest, hdiv, -, -, hretime⟩ := (ClockEntry.sound_off_iff rfl v).1 h
      rw [ClockEntry.sound_off_iff rfl]
      simp only [Wave.atRest, Wave.divided.injEq] at hrest
      refine ⟨hlevel, ?_, hvalid.2, hpos, hlt, hretime⟩
      simp only [Wave.retime, Wave.atRest, beq_self_eq_true, if_true, Wave.divided.injEq]
      rw [hrest]
    · obtain ⟨⟨⟨hdiv, hlow, hhigh, -⟩, hcount⟩, hlevel⟩ := (ClockEntry.sound_iff hoff v).1 h
      have hlive : (st == ClockState.off) = false := by simpa using hoff
      rw [ClockEntry.sound_iff hoff]
      simp only [Wave.retime, hlive]
      exact ⟨⟨⟨hdiv, hlow, hhigh, retimeSound_some.2 ⟨hvalid.2, hpos, hlt⟩⟩, hcount⟩, hlevel⟩

end

/-! ## Definitions -/

/-- The clock a definition makes is in OFF and sound (R16, R17). -/
def Definition.sound (d : Definition) : Prop :=
  ∀ (n : LocalNo) (v : Nat), (⟨n, .off, false, d.wave⟩ : ClockEntry).sound v = true

theorem definePeriodic_sound {period : Nat} (hlow : 2 ≤ period) (htop : period ≤ 16777215) (high phase : Nat) :
    (definePeriodic period high phase).sound := by
  intro n v
  obtain ⟨hpos, hlt⟩ := keptHigh_inRange hlow high
  rw [ClockEntry.sound_off_iff rfl]
  exact ⟨rfl, rfl, htop, hpos, hlt, Nat.mod_lt _ (by omega), rfl⟩

theorem defineDivided_sound {divisor : Nat} (hlow : 2 ≤ divisor) (htop : divisor ≤ 256) (parent : LocalNo)
    (high : Nat) : (defineDivided parent divisor high).sound := by
  intro n v
  obtain ⟨hpos, hlt⟩ := keptHigh_inRange hlow high
  rw [ClockEntry.sound_off_iff rfl]
  exact ⟨rfl, rfl, htop, hpos, hlt, rfl⟩

theorem definitionOf_sound {body : ClockBody} {d : Definition} (h : definitionOf body = some d) : d.sound := by
  unfold definitionOf at h
  split at h
  · rename_i period high phase
    split_ifs at h with hlow
    cases h
    have := period.isLt
    exact definePeriodic_sound hlow (by omega) _ _
  · split at h
    · split_ifs at h with hrange
      cases h
      exact defineDivided_sound hrange.1 hrange.2 _ _
    · cases h
  · cases h

theorem Preset.sound_definition {p : Preset} (h : p.sound = true) : p.body.definition.sound := by
  obtain ⟨slot, n, body, enable⟩ := p
  cases body with
  | periodic period high phase =>
    simp only [Preset.sound, PresetBody.inRange, Bool.and_eq_true, decide_eq_true_eq] at h
    exact definePeriodic_sound h.1 h.2 _ _
  | divided parent divisor high =>
    simp only [Preset.sound, PresetBody.inRange, Bool.and_eq_true, decide_eq_true_eq] at h
    exact defineDivided_sound h.1.1.2 h.1.2 _ _

/-- A definition is taken only for a local number without a clock (R15). -/
theorem definitionRecord_ok {k : Slot} {n : LocalNo} {kind : ClockKind} {s : State} {i : Fin 48}
    (h : definitionRecord k n kind s = .ok i) : findClock (s.part k).fired n = none := by
  unfold definitionRecord at h
  split_ifs at h with hused
  all_goals simpa using hused

/-! ## The clocks of a partition -/

section
variable {v : Nat} {snap : Snapshot} {n : LocalNo}

theorem findClock_eq_none : findClock snap n = none ↔ ∀ e ∈ snap, e.localNo ≠ n := by
  simp [findClock]

/-- The clock found is the only one of its local number (R3). -/
theorem findClock_unique {e e' : ClockEntry} (h : soundClocks v snap = true) (hfind : findClock snap n = some e)
    (hmem : e' ∈ snap) (hlocal : e'.localNo = n) : e' = e := by
  have hn : e.localNo = n := by simpa using List.find?_some hfind
  exact List.inj_on_of_nodup_map ((soundClocks_iff v snap).1 h).2 hmem (List.mem_of_find?_eq_some hfind)
    (hlocal.trans hn.symm)

theorem SoundAfter.updateClock {f : ClockEntry → ClockEntry} (h : SoundAfter v snap)
    (hlocal : ∀ e, (f e).localNo = e.localNo)
    (hf : ∀ e ∈ snap, e.localNo = n → e.sound v = true → (f e).sound v = true) :
    SoundAfter v (updateClock n f snap) := by
  obtain ⟨hv, hclocks⟩ := h
  rw [soundClocks_iff] at hclocks
  refine ⟨hv, (soundClocks_iff _ _).2 ⟨fun e' he' => ?_, ?_⟩⟩
  · obtain ⟨e, he, rfl⟩ := List.mem_map.1 he'
    split
    · exact hf e he ‹_› (hclocks.1 e he)
    · exact hclocks.1 e he
  · have hmap : (Machine.updateClock n f snap).map ClockEntry.localNo = snap.map ClockEntry.localNo := by
      rw [Machine.updateClock, List.map_map]
      refine List.map_congr_left fun e _ => ?_
      simp only [Function.comp_apply]
      split
      · exact hlocal e
      · rfl
    rw [hmap]
    exact hclocks.2

theorem SoundAfter.append {d : Definition} (h : SoundAfter v snap) (hd : d.sound)
    (hnew : findClock snap n = none) : SoundAfter v (snap ++ [⟨n, .off, false, d.wave⟩]) := by
  obtain ⟨hv, hclocks⟩ := h
  rw [soundClocks_iff] at hclocks
  refine ⟨hv, (soundClocks_iff _ _).2 ⟨fun e he => ?_, ?_⟩⟩
  · rcases List.mem_append.1 he with he | he
    · exact hclocks.1 e he
    · rw [List.mem_singleton.1 he]
      exact hd n v
  · rw [List.map_append, List.nodup_append]
    refine ⟨hclocks.2, by simp, fun a ha b hb => ?_⟩
    obtain ⟨e, he, rfl⟩ := List.mem_map.1 ha
    rw [List.map_singleton, List.mem_singleton] at hb
    rw [hb]
    exact findClock_eq_none.1 hnew e he

theorem SoundAfter.filter (h : SoundAfter v snap) (test : ClockEntry → Bool) : SoundAfter v (snap.filter test) := by
  obtain ⟨hv, hclocks⟩ := h
  rw [soundClocks_iff] at hclocks
  exact ⟨hv, (soundClocks_iff _ _).2 ⟨fun e he => hclocks.1 e (List.mem_of_mem_filter he),
    hclocks.2.sublist (List.filter_sublist.map _)⟩⟩

theorem SoundAfter.timeReset (h : SoundAfter v snap) : SoundAfter 0 (snap.map ClockEntry.timeReset) := by
  obtain ⟨-, hclocks⟩ := h
  rw [soundClocks_iff] at hclocks
  refine ⟨Nat.zero_le _, (soundClocks_iff _ _).2 ⟨fun e' he' => ?_, ?_⟩⟩
  · obtain ⟨e, he, rfl⟩ := List.mem_map.1 he'
    exact ClockEntry.timeReset_sound (hclocks.1 e he)
  · simpa [Function.comp_def] using hclocks.2

end

/-! ## The requests -/

section
variable {s : State} {k : Slot}

theorem keeps_placeClock {n : LocalNo} {d : Definition} (hd : d.sound) (hnew : findClock (s.part k).fired n = none)
    (i : Fin 48) : Keeps s (placeClock k n d i s) := by
  refine .after (keeps_updFired fun hs _ => hs.fired.append hd ?_) (keeps_setRecord s i _)
  exact hnew

theorem keeps_defineClock {n : LocalNo} {d : Definition} (hd : d.sound) : Keeps s (defineClock k n d s) := by
  unfold defineClock
  split
  · exact keeps_refuse _ s
  · exact .after (keeps_respond _ _ _ _) (keeps_placeClock hd (definitionRecord_ok ‹_›) _)

theorem keeps_removeClock (n : LocalNo) : Keeps s (removeClock k n s) := by
  unfold removeClock
  dsimp only
  refine .after (keeps_updFired fun hs _ => hs.fired.filter _) ?_
  split
  · exact keeps_setRecord s _ _
  · exact .refl s

/-- A clock that is refused in some state, and otherwise changed (R20, R22 to R24). -/
theorem keeps_refuse_or_setClock {c : Prop} [Decidable c] (status : Status) (n : LocalNo)
    {f : ClockEntry → ClockEntry} (hlocal : ∀ e, (f e).localNo = e.localNo)
    (hf : ∀ e, (s.part k).vt ≤ Config.maxTime → e.sound (s.part k).vt = true → (f e).sound (s.part k).vt = true) :
    Keeps s (if c then refuse k status s else setClock k n f s) := by
  split
  · exact keeps_refuse _ s
  · refine .after (keeps_respond _ _ _ _) (keeps_updFired fun hs _ => ?_)
    exact hs.fired.updateClock hlocal fun e _ _ he => hf e hs.fired.1 he

/-- A preset is applied at time 0, while the slot is opened (R58). -/
theorem keeps_applyPreset {p : Preset} {todo : List Preset} (hwork : openingTodo (s.port k).work = some (p :: todo)) :
    Keeps s (applyPreset k p s).1 := by
  unfold applyPreset
  dsimp only
  split
  · exact .refl s
  · rename_i i hi
    have hnew := definitionRecord_ok hi
    have hplaced : Keeps s (placeClock k p.localNo p.body.definition i s) := by
      refine .after (keeps_updFired fun hs _ => hs.fired.append ?_ hnew) (keeps_setRecord s i _)
      exact Preset.sound_definition ((hs.opening _ hwork).1 p List.mem_cons_self)
    split
    · split
      · exact hplaced
      · refine hplaced.trans (keeps_updFired fun hs _ => ?_)
        have hzero := (hs.opening (p :: todo) hwork).2.1
        refine hs.fired.updateClock (fun _ => ClockEntry.enable_localNo) fun e _ _ he => ?_
        rw [hzero] at he ⊢
        exact ClockEntry.enable_sound he (Nat.zero_le _)
    · exact hplaced

/-- What is left of an OPEN begins, goes on or is answered: the partition stands at time 0 in STOPPED (R57, R59). -/
theorem keeps_continueOpen {todo : List Preset} {applied notEnabled skipped : Nat} {clamped : List Preset}
    (htodo : ClockSoundAt s k → SharedSound s → (∀ p ∈ todo, p.sound = true) ∧ (s.part k).vt = 0
      ∧ (s.part k).state.isRun = false ∧ (s.part k).group = none) :
    Keeps s (continueOpen k todo applied notEnabled skipped clamped s) := by
  unfold continueOpen
  split
  · exact .after (keeps_respond _ _ _ _) (.of_eq rfl rfl rfl rfl rfl)
  · refine .of_slot k (fun j hj => .of_eq rfl (State.setPort_port_ne _ _ _ _ hj) (.of_eq rfl)) (fun hs => ?_)
      (fun hs hshared => ⟨?_, hshared.of_eq rfl rfl rfl⟩) id
    · obtain ⟨hshape, hrest, hwindow, hpoint, hitem, -⟩ := hs k
      refine ⟨hshape, hrest, hwindow, hpoint, hitem, fun h => ?_⟩
      rw [State.updPort_eq, State.setPort_port_self] at h
      exact nomatch h
    · refine ⟨(hs k).fired, (hs k).pipe, fun todo' h => ?_⟩
      rw [State.updPort_eq, State.setPort_port_self] at h
      cases h
      exact htodo (hs k) hshared

theorem openingTodo_eq_some {w : Option Work} {todo : List Preset} (h : openingTodo w = some todo) :
    ∃ applied notEnabled skipped clamped, w = some (.opening todo applied notEnabled skipped clamped) := by
  unfold openingTodo at h
  split at h
  · cases h
    exact ⟨_, _, _, _, rfl⟩
  · cases h

/-- Applying a preset changes the pool and the fired state alone. -/
theorem applyPreset_frame (p : Preset) : (applyPreset k p s).1.port k = s.port k
    ∧ ((applyPreset k p s).1.part k).vt = (s.part k).vt
    ∧ ((applyPreset k p s).1.part k).state = (s.part k).state
    ∧ ((applyPreset k p s).1.part k).group = (s.part k).group := by
  unfold applyPreset
  dsimp only
  split
  · exact ⟨rfl, rfl, rfl, rfl⟩
  · split
    · split <;> simp [placeClock, State.updFired]
    · simp [placeClock, State.updFired]

theorem keeps_openNext (k : Slot) (s : State) : Keeps s (openNext k s) := by
  unfold openNext
  split
  · rename_i p rest applied notEnabled skipped clamped hwork
    have htodo : openingTodo (s.port k).work = some (p :: rest) := by rw [hwork]; rfl
    obtain ⟨hport, hvt, hstate, hgroup⟩ := applyPreset_frame (s := s) (k := k) p
    have hrest : ClockSoundAt (applyPreset k p s).1 k → SharedSound (applyPreset k p s).1 →
        (∀ q ∈ rest, q.sound = true) ∧ ((applyPreset k p s).1.part k).vt = 0
          ∧ ((applyPreset k p s).1.part k).state.isRun = false ∧ ((applyPreset k p s).1.part k).group = none := by
      intro hs _
      obtain ⟨hall, hothers⟩ := hs.opening (p :: rest) (by rw [hport, htodo])
      exact ⟨fun q hq => hall q (List.mem_cons_of_mem p hq), hothers⟩
    dsimp only
    split <;> exact (keeps_applyPreset htodo).trans (keeps_continueOpen hrest)
  · exact .refl s

end

end Sys2Proof.Machine
end


section
/-! SUPPORT. Every command keeps the invariants of the pipes, the clocks and the groups (R4 to R8, R73, R106); then the
statement about every step. -/

namespace Sys2Proof.Machine

/-! ## Requests taken -/

/-- A request that waits is one that its port has handed over (R189). -/
theorem work_of_waits {s : State} {k : Slot} {r : Request} (h : Waits s k r) : (s.port k).work = some .handed := by
  have hhanded := h.2
  unfold State.handed at hhanded
  split_ifs at hhanded with hport
  exact hport.2

section
variable {s : State} {k : Slot}

/-- A request command keeps the invariants when what its request does keeps them. -/
theorem keeps_take {r : Request} {f : State → State} (hf : (s.port k).work = some .handed → Keeps s (f s)) :
    Answers (Keeps s) (take k r f s) := by
  rcases take_cases k r f s with ⟨hwaits, heq⟩ | heq <;> rw [heq]
  · exact answers_next (hf (work_of_waits hwaits))
  · exact answers_next (.refl s)

theorem keeps_act {f : State → State} (hf : Keeps s (f s)) : Answers (Keeps s) (act f s) := answers_act (.refl s) hf

theorem keeps_whenOpen {f : State → State} (hf : Keeps s (f s)) : Keeps s (whenOpen k f s) := by
  unfold whenOpen
  split
  · exact keeps_refuse _ s
  · exact hf

theorem keeps_whenStopped {f : State → State} (hf : (s.part k).state = .stopped → Keeps s (f s)) :
    Keeps s (whenStopped k f s) := by
  rcases whenStopped_cases k f s with heq | heq | ⟨hstopped, heq⟩ <;> rw [heq]
  · exact keeps_refuse _ s
  · exact keeps_refuse _ s
  · exact hf hstopped

/-- A clock request is refused, or does what it does with the clock it names (R14). -/
theorem keeps_withClock {localNo : Byte} {f : LocalNo → ClockEntry → State → State}
    (hf : ∀ n e, findClock (s.part k).fired n = some e → Keeps s (f n e s)) : Keeps s (withClock k localNo f s) := by
  unfold withClock
  split
  · exact keeps_refuse _ s
  · split
    · exact keeps_refuse _ s
    · exact hf _ _ ‹_›

/-- A clock request taken in STOPPED. -/
theorem keeps_clockRequest {localNo : Byte} {r : Request} {f : LocalNo → ClockEntry → State → State}
    (hf : ∀ n e, findClock (s.part k).fired n = some e → Keeps s (f n e s)) :
    Answers (Keeps s) (take k r (clockRequest k localNo f) s) :=
  keeps_take fun _ => keeps_whenStopped fun _ => keeps_withClock hf

theorem stopped_not_run (h : (s.part k).state = .stopped) : (s.part k).state.isRun = false := by rw [h]; rfl

/-- In STOPPED or FAULTED a partition is in no run. -/
theorem not_run_of_stopped_or_faulted (h : (s.part k).state = .stopped ∨ (s.part k).state = .faulted) :
    (s.part k).state.isRun = false := by rcases h with h | h <;> rw [h] <;> rfl

/-- While a request is handed over its port works no OPEN and no RECOVER. -/
theorem openingTodo_handed (h : (s.port k).work = some .handed) : openingTodo (s.port k).work = none := by rw [h]; rfl

theorem recovers_handed (h : (s.port k).work = some .handed) : recovers (s.port k).work = false := by rw [h]; rfl

/-! ## Partitions and boards -/

theorem keeps_execOpenSlot (k : Slot) (s : State) : Answers (Keeps s) (execOpenSlot k s) := by
  refine keeps_take fun hwork => ?_
  split
  · rename_i hclosed
    have hopened : Keeps s (s.setPart k (Partition.opened s.loader.defaults)) := by
      have hrest : (s.part k).state.isRun = false := by rw [hclosed]; rfl
      refine keeps_setPart_of (fun hs => ?_) (fun _ _ => ?_) fun _ => ?_
      · constructor
        all_goals rw [State.setPart_part_self]
        · exact ⟨[], [], rfl, .nil _⟩
        · exact fun _ => rfl
        · exact fun h => nomatch h
        · exact fun _ h => nomatch h
        · intro w hw hslot hvoid
          have hrun := (hs.item w hw hslot hvoid).1
          simp [hrest] at hrun
        · rw [State.setPart_port, recovers_handed hwork]
          exact fun h => nomatch h
      · constructor
        all_goals rw [State.setPart_part_self]
        · exact ⟨Nat.zero_le _, rfl⟩
        · exact fun _ h => nomatch h
        · rw [State.setPart_port, openingTodo_handed hwork]
          exact fun _ h => nomatch h
      · unfold GroupSoundAt
        rw [State.setPart_part_self]
        exact fun h => absurd rfl h
    refine hopened.trans (keeps_continueOpen fun _ hshared => ?_)
    rw [State.setPart_part_self]
    refine ⟨fun p hp => ?_, rfl, rfl, rfl⟩
    have hpresets := hshared.presets
    simp only [presetInv, Bool.and_eq_true, List.all_eq_true] at hpresets
    exact hpresets.1 p (List.mem_of_mem_filter hp)
  · exact keeps_refuse _ s

/-- Boards and their links, which the invariants do not read. -/
theorem keeps_changeBoards (test : Board → Bool) (f : BoardRecord → BoardRecord) (g : Link → Link) (s : State) :
    Keeps s (s.changeBoards test f g) :=
  .of_eq (s.changeBoards_parts _ _ _) (s.changeBoards_ports _ _ _) (s.changeBoards_engine _ _ _)
    (by rw [State.changeBoards_loader]) (by rw [State.changeBoards_loader])

theorem keeps_closePartition (hwork : (s.port k).work = some .handed)
    (hrest : (s.part k).state.isRun = false) : Keeps s (closePartition k s) := by
  have hitem (j : Slot) : ItemKept j s (closePartition k s) := fun w hw => by
    rw [closePartition_engine] at hw
    exact ItemKept.voidWork k j s w hw
  refine .of_slot k (fun j hj => .of_eq (closePartition_part_ne k s hj) (closePartition_port k s j) (hitem j))
    (fun hs => ?_) (fun hs hshared => ⟨?_, ?_⟩) fun _ => ?_
  · have hnil := (hs k).rest hrest
    constructor
    all_goals rw [closePartition_part_self]
    · exact ⟨[], [], hnil, .nil _⟩
    · exact fun _ => hnil
    · exact fun h => nomatch h
    · exact fun _ _ h => nomatch h
    · intro w hw hslot hvoid
      rw [closePartition_engine] at hw
      simp [voidWork_item_void hw hslot] at hvoid
    · rw [closePartition_port, recovers_handed hwork]
      exact fun h => nomatch h
  · constructor
    all_goals rw [closePartition_part_self]
    · exact ⟨(hs k).fired.1, rfl⟩
    · exact (hs k).pipe
    · rw [closePartition_port, openingTodo_handed hwork]
      exact fun _ h => nomatch h
  · exact ((keeps_voidWork k s).clocks ⟨hs, hshared⟩).2.of_eq (by rw [closePartition_engine])
      (by rw [closePartition_loader]; rfl) (by rw [closePartition_loader]; rfl)
  · unfold GroupSoundAt
    rw [closePartition_part_self]
    exact fun h => absurd rfl h

theorem keeps_execCloseSlot (k : Slot) (s : State) : Answers (Keeps s) (execCloseSlot k s) := by
  refine keeps_take fun hwork => keeps_whenOpen ?_
  split
  · exact .after (keeps_respond _ _ _ _) (keeps_closePartition hwork (not_run_of_stopped_or_faulted ‹_›))
  · exact keeps_refuse _ s

theorem keeps_execSetPartition (k : Slot) (window horizon gap retry backoff timeout attention : Byte) (s : State) :
    Answers (Keeps s) (execSetPartition k window horizon gap retry backoff timeout attention s) := by
  refine keeps_take fun _ => keeps_whenStopped fun hstopped => ?_
  refine .after (keeps_respond _ _ _ _) (.after (keeps_recompute fun _ => ?_)
    (keeps_updPart (fun _ => rfl) fun _ => rfl))
  rw [State.updPart_eq, State.setPart_part_self]
  exact stopped_not_run hstopped

theorem keeps_execClaimBoards (k : Slot) (set : BoardMask) (s : State) :
    Answers (Keeps s) (execClaimBoards k set s) := by
  refine keeps_take fun _ => keeps_whenStopped fun hstopped => ?_
  split_ifs
  · exact keeps_refuse _ s
  iterate 3 exact keeps_respond _ _ _ s
  · unfold takeClaim
    dsimp only
    split
    · exact keeps_respond _ _ _ s
    · rw [claimFresh_eq]
      refine .after (keeps_setPort (.of_plain rfl rfl)) (.after (keeps_recompute fun _ => ?_) ?_)
      · rw [boardsClaimed_part_self]
        exact stopped_not_run hstopped
      · unfold boardsClaimed
        refine .after (keeps_setPart ?_ ?_) (keeps_changeBoards _ _ _ s) <;> rw [State.changeBoards_part]
        · rfl
        · exact .inl

theorem keeps_execReleaseBoards (k : Slot) (set : BoardMask) (s : State) :
    Answers (Keeps s) (execReleaseBoards k set s) := by
  refine keeps_take fun _ => keeps_whenOpen ?_
  split
  · rename_i hstate
    unfold takeRelease
    dsimp only
    split
    · exact keeps_respond _ _ _ s
    · rw [releaseSet_eq]
      refine .after (keeps_respond _ _ _ _) (.after (keeps_recompute fun _ => ?_) (keeps_changeBoards _ _ _ s))
      rw [State.changeBoards_part]
      exact not_run_of_stopped_or_faulted hstate
  · exact keeps_refuse _ s

theorem keeps_execReprobe (k : Slot) (set : BoardMask) (s : State) : Answers (Keeps s) (execReprobe k set s) := by
  refine keeps_take fun _ => ?_
  split_ifs
  iterate 3 exact keeps_respond _ _ _ s
  · exact .after (keeps_setPort (.of_plain rfl rfl)) (keeps_forBoards (fun b s => keeps_breakBoard s b) _ _)

theorem keeps_execReadBoard (k : Slot) (board : Byte) (s : State) : Answers (Keeps s) (execReadBoard k board s) := by
  refine keeps_take fun _ => keeps_whenOpen ?_
  split
  · exact keeps_respond _ _ _ s
  · exact keeps_refuse _ s

/-- A partition that joins or leaves a group (R72, R73). -/
theorem keeps_regroup {p : Partition} (hwork : (s.port k).work = some .handed) (hstopped : (s.part k).state = .stopped)
    (hp : ∃ group stops, p = { s.part k with group := group, groupStops := stops })
    (hgroup : p.group ≠ none ∨ p.groupStops = []) : Keeps s (s.setPart k p) := by
  obtain ⟨group, stops, rfl⟩ := hp
  exact keeps_still (fun _ => stopped_not_run hstopped) (stopped_not_run hstopped) rfl (fun _ => rfl)
    (fun hs _ => ⟨hs.fired, fun _ h => nomatch (openingTodo_handed hwork).symm.trans h⟩)
    fun _ h => hgroup.resolve_right h

theorem keeps_execJoinGroup (k : Slot) (group : Byte) (s : State) : Answers (Keeps s) (execJoinGroup k group s) := by
  refine keeps_take fun hwork => keeps_whenStopped fun hstopped => ?_
  split
  · unfold takeJoin
    dsimp only
    split
    · exact keeps_refuse _ s
    · exact .after (keeps_respond _ _ _ _) (keeps_regroup hwork hstopped ⟨_, _, rfl⟩ (.inl nofun))
  · exact keeps_refuse _ s

theorem keeps_execLeaveGroup (k : Slot) (s : State) : Answers (Keeps s) (execLeaveGroup k s) := by
  refine keeps_take fun hwork => keeps_whenStopped fun hstopped => ?_
  refine .after (keeps_respond _ _ _ _) ?_
  by_cases hgroup : (s.part k).group.isSome = true
  · rw [State.updPart_eq, if_pos hgroup]
    exact keeps_regroup hwork hstopped ⟨_, _, rfl⟩ (.inr rfl)
  · rw [State.updPart_eq, if_neg hgroup]
    exact keeps_setPart rfl .inl

/-! ## Clocks -/

theorem keeps_execDefineClock (k : Slot) (localNo : Byte) (body : ClockBody) (s : State) :
    Answers (Keeps s) (execDefineClock k localNo body s) := by
  refine keeps_take fun _ => keeps_whenStopped fun _ => ?_
  split
  · exact keeps_defineClock (definitionOf_sound ‹_›)
  · exact keeps_refuse _ s

theorem keeps_execDeleteClock (k : Slot) (localNo : Byte) (s : State) :
    Answers (Keeps s) (execDeleteClock k localNo s) := by
  refine keeps_clockRequest fun n e _ => ?_
  split_ifs
  · exact keeps_refuse _ s
  · exact keeps_refuse _ s
  · exact .after (keeps_respond _ _ _ _) (keeps_removeClock n)

theorem keeps_execEnableClock (k : Slot) (localNo : Byte) (s : State) :
    Answers (Keeps s) (execEnableClock k localNo s) :=
  keeps_clockRequest fun n _ _ => keeps_refuse_or_setClock _ n (fun _ => ClockEntry.enable_localNo)
    fun _ hv he => ClockEntry.enable_sound he hv

theorem keeps_execDisableClock (k : Slot) (localNo : Byte) (s : State) :
    Answers (Keeps s) (execDisableClock k localNo s) :=
  keeps_clockRequest fun n _ _ => keeps_refuse_or_setClock _ n (fun _ => ClockEntry.disable_localNo)
    fun _ _ he => ClockEntry.disable_sound he

theorem keeps_execGateClock (k : Slot) (localNo : Byte) (s : State) : Answers (Keeps s) (execGateClock k localNo s) :=
  keeps_clockRequest fun n _ _ => keeps_refuse_or_setClock _ n (fun _ => ClockEntry.gate_localNo)
    fun _ _ he => ClockEntry.gate_sound he

theorem keeps_execUngateClock (k : Slot) (localNo : Byte) (s : State) :
    Answers (Keeps s) (execUngateClock k localNo s) :=
  keeps_clockRequest fun n _ _ => keeps_refuse_or_setClock _ n (fun _ => ClockEntry.ungate_localNo)
    fun _ _ he => ClockEntry.ungate_sound he

theorem keeps_execRetimeClock (k : Slot) (localNo : Byte) (first second : BitVec 24) (s : State) :
    Answers (Keeps s) (execRetimeClock k localNo first second s) := by
  refine keeps_clockRequest fun n e hfind => ?_
  dsimp only
  split
  · rename_i hvalid
    refine .after (keeps_respond _ _ _ _) (keeps_updFired fun hs _ => ?_)
    refine hs.fired.updateClock (fun _ => rfl) fun e' he' hlocal hsound => ?_
    obtain rfl := findClock_unique hs.fired.2 hfind he' hlocal
    exact ClockEntry.retime_sound hsound hvalid
  · exact keeps_refuse _ s

theorem keeps_execReadClock (k : Slot) (localNo : Byte) (s : State) : Answers (Keeps s) (execReadClock k localNo s) := by
  refine keeps_take fun _ => keeps_whenOpen (keeps_withClock fun n e _ => ?_)
  split
  · exact keeps_respond _ _ _ s
  · exact keeps_refuse _ s

/-- TIME_RESET re-establishes the clocks at time 0 (R28). -/
theorem keeps_resetTime (hwork : (s.port k).work = some .handed) (hstopped : (s.part k).state = .stopped) :
    Keeps s (resetTime k s) :=
  keeps_still (fun _ => stopped_not_run hstopped) (stopped_not_run hstopped) rfl (fun _ => rfl)
    (fun hs _ => ⟨hs.fired.timeReset, fun _ h => nomatch (openingTodo_handed hwork).symm.trans h⟩) id

theorem keeps_execTimeReset (k : Slot) (s : State) : Answers (Keeps s) (execTimeReset k s) := by
  refine keeps_take fun hwork => keeps_whenStopped fun hstopped => ?_
  have hreset := keeps_resetTime hwork hstopped
  dsimp only
  split
  · exact hreset.trans (keeps_endTimeReset _ k 0)
  · exact .after (keeps_setPort (.of_plain rfl rfl)) (.after (keeps_forBoards (fun b s => keeps_syncBoard s b _ _) _ _)
      (hreset.trans (keeps_syncPending _ k true)))

/-! ## Run control -/

theorem keeps_execSetupRun (k : Slot) (mode : Byte) (argument : BitVec 48) (s : State) :
    Answers (Keeps s) (execSetupRun k mode argument s) := by
  refine keeps_take fun _ => keeps_whenStopped fun _ => ?_
  split
  · exact keeps_refuse _ s
  · exact .after (keeps_respond _ _ _ _) (keeps_updPart (fun _ => rfl) fun _ => rfl)

theorem keeps_execRun (k : Slot) (s : State) : Answers (Keeps s) (execRun k s) := by
  refine keeps_take fun hwork => keeps_whenStopped fun hstopped => ?_
  split
  · exact keeps_refuse _ s
  · unfold takeRun
    dsimp only
    exact .after (keeps_engineSelect _) (.after (keeps_endAtStart _ k) (.after (keeps_respond _ _ _ _)
      (keeps_startRun hstopped (.inl (openingTodo_handed hwork)))))

/-- Every member of a group starts a run (R80). -/
theorem keeps_forSlots_startRun : ∀ (ks : List Slot) (s : State), ks.Nodup →
    (∀ j ∈ ks, (s.part j).state = .stopped ∧ (s.part j).group ≠ none) → Keeps s (forSlots startRun ks s)
  | [], s, _, _ => .refl s
  | k :: ks, s, hnodup, h => by
    obtain ⟨hnew, hks⟩ := List.nodup_cons.1 hnodup
    obtain ⟨hstopped, hgroup⟩ := h k List.mem_cons_self
    refine (keeps_startRun hstopped (.inr hgroup)).trans (keeps_forSlots_startRun ks _ hks fun j hj => ?_)
    have hne : j ≠ k := fun heq => hnew (heq ▸ hj)
    rw [startRun, State.updPart_eq, State.setPart_part_ne _ _ _ _ hne]
    exact h j (List.mem_cons_of_mem k hj)

theorem keeps_execGroupRun (k : Slot) (s : State) : Answers (Keeps s) (execGroupRun k s) := by
  refine keeps_take fun _ => keeps_whenOpen ?_
  split_ifs with hnone hready
  · exact keeps_refuse _ s
  · obtain ⟨g, hg⟩ := Option.ne_none_iff_exists'.1 fun hg => hnone (Option.isNone_iff_eq_none.2 hg)
    have hstarted : Keeps s (forSlots startRun (s.members k) s) :=
      keeps_forSlots_startRun _ s (s.members_nodup k) fun j hj => by
        have hmember := List.all_eq_true.1 hready j hj
        rw [memberReady_iff, decide_eq_true_iff] at hmember
        exact ⟨hmember.1, by simp [(State.mem_members hg j).1 hj]⟩
    unfold takeGroupRun
    dsimp only
    refine .after (keeps_engineSelectFree _) (forSlots_keeps (P := Keeps s) ?_ _ _ ?_)
    · exact fun j t ht => ht.trans (keeps_endAtStart t j)
    · exact .after (keeps_respond _ _ _ _) hstarted
  · exact keeps_respond _ _ _ s

theorem keeps_execPause (k : Slot) (s : State) : Answers (Keeps s) (execPause k s) := by
  refine keeps_take fun _ => keeps_whenOpen ?_
  split
  · rename_i hrunning
    exact .after (keeps_respond _ _ _ _) (keeps_runState (by rw [hrunning]; rfl) rfl)
  all_goals exact keeps_refuse _ s

theorem keeps_execResume (k : Slot) (s : State) : Answers (Keeps s) (execResume k s) := by
  refine keeps_take fun _ => keeps_whenOpen ?_
  split
  · rename_i hpaused
    refine .after (keeps_engineSelect _) (.after (keeps_advance _ k) (.after (keeps_respond _ _ _ _)
      (keeps_runState (by rw [hpaused]; rfl) ?_)))
    split <;> rfl
  · exact keeps_refuse _ s

theorem keeps_takeStop (k : Slot) (s : State) : Keeps s (takeStop k s) := by
  unfold takeStop
  refine .after (keeps_engineSelect _) (.after (keeps_respond _ _ _ _) (.after (keeps_advance _ k) ?_))
  refine (keeps_candidate s k (s.part k).firedFrontier .controller).trans ?_
  rw [State.updPart_eq]
  split
  · rename_i hpaused
    exact keeps_runState (by rw [hpaused]; rfl) rfl
  · exact keeps_setPart rfl .inl

theorem keeps_execStop (k : Slot) (s : State) : Answers (Keeps s) (execStop k s) := by
  refine keeps_take fun _ => keeps_whenOpen ?_
  split
  iterate 3 exact keeps_takeStop k s
  · exact keeps_respond _ _ _ s
  all_goals exact keeps_refuse _ s

/-- The work of a port becomes a RECOVER, in FAULTED (R102). -/
theorem keeps_beginRecover (hfaulted : (s.part k).state = .faulted) (replied : BoardMask) :
    Keeps s (s.updPort k fun p => { p with work := some (.recovering replied) }) := by
  refine .of_slot k (fun j hj => .of_eq rfl (State.setPort_port_ne _ _ _ _ hj) (.of_eq rfl)) (fun hs => ?_)
    (fun hs hshared => ⟨?_, hshared.of_eq rfl rfl rfl⟩) id
  · obtain ⟨hshape, hrest, hwindow, hpoint, hitem, -⟩ := hs k
    exact ⟨hshape, hrest, hwindow, hpoint, hitem, fun _ => hfaulted⟩
  · refine ⟨(hs k).fired, (hs k).pipe, fun todo h => ?_⟩
    rw [State.updPort_eq, State.setPort_port_self] at h
    exact nomatch h

theorem keeps_execRecover (k : Slot) (s : State) : Answers (Keeps s) (execRecover k s) := by
  refine keeps_take fun _ => keeps_whenOpen ?_
  split
  · rename_i hfaulted
    have hpending := keeps_syncPending s k true
    have hstill : ((s.updPart k fun p => { p with syncPending := true }).part k).state = .faulted := by
      rw [State.updPart_eq, State.setPart_part_self]
      exact hfaulted
    unfold takeRecover
    dsimp only
    split
    · exact hpending.trans (keeps_endRecover 0 (.inr hstill))
    · refine .after (keeps_beginRecover ?_ 0) (hpending.trans (keeps_forBoards (fun b s => keeps_breakBoard s b) _ _))
      refine (forBoards_keeps (P := fun t => (t.part k).state = .faulted) ?_ _ _ hstill)
      exact fun b t h => h
  · exact keeps_refuse _ s

theorem keeps_execClearErrors (k : Slot) (s : State) : Answers (Keeps s) (execClearErrors k s) :=
  keeps_take fun _ => keeps_whenStopped fun _ =>
    .after (keeps_respond _ _ _ _) (keeps_updPart (fun _ => rfl) fun _ => rfl)

theorem keeps_nextGroupStop (k : Slot) (s : State) : Keeps s (nextGroupStop k s) := by
  unfold nextGroupStop
  split
  · exact .refl s
  · rename_i hstops
    exact .after (keeps_engineSelect _) (.after (keeps_takeGroupStop _ k)
      (keeps_setPart rfl fun _ => .inl (by simp [hstops])))

theorem keeps_expireGap (k : Slot) (s : State) : Keeps s (expireGap k s) := by
  unfold expireGap
  split
  · exact .refl s
  · exact .after (keeps_engineSelect _) (.after (keeps_advance _ k) (keeps_updPart (fun _ => rfl) fun _ => rfl))

/-! ## The filter, the events and the links -/

theorem keeps_updFilter (f : Filter → Filter) : Keeps s (s.updFilter k f) :=
  keeps_updPart (fun _ => rfl) fun _ => rfl

theorem keeps_execSetFilter (k : Slot) (mode : Byte) (count : BitVec 16) (logUnmatched : Byte) (s : State) :
    Answers (Keeps s) (execSetFilter k mode count logUnmatched s) := by
  refine keeps_take fun _ => keeps_whenOpen ?_
  split
  · exact keeps_refuse _ s
  · exact .after (keeps_respond _ _ _ _) (keeps_updFilter _)

theorem keeps_execSetMatch (k : Slot) (index : Byte) (id care : BitVec 16) (enable : Byte) (s : State) :
    Answers (Keeps s) (execSetMatch k index id care enable s) := by
  refine keeps_take fun _ => keeps_whenOpen ?_
  split
  · exact .after (keeps_respond _ _ _ _) (keeps_updFilter _)
  · exact keeps_refuse _ s

theorem keeps_takeHash (enable : Byte) (change : BitVec 64 → BitVec 64) : Keeps s (takeHash k enable change s) :=
  .after (keeps_respond _ _ _ _) (keeps_updFilter _)

theorem keeps_execSetHashAddIds (k : Slot) (enable count : Byte) (ids : List TriggerId) (s : State) :
    Answers (Keeps s) (execSetHashAddIds k enable count ids s) := by
  refine keeps_take fun _ => keeps_whenOpen ?_
  split
  · exact keeps_takeHash _ _
  · exact keeps_refuse _ s

theorem keeps_takeEvents (count : Byte) : Keeps s (takeEvents k count s) :=
  .after (keeps_respond _ _ _ _) (keeps_updPart (fun _ => rfl) fun _ => rfl)

theorem keeps_received (b : Board) (f : UpFrame) (s : State) : Answers (Keeps s) (received b f s) :=
  keeps_act ((keeps_receiveFrame s b f).trans (keeps_settle _))

/-- A command that changes one link. -/
theorem keeps_act_updLink (b : Board) (f : State → Link → Link) :
    Answers (Keeps s) (act (fun s => s.updLink b (f s)) s) := keeps_act (keeps_setLink s b _)

theorem keeps_execUnknownTransaction (k : Slot) (b : Byte) (dataIn : List Bool) (s : State) :
    Answers (Keeps s) (execUnknownTransaction k b dataIn s) := by
  refine keeps_act ?_
  split
  · exact .refl s
  · exact keeps_transact k b dataIn s

theorem keeps_execSelectFall (k : Slot) (s : State) : Answers (Keeps s) (execSelectFall k s) := by
  refine answers_next (keeps_updPort fun p => ?_)
  split
  · exact p.fallHeld_work
  · exact p.fall_work

theorem keeps_execReadCabinet (k : Slot) (s : State) : Answers (Keeps s) (execReadCabinet k s) := by
  unfold execReadCabinet
  exact keeps_take fun _ => keeps_respond _ _ _ s

theorem keeps_execStrobeFall (k : Slot) (s : State) : Answers (Keeps s) (execStrobeFall k s) := by
  unfold execStrobeFall
  exact keeps_act (keeps_mapLinks s _)

theorem keeps_execReceiveError (b : Board) (samples : List Bool) (s : State) :
    Answers (Keeps s) (execReceiveError b samples s) := by
  unfold execReceiveError
  exact keeps_act (.after (keeps_settle _) (keeps_receiveSamples s b samples))

end

/-- Every command keeps the three invariants. -/
theorem exec_keeps (c : Instr) (s : State) : Answers (Keeps s) (exec c s) := by
  cases c with
  | deviceReset => exact answers_next (keeps_afterReset false s)
  | resetAsserted => exact answers_next (keeps_afterReset true s)
  | loadReadComplete n => exact keeps_act (keeps_loadRead n s)
  | storeAddressNak => exact keeps_act (keeps_failAccess s)
  | storeAccessTimeout => exact keeps_act (keeps_failAccess s)
  | storeRead k address length => exact keeps_take fun _ => keeps_storeRequest k _ _ s
  | storeReadComplete => exact keeps_act (keeps_completeRead s)
  | storeWrite k address length data => exact keeps_take fun _ => keeps_storeRequest k _ _ s
  | storeWriteComplete => exact keeps_act (keeps_completeWrite s)
  | selectFall k => exact keeps_execSelectFall k s
  | selectRise k => exact answers_next (keeps_updPort fun p => p.rise_work)
  | writeRequest k dataIn => exact keeps_act (keeps_transact k _ dataIn s)
  | requestFrameEnd k => exact keeps_act (keeps_endRequestFrame k s)
  | readResponse k dataIn => exact keeps_act (keeps_transact k _ dataIn s)
  | readPortStatus k dataIn => exact keeps_act (keeps_transact k _ dataIn s)
  | unknownTransaction k b dataIn => exact keeps_execUnknownTransaction k b dataIn s
  | inactivityTimeout k => exact keeps_act (f := fun s => s.updPort k Port.expire) (keeps_updPort fun p => p.expire_work)
  | openSlot k => exact keeps_execOpenSlot k s
  | presetApply k => exact keeps_act (keeps_openNext k s)
  | closeSlot k => exact keeps_execCloseSlot k s
  | setPartition k window horizon gap retry backoff timeout attention =>
    exact keeps_execSetPartition k window horizon gap retry backoff timeout attention s
  | readPartition k => exact keeps_take fun _ => keeps_whenOpen (keeps_respond _ _ _ s)
  | claimBoards k set => exact keeps_execClaimBoards k set s
  | releaseBoards k set => exact keeps_execReleaseBoards k set s
  | reprobe k set => exact keeps_execReprobe k set s
  | readBoard k board => exact keeps_execReadBoard k board s
  | readCabinet k => exact keeps_execReadCabinet k s
  | joinGroup k group => exact keeps_execJoinGroup k group s
  | leaveGroup k => exact keeps_execLeaveGroup k s
  | defineClock k localNo body => exact keeps_execDefineClock k localNo body s
  | deleteClock k localNo => exact keeps_execDeleteClock k localNo s
  | enableClock k localNo => exact keeps_execEnableClock k localNo s
  | disableClock k localNo => exact keeps_execDisableClock k localNo s
  | gateClock k localNo => exact keeps_execGateClock k localNo s
  | ungateClock k localNo => exact keeps_execUngateClock k localNo s
  | retimeClock k localNo first second => exact keeps_execRetimeClock k localNo first second s
  | readClock k localNo => exact keeps_execReadClock k localNo s
  | timeReset k => exact keeps_execTimeReset k s
  | setupRun k mode argument => exact keeps_execSetupRun k mode argument s
  | run k => exact keeps_execRun k s
  | groupRun k => exact keeps_execGroupRun k s
  | pause k => exact keeps_execPause k s
  | resume k => exact keeps_execResume k s
  | stop k => exact keeps_execStop k s
  | recover k => exact keeps_execRecover k s
  | clearErrors k => exact keeps_execClearErrors k s
  | setFilter k mode count logUnmatched => exact keeps_execSetFilter k mode count logUnmatched s
  | setMatch k index id care enable => exact keeps_execSetMatch k index id care enable s
  | setHashKeep k enable => exact keeps_take fun _ => keeps_whenOpen (keeps_takeHash _ _)
  | setHashReplace k enable table => exact keeps_take fun _ => keeps_whenOpen (keeps_takeHash _ _)
  | setHashAddIds k enable count ids => exact keeps_execSetHashAddIds k enable count ids s
  | setHashClear k enable => exact keeps_take fun _ => keeps_whenOpen (keeps_takeHash _ _)
  | readEvents k count => exact keeps_take fun _ => keeps_whenOpen (keeps_takeEvents count)
  | computationEnd => exact keeps_act (keeps_endComputation s)
  | groupStopTaken k => exact keeps_act (keeps_nextGroupStop k s)
  | settleGapExpiry k => exact keeps_act (keeps_expireGap k s)
  | strobeFall k => exact keeps_execStrobeFall k s
  | frameSend b => exact keeps_act_updLink b fun s => Link.sendNext ((s.board b).link == .syncing) (s.responseNs b)
  | frameTransmissionEnd b => exact keeps_act_updLink b fun _ => Link.endFrame
  | breakEnd b => exact keeps_act_updLink b fun _ => Link.endBreak
  | breakRecoveryEnd b =>
    exact keeps_act_updLink b fun s => Link.endRecovery ((s.board b).link == .probing) (s.responseNs b)
  | backoffEnd b => exact keeps_act_updLink b fun s => Link.endBackoff (s.responseNs b) (s.pipeFor b)
  | responseTimeout b => exact keeps_act (keeps_expireResponse b s)
  | receiveError b samples => exact keeps_execReceiveError b samples s
  | armAck b tag => exact keeps_received b _ s
  | armNak b tag cause => exact keeps_received b _ s
  | boardDone b tag trigger stamp => exact keeps_received b _ s
  | flushAck b tag => exact keeps_received b _ s
  | syncAck b tag => exact keeps_received b _ s
  | boardStatus b armed finished trigger => exact keeps_received b _ s
  | probeReply b id depth => exact keeps_received b _ s

/-- Every step keeps them: the waiting commands are nothing they read. -/
theorem step_keeps (s : State) : Answers (Keeps s) (step s) := by
  unfold step
  split
  · exact answers_next (.refl s)
  · exact fun t ht => .after (exec_keeps _ _ t ht) (.of_eq rfl rfl rfl rfl rfl)

/-- Settles O6: what a step can do to a slot, command by command, keeps each of the three invariants. -/
theorem stepKeepsStepPipes : Obligations.StepKeepsStepPipes := by
  refine ⟨fun s t h hstep => ?_, fun s t h hstep => ?_, fun s t h hstep => ?_⟩
  · exact fun k => (pipeInvAt_iff t k).2 ((step_keeps s t hstep).pipes (fun j => (pipeInvAt_iff s j).1 (h j)) k)
  · exact (clockInv_iff t).2 ((step_keeps s t hstep).clocks ((clockInv_iff s).1 h))
  · exact (step_keeps s t hstep).groups h

end Sys2Proof.Machine
end


section
/-! SUPPORT. Requests refused by the state of their slot (R14, R189), by whether they need it open or STOPPED; then the
statement about them. -/

namespace Sys2Proof.Machine

section
variable {k : Slot} {r : Request} {s : State}

/-- What the result of a request that waits is in a slot whose state refuses it (R14, R189). -/
def RefusedByState (k : Slot) (r : Request) (s : State) (x : Result) : Prop :=
  (r.anySlot = false → (s.part k).state = .closed → x = .next (refuse k .notOpen s))
    ∧ (r.stoppedOnly = true → (s.part k).state ≠ .closed → (s.part k).state ≠ .stopped →
      x = .next (refuse k .wrongState s))

/-- A request taken in STOPPED alone. -/
theorem refusedByState_whenStopped {f : State → State} (hw : Waits s k r) :
    RefusedByState k r s (take k r (whenStopped k f) s) := by
  rw [take_waits hw]
  refine ⟨fun _ hclosed => congrArg Host.Outcome.next ?_, fun _ hopen hstate => congrArg Host.Outcome.next ?_⟩
  · exact whenOpen_closed hclosed
  · rw [whenStopped, whenOpen_open hopen, if_neg hstate]

/-- A request that needs its slot open, in whatever state. -/
theorem refusedByState_whenOpen {f : State → State} (hany : r.stoppedOnly = false) (hw : Waits s k r) :
    RefusedByState k r s (take k r (whenOpen k f) s) := by
  rw [take_waits hw]
  refine ⟨fun _ hclosed => congrArg Host.Outcome.next (whenOpen_closed hclosed), fun hstopped => ?_⟩
  exact absurd (hany.symm.trans hstopped) Bool.false_ne_true

/-- A request that needs no open slot. -/
theorem refusedByState_anySlot {x : Result} (hany : r.anySlot = true) (hfree : r.stoppedOnly = false) :
    RefusedByState k r s x :=
  ⟨fun hnot => absurd (hnot.symm.trans hany) Bool.false_ne_true,
    fun hstopped => absurd (hfree.symm.trans hstopped) Bool.false_ne_true⟩

end

/-- Settles O9: each request by which of the two checks its command begins with. -/
theorem requestsRefusedByState : Obligations.RequestsRefusedByState := by
  intro c k r s hc hw
  show RefusedByState k r s (exec c s)
  cases c with
  | openSlot | reprobe | readCabinet | storeRead | storeWrite =>
    cases hc
    exact refusedByState_anySlot rfl rfl
  | setPartition | claimBoards | joinGroup | leaveGroup | defineClock | deleteClock | enableClock | disableClock
  | gateClock | ungateClock | retimeClock | timeReset | setupRun | run | clearErrors =>
    cases hc
    exact refusedByState_whenStopped hw
  | closeSlot | readPartition | releaseBoards | readBoard | readClock | groupRun | pause | resume | stop | recover
  | setFilter | setMatch | setHashKeep | setHashReplace | setHashAddIds | setHashClear | readEvents =>
    cases hc
    exact refusedByState_whenOpen rfl hw
  | _ => exact nomatch hc

end Sys2Proof.Machine
end


section
/-! SUPPORT. The slots kept apart (R3, R63, R189, R200): a command of one slot leaves the others, but for the one group
stop that its first stop candidate offers (R93); then the statement about it. -/

namespace Sys2Proof.Machine

/-- Slot `j` is the same in `s` and `t`: its partition, its port, its boards with their links, and its clock records. -/
structure SlotKept (j : Slot) (s t : State) : Prop where
  part    : t.part j = s.part j
  port    : t.port j = s.port j
  owns    : ∀ b, t.owns j b = s.owns j b
  boards  : ∀ b, s.owns j b = true → t.board b = s.board b ∧ t.link b = s.link b
  records : ∀ i r, s.record i = some r → r.owner = j → t.record i = some r

section
variable {j k : Slot} {s t u : State}

theorem SlotKept.refl (s : State) : SlotKept j s s := ⟨rfl, rfl, fun _ => rfl, fun _ _ => ⟨rfl, rfl⟩, fun _ _ h _ => h⟩

theorem SlotKept.trans (h : SlotKept j s t) (h' : SlotKept j t u) : SlotKept j s u where
  part := h'.part.trans h.part
  port := h'.port.trans h.port
  owns b := (h'.owns b).trans (h.owns b)
  boards b hb := by
    obtain ⟨hboard, hlink⟩ := h.boards b hb
    obtain ⟨hboard', hlink'⟩ := h'.boards b ((h.owns b).trans hb)
    exact ⟨hboard'.trans hboard, hlink'.trans hlink⟩
  records i r hr ho := h'.records i r (h.records i r hr ho) ho

/-- `SlotKept.trans` with the later change first. -/
theorem SlotKept.after (h' : SlotKept j t u) (h : SlotKept j s t) : SlotKept j s u := h.trans h'

theorem SlotKept.keptApart (h : SlotKept j s t) : KeptApart k j s t :=
  ⟨by rw [h.part], .inl (by rw [h.part]), h.port, h.owns, h.boards, h.records⟩

/-- A change that leaves slot `j`, after one that may have offered it a group stop. -/
theorem SlotKept.after_apart (h' : SlotKept j t u) (h : KeptApart k j s t) : KeptApart k j s u := by
  obtain ⟨hpart, hstops, hport, howns, hboards, hrecords⟩ := h
  refine ⟨h'.part ▸ hpart, h'.part ▸ hstops, h'.port.trans hport, fun b => (h'.owns b).trans (howns b), fun b hb => ?_,
    fun i r hr ho => h'.records i r (hrecords i r hr ho) ho⟩
  obtain ⟨hboard, hlink⟩ := hboards b hb
  obtain ⟨hboard', hlink'⟩ := h'.boards b ((howns b).trans hb)
  exact ⟨hboard'.trans hboard, hlink'.trans hlink⟩

/-- A change that leaves slot `j`, before one that may offer it a group stop. -/
theorem SlotKept.before_apart (h : SlotKept j s t) (h' : KeptApart k j t u) : KeptApart k j s u := by
  obtain ⟨hpart, hstops, hport, howns, hboards, hrecords⟩ := h'
  refine ⟨h.part ▸ hpart, h.part ▸ hstops, hport.trans h.port, fun b => (howns b).trans (h.owns b), fun b hb => ?_,
    fun i r hr ho => hrecords i r (h.records i r hr ho) ho⟩
  obtain ⟨hboard, hlink⟩ := h.boards b hb
  obtain ⟨hboard', hlink'⟩ := hboards b ((h.owns b).trans hb)
  exact ⟨hboard'.trans hboard, hlink'.trans hlink⟩

/-! ## Single updates -/

/-- A board of slot `j` is not one of slot `k`. -/
theorem State.not_owns_of_ne (hj : j ≠ k) {b : Board} (hb : s.owns j b = true) : s.owns k b = false := by
  refine Bool.eq_false_iff.2 fun hk => hj ?_
  rw [State.owns_iff] at hb hk
  exact Option.some.inj (hb.symm.trans hk)

/-- Boards, links and records as they were. -/
theorem SlotKept.of_eq (hpart : t.part j = s.part j) (hport : t.port j = s.port j) (hboards : t.boards = s.boards)
    (hlinks : t.links = s.links) (hpool : t.pool = s.pool) : SlotKept j s t := by
  refine ⟨hpart, hport, fun b => ?_, fun b _ => ⟨?_, ?_⟩, fun i r hr _ => ?_⟩
  · rw [State.owns, State.owns, State.board, hboards, State.board]
  · rw [State.board, hboards, State.board]
  · rw [State.link, hlinks, State.link]
  · rwa [State.record, hpool]

/-- A change of partitions, links and the engine alone keeps slot `j` with its partition and its boards' links. -/
theorem SlotKept.of_onlyRun (h : OnlyRun s t) (hpart : t.part j = s.part j)
    (hlink : ∀ b, s.owns j b = true → t.link b = s.link b) : SlotKept j s t := by
  obtain ⟨hboards, hpool, hports, -⟩ := h
  refine ⟨hpart, ?_, fun b => ?_, fun b hb => ⟨?_, hlink b hb⟩, fun i r hr _ => ?_⟩
  · rw [State.port, hports, State.port]
  · rw [State.owns, State.owns, State.board, hboards, State.board]
  · rw [State.board, hboards, State.board]
  · rwa [State.record, hpool]

variable (s)

theorem slotKept_updPart (hj : j ≠ k) (f : Partition → Partition) : SlotKept j s (s.updPart k f) :=
  .of_eq (State.setPart_part_ne _ _ _ _ hj) rfl rfl rfl rfl

theorem slotKept_updFired (hj : j ≠ k) (f : Snapshot → Snapshot) : SlotKept j s (s.updFired k f) :=
  slotKept_updPart s hj _

theorem slotKept_setPart (hj : j ≠ k) (p : Partition) : SlotKept j s (s.setPart k p) :=
  .of_eq (State.setPart_part_ne _ _ _ _ hj) rfl rfl rfl rfl

theorem slotKept_updPort (hj : j ≠ k) (f : Port → Port) : SlotKept j s (s.updPort k f) :=
  .of_eq rfl (State.setPort_port_ne _ _ _ _ hj) rfl rfl rfl

theorem slotKept_respond (hj : j ≠ k) (st : Status) (c : Bool) (body : List Byte) :
    SlotKept j s (respond k st c body s) := slotKept_updPort s hj _

theorem slotKept_recompute (hj : j ≠ k) : SlotKept j s (recompute k s) := by
  rw [recompute_eq]
  exact slotKept_setPart s hj _

theorem slotKept_voidWork : SlotKept j s (voidWork k s) := .of_eq rfl rfl rfl rfl rfl

/-- Links changed at the boards of slot `k` alone. -/
theorem slotKept_mapOwnLinks (hj : j ≠ k) (f : Board → Link → Link) :
    SlotKept j s (s.mapLinks fun b l => if s.owns k b then f b l else l) :=
  .of_onlyRun (onlyRun_mapLinks _ s) (s.mapLinks_part _ j) fun b hb => by
    rw [State.mapLinks_link, State.not_owns_of_ne hj hb, if_neg Bool.false_ne_true]

/-- Boards that slot `j` does not own changed, and not given to it. -/
theorem slotKept_changeBoards {test : Board → Bool} (htest : ∀ b, s.owns j b = true → test b = false)
    {f : BoardRecord → BoardRecord} (hf : ∀ r, r.owner ≠ some j → (f r).owner ≠ some j) (g : Link → Link) :
    SlotKept j s (s.changeBoards test f g) := by
  refine ⟨s.changeBoards_part test f g j, s.changeBoards_port test f g j, fun b => ?_, fun b hb => ?_, fun i r hr _ => ?_⟩
  · rw [Bool.eq_iff_iff, State.owns_iff, State.owns_iff, State.changeBoards_board]
    split
    · rename_i hb
      have hnot : (s.board b).owner ≠ some j := fun howner =>
        absurd (hb.symm.trans (htest b ((s.owns_iff j b).2 howner))) Bool.false_ne_true.symm
      exact ⟨fun h => absurd h (hf _ hnot), fun h => absurd h hnot⟩
    · exact Iff.rfl
  · rw [State.changeBoards_board, State.changeBoards_link, htest b hb]
    exact ⟨rfl, rfl⟩
  · rwa [State.changeBoards_record]

/-- A pool record changed that slot `j` does not hold. -/
theorem slotKept_setRecord (i : Fin 48) (hi : ∀ r, s.record i = some r → r.owner ≠ j) (r' : Option PoolRecord) :
    SlotKept j s (s.setRecord i r') := by
  refine ⟨rfl, rfl, fun _ => rfl, fun _ _ => ⟨rfl, rfl⟩, fun n r hr ho => ?_⟩
  have hne : n ≠ i := fun heq => hi r (heq ▸ hr) ho
  rwa [State.setRecord_record_ne _ _ _ _ hne]

theorem slotKept_engineSelect : SlotKept j s (engineSelect s) := by
  unfold engineSelect
  split
  · exact .refl s
  · split
    · exact .of_eq rfl rfl rfl rfl rfl
    · exact .refl s

/-! ## The pipe and the stop of a run -/

theorem slotKept_tryFire (hj : j ≠ k) : SlotKept j s (tryFire k s) := by
  rcases tryFire_cases k s with h | ⟨e, -, h⟩ <;> rw [h]
  · exact .refl s
  · exact .after (slotKept_mapOwnLinks (s.updPart k _) hj _) (slotKept_updPart s hj _)

theorem slotKept_checkStop (hj : j ≠ k) : SlotKept j s (checkStop k s) := by
  rcases checkStop_cases k s with h | ⟨-, h⟩ <;> rw [h]
  · exact .refl s
  · refine .of_onlyRun (onlyRun_enterStopped k s) (enterStopped_part_ne hj) fun b hb => ?_
    rw [enterStopped_link, if_neg fun hk => hj (Option.some.inj (((s.owns_iff j b).1 hb).symm.trans hk))]

theorem slotKept_advance (hj : j ≠ k) : SlotKept j s (advance k s) :=
  .after (slotKept_checkStop _ hj) (slotKept_tryFire s hj)

/-- A candidate leaves the other slots, but for the group stop it may offer (R93). -/
theorem keptApart_candidate (hj : j ≠ k) (n : Nat) (r : StopReason) : KeptApart k j s (candidate k n r s) := by
  obtain ⟨hboards, hpool, hports, -⟩ := onlyRun_candidate k n r s
  refine ⟨by rw [candidate_part_ne hj], ?_, ?_, fun b => ?_, fun b hb => ⟨?_, ?_⟩, fun i r hr _ => ?_⟩
  · rw [candidate_part_ne hj]
    dsimp only
    split
    · exact .inr rfl
    · exact .inl rfl
  · rw [State.port, hports, State.port]
  · rw [State.owns, State.owns, State.board, hboards, State.board]
  · rw [State.board, hboards, State.board]
  · exact candidate_link_ne fun hk => hj (Option.some.inj (((s.owns_iff j b).1 hb).symm.trans hk))
  · rwa [State.record, hpool]

/-- Outside a run, and with a stop point set, a candidate offers no group stop (R93). -/
theorem slotKept_candidate (hj : j ≠ k) (hno : (s.part k).state.isRun = false ∨ (s.part k).stop ≠ none) (n : Nat)
    (r : StopReason) : SlotKept j s (candidate k n r s) := by
  refine .of_onlyRun (onlyRun_candidate k n r s) ?_ fun b hb =>
    candidate_link_ne fun hk => hj (Option.some.inj (((s.owns_iff j b).1 hb).symm.trans hk))
  rw [candidate_part_ne hj, if_neg]
  rintro ⟨hrun, hnone, -⟩
  rcases hno with hnot | hset
  · exact absurd (hnot.symm.trans hrun) Bool.false_ne_true
  · exact hset hnone

/-- After a candidate a further one offers no group stop: a stop point is set, or no run goes on (R85, R93). -/
theorem candidate_settled (n : Nat) (r : StopReason) :
    ((candidate k n r s).part k).state.isRun = false ∨ ((candidate k n r s).part k).stop ≠ none := by
  rcases candidate_cases k n r s with ⟨hrun, heq⟩ | ⟨point, -, hstop, -, heq⟩ | ⟨hrun, hlower⟩
  · rw [heq]
    exact .inl hrun
  · refine .inr ?_
    rw [heq, State.setPart_part_self]
    exact fun hnone => nomatch hstop.symm.trans hnone
  · refine .inr ?_
    rw [(candidate_sets_stop hrun hlower).1]
    exact nofun

theorem keptApart_runLimitFinding (hj : j ≠ k) : KeptApart k j s (runLimitFinding k s) := by
  unfold runLimitFinding
  dsimp only
  split
  · exact (slotKept_updPart s hj _).before_apart (keptApart_candidate _ hj _ _)
  · exact (SlotKept.refl s).keptApart

theorem slotKept_runLimitFinding (hj : j ≠ k) (hno : (s.part k).state.isRun = false ∨ (s.part k).stop ≠ none) :
    SlotKept j s (runLimitFinding k s) := by
  unfold runLimitFinding
  dsimp only
  split
  · refine .after (slotKept_candidate _ hj ?_ _ _) (slotKept_updPart s hj _)
    rwa [State.updPart_eq, State.setPart_part_self]
  · exact .refl s

theorem keptApart_endAtStart (hj : j ≠ k) : KeptApart k j s (endAtStart k s) := by
  unfold endAtStart
  refine (slotKept_advance _ hj).after_apart ?_
  split
  · exact (slotKept_runLimitFinding _ hj (candidate_settled s _ _)).after_apart (keptApart_candidate s hj _ _)
  · exact keptApart_runLimitFinding s hj

/-! ## Clock records -/

variable {s}

theorem State.record_freeRecord {i : Fin 48} (h : s.freeRecord = some i) : s.record i = none := by
  have hfree := List.find?_some h
  simpa using hfree

theorem slotKept_placeClock (hj : j ≠ k) {i : Fin 48} (hi : s.record i = none) (n : LocalNo) (d : Definition) :
    SlotKept j s (placeClock k n d i s) := by
  unfold placeClock State.updFired
  exact .after (slotKept_updPart _ hj _) (slotKept_setRecord s i (fun r hr => nomatch hi.symm.trans hr) _)

theorem State.owner_of_clockIndex {i : Fin 48} {n : LocalNo} (h : s.clockIndex k n = some i) {r : PoolRecord}
    (hr : s.record i = some r) : r.owner = k := by
  have hholds := List.find?_some h
  simp only [State.holdsClock, hr, Bool.and_eq_true, decide_eq_true_eq] at hholds
  exact hholds.1

theorem slotKept_removeClock (hj : j ≠ k) (n : LocalNo) : SlotKept j s (removeClock k n s) := by
  unfold removeClock State.updFired
  refine .after (slotKept_updPart _ hj _) ?_
  split
  · rename_i i hi
    exact slotKept_setRecord s i (fun r hr hrj => hj (hrj.symm.trans (State.owner_of_clockIndex hi hr))) none
  · exact .refl s

theorem freeRecord_of_definitionRecord {n : LocalNo} {kind : ClockKind} {i : Fin 48}
    (h : definitionRecord k n kind s = .ok i) : s.freeRecord = some i := by
  unfold definitionRecord at h
  split_ifs at h
  all_goals
    cases hfree : s.freeRecord with
    | none => exact nomatch (hfree ▸ h)
    | some m =>
      rw [hfree] at h
      exact congrArg some (Except.ok.inj h)

/-- A definition taken uses a FREE record (R17, R61). -/
theorem slotKept_place (hj : j ≠ k) {n : LocalNo} {d : Definition} {i : Fin 48}
    (h : definitionRecord k n d.kind s = .ok i) : SlotKept j s (placeClock k n d i s) :=
  slotKept_placeClock hj (State.record_freeRecord (freeRecord_of_definitionRecord h)) n d

variable (s)

theorem slotKept_applyPreset (hj : j ≠ k) (p : Preset) : SlotKept j s (applyPreset k p s).1 := by
  unfold applyPreset
  dsimp only
  split
  · exact .refl s
  · rename_i i hi
    have hplaced := slotKept_place hj hi
    split_ifs
    · exact hplaced
    · exact .after (slotKept_updFired _ hj _) hplaced
    · exact hplaced

theorem slotKept_continueOpen (hj : j ≠ k) (todo : List Preset) (applied notEnabled skipped : Nat) (clamped : List Preset) :
    SlotKept j s (continueOpen k todo applied notEnabled skipped clamped s) := by
  unfold continueOpen
  split
  · exact .after (slotKept_respond _ hj _ _ _) (.of_eq rfl rfl rfl rfl rfl)
  · exact slotKept_updPort s hj _

theorem slotKept_openNext (hj : j ≠ k) : SlotKept j s (openNext k s) := by
  unfold openNext
  split
  · dsimp only
    split
    all_goals exact .after (slotKept_continueOpen _ hj _ _ _ _ _) (slotKept_applyPreset s hj _)
  · exact .refl s

/-! ## Boards -/

theorem slotKept_claimFresh (hj : j ≠ k) {fresh : BoardMask}
    (hfresh : ∀ b, s.owns j b = true → maskHas fresh b = false) : SlotKept j s (claimFresh k fresh s) := by
  rw [claimFresh_eq]
  refine .after (slotKept_recompute _ hj) (.after (slotKept_setPart _ hj _) (slotKept_changeBoards s hfresh ?_ _))
  exact fun r _ howner => hj (Option.some.inj howner).symm

/-- A claim refuses the boards of the other partitions (R65). -/
theorem not_claimed_of_owns (hj : j ≠ k) {set : BoardMask} (htaken : takenBoards k set s = 0) {b : Board}
    (hb : s.owns j b = true) : maskHas set b = false := by
  have hnone := (mask_eq_zero_iff _).1 htaken b
  rw [takenBoards, maskHas_maskWhere, State.not_owns_of_ne hj hb, (s.owns_iff j b).1 hb] at hnone
  simpa using hnone

theorem slotKept_takeClaim (hj : j ≠ k) {set : BoardMask} (htaken : takenBoards k set s = 0) :
    SlotKept j s (takeClaim k set s) := by
  unfold takeClaim
  dsimp only
  split
  · exact slotKept_respond s hj _ _ _
  · refine .after (slotKept_updPort _ hj _) (slotKept_claimFresh s hj fun b hb => ?_)
    rw [maskHas_and, not_claimed_of_owns s hj htaken hb, Bool.false_and]

theorem slotKept_releaseSet (hj : j ≠ k) {set : BoardMask} (hset : ∀ b, maskHas set b = true → s.owns k b = true) :
    SlotKept j s (releaseSet set s) := by
  rw [releaseSet_eq]
  refine slotKept_changeBoards s (fun b hb => Bool.eq_false_iff.2 fun hhas => ?_) ?_ _
  · exact absurd ((State.not_owns_of_ne hj hb).symm.trans (hset b hhas)) Bool.false_ne_true
  · exact fun r _ howner => nomatch howner

theorem slotKept_takeRelease (hj : j ≠ k) (set : BoardMask) : SlotKept j s (takeRelease k set s) := by
  unfold takeRelease
  dsimp only
  split
  · exact slotKept_respond s hj _ _ _
  · rename_i hset
    refine .after (slotKept_respond _ hj _ _ _) (.after (slotKept_recompute _ hj) (slotKept_releaseSet s hj fun b hb => ?_))
    have hforeign := (mask_eq_zero_iff _).1 (not_not.1 (not_or.1 hset).2) b
    rw [maskHas_and, hb, maskHas_not, maskHas_ownedMask] at hforeign
    simpa using hforeign

theorem slotKept_closePartition (hj : j ≠ k) : SlotKept j s (closePartition k s) := by
  unfold closePartition
  refine .after (slotKept_updPart _ hj _) (.after (t := recompute k (releaseSet (s.ownedMask k) (voidWork k s))) ?_
    (.after (slotKept_recompute _ hj) (.after (slotKept_releaseSet _ hj fun b hb => ?_) (slotKept_voidWork s))))
  · refine ⟨by simp, by simp, fun b => by simp [State.owns], fun b _ => by simp, fun i r hr ho => ?_⟩
    rw [State.mapRecords_record, hr]
    exact if_neg fun hk => hj (ho.symm.trans hk)
  · exact (maskHas_ownedMask s k b).symm.trans hb

/-- Boards that slot `j` does not own broken (R136). -/
theorem slotKept_forBoards_breakBoard {bs : List Board} (hbs : bs.Nodup) (hown : ∀ b ∈ bs, s.owns j b = false) :
    SlotKept j s (forBoards breakBoard bs s) := by
  rw [forBoards_breakBoard hbs]
  refine slotKept_changeBoards s ?_ ?_ _
  · exact fun b hb => decide_eq_false fun hmem => absurd ((hown b hmem).symm.trans hb) Bool.false_ne_true
  · exact fun r h => h

/-- Boards that slot `j` does not own sent a SYNC (R66, R127). -/
theorem slotKept_forBoards_syncBoard {bs : List Board} (hbs : bs.Nodup) (hown : ∀ b ∈ bs, s.owns j b = false)
    (next : Nat) (level : ClockMask) : SlotKept j s (forBoards (fun b => syncBoard b next level) bs s) := by
  rw [forBoards_syncBoard hbs]
  refine slotKept_changeBoards s ?_ ?_ _
  · exact fun b hb => decide_eq_false fun hmem => absurd ((hown b hmem).symm.trans hb) Bool.false_ne_true
  · exact fun r h => h

theorem State.not_owns_of_mem_ownedBoards (hj : j ≠ k) {b : Board} (hb : b ∈ s.ownedBoards k) : s.owns j b = false :=
  State.not_owns_of_ne (Ne.symm hj) ((s.owns_iff k b).2 ((s.mem_ownedBoards k b).1 hb))

theorem slotKept_endRecover (hj : j ≠ k) (replied : BoardMask) : SlotKept j s (endRecover k replied s) := by
  rw [endRecover_eq]
  obtain ⟨hboards, -, hpool, -, -, hport, hpart⟩ := recoverEnded_frame (k := k) (s := s)
  refine .after (slotKept_respond _ hj _ _ _) ⟨hpart j hj, hport j, fun b => ?_, fun b hb => ⟨?_, ?_⟩, fun i r hr _ => ?_⟩
  · rw [State.owns, State.owns, State.board, hboards, State.board]
  · rw [State.board, hboards, State.board]
  · exact recoverEnded_link_ne fun hk => hj (Option.some.inj (((s.owns_iff j b).1 hb).symm.trans hk))
  · rwa [State.record, hpool]

end

/-! ## The commands -/

section
variable {j k : Slot} {r : Request} {s : State} {f : State → State}

/-- A request that keeps slot `j` when it is taken. -/
theorem keptApart_take (h : SlotKept j s (f s)) : Answers (KeptApart k j s) (take k r f s) :=
  answers_take (SlotKept.refl s).keptApart h.keptApart

theorem slotKept_whenOpen (hj : j ≠ k) (h : SlotKept j s (f s)) : SlotKept j s (whenOpen k f s) := by
  unfold whenOpen
  split
  · exact slotKept_respond s hj _ _ _
  · exact h

theorem slotKept_whenStopped (hj : j ≠ k) (h : SlotKept j s (f s)) : SlotKept j s (whenStopped k f s) :=
  slotKept_whenOpen hj (by
    split
    · exact h
    · exact slotKept_respond s hj _ _ _)

theorem slotKept_withClock (hj : j ≠ k) {localNo : Byte} {g : LocalNo → ClockEntry → State → State}
    (h : ∀ n e, SlotKept j s (g n e s)) : SlotKept j s (withClock k localNo g s) := by
  unfold withClock
  split
  · exact slotKept_respond s hj _ _ _
  · split
    · exact slotKept_respond s hj _ _ _
    · exact h _ _

/-- A request taken in STOPPED that names a clock (R14). -/
theorem slotKept_clockRequest (hj : j ≠ k) {localNo : Byte} {g : LocalNo → ClockEntry → State → State}
    (h : ∀ n e, SlotKept j s (g n e s)) : SlotKept j s (clockRequest k localNo g s) :=
  slotKept_whenStopped hj (slotKept_withClock hj h)

/-- The answer to a request that changed its own partition. -/
theorem slotKept_answered (hj : j ≠ k) (g : Partition → Partition) (st : Status) (c : Bool) (body : List Byte) :
    SlotKept j s (respond k st c body (s.updPart k g)) :=
  .after (slotKept_respond _ hj _ _ _) (slotKept_updPart s hj g)

end

section
variable {j k : Slot} (hj : j ≠ k) (s : State)
include hj

theorem keptApart_execStore (valid : Bool) (op : StoreOp) (r : Request) :
    Answers (KeptApart k j s) (take k r (storeRequest k valid op) s) := by
  refine keptApart_take ?_
  unfold storeRequest
  split_ifs
  · exact .after (slotKept_updPort _ hj _) (.of_eq rfl rfl rfl rfl rfl)
  all_goals exact slotKept_respond s hj _ _ _

theorem keptApart_execOpenSlot : Answers (KeptApart k j s) (execOpenSlot k s) := by
  refine keptApart_take ?_
  split
  · exact .after (slotKept_continueOpen _ hj _ _ _ _ _) (slotKept_setPart s hj _)
  · exact slotKept_respond s hj _ _ _

theorem keptApart_execCloseSlot : Answers (KeptApart k j s) (execCloseSlot k s) := by
  refine keptApart_take (slotKept_whenOpen hj ?_)
  split
  · exact .after (slotKept_respond _ hj _ _ _) (slotKept_closePartition s hj)
  · exact slotKept_respond s hj _ _ _

theorem keptApart_execSetPartition (window horizon gap retry backoff timeout attention : Byte) :
    Answers (KeptApart k j s) (execSetPartition k window horizon gap retry backoff timeout attention s) :=
  keptApart_take (slotKept_whenStopped hj
    (.after (slotKept_respond _ hj _ _ _) (.after (slotKept_recompute _ hj) (slotKept_updPart s hj _))))

theorem keptApart_execClaimBoards (set : BoardMask) : Answers (KeptApart k j s) (execClaimBoards k set s) := by
  refine keptApart_take (slotKept_whenStopped hj ?_)
  split_ifs with hnone htaken
  iterate 4 exact slotKept_respond s hj _ _ _
  exact slotKept_takeClaim s hj (not_not.1 htaken)

theorem keptApart_execReleaseBoards (set : BoardMask) : Answers (KeptApart k j s) (execReleaseBoards k set s) := by
  refine keptApart_take (slotKept_whenOpen hj ?_)
  split
  · exact slotKept_takeRelease s hj set
  · exact slotKept_respond s hj _ _ _

theorem keptApart_execReprobe (set : BoardMask) : Answers (KeptApart k j s) (execReprobe k set s) := by
  refine keptApart_take ?_
  split_ifs with hnone howned
  iterate 3 exact slotKept_respond s hj _ _ _
  refine .after (slotKept_updPort _ hj _) (slotKept_forBoards_breakBoard s (maskBoards_nodup set) fun b hb => ?_)
  have hfree := (mask_eq_zero_iff _).1 (not_not.1 howned) b
  rw [ownedOf, maskHas_maskWhere, (mem_maskBoards set b).1 hb, Bool.true_and] at hfree
  refine Bool.eq_false_iff.2 fun howns => ?_
  rw [(s.owns_iff j b).1 howns] at hfree
  exact nomatch hfree

theorem keptApart_execReadBoard (board : Byte) : Answers (KeptApart k j s) (execReadBoard k board s) := by
  refine keptApart_take (slotKept_whenOpen hj ?_)
  split
  all_goals exact slotKept_respond s hj _ _ _

theorem keptApart_execReadCabinet : Answers (KeptApart k j s) (execReadCabinet k s) := by
  unfold execReadCabinet
  exact keptApart_take (slotKept_respond s hj _ _ _)

theorem keptApart_execJoinGroup (group : Byte) : Answers (KeptApart k j s) (execJoinGroup k group s) := by
  refine keptApart_take (slotKept_whenStopped hj ?_)
  dsimp only [takeJoin]
  split_ifs
  · exact slotKept_respond s hj _ _ _
  · exact slotKept_answered hj _ _ _ _
  · exact slotKept_respond s hj _ _ _

theorem keptApart_execDefineClock (localNo : Byte) (body : ClockBody) :
    Answers (KeptApart k j s) (execDefineClock k localNo body s) := by
  refine keptApart_take (slotKept_whenStopped hj ?_)
  split
  · unfold defineClock
    split
    · exact slotKept_respond s hj _ _ _
    · rename_i hi
      exact .after (slotKept_respond _ hj _ _ _) (slotKept_place hj hi)
  · exact slotKept_respond s hj _ _ _

theorem keptApart_execDeleteClock (localNo : Byte) : Answers (KeptApart k j s) (execDeleteClock k localNo s) := by
  refine keptApart_take (slotKept_clockRequest hj fun n e => ?_)
  split_ifs
  iterate 2 exact slotKept_respond s hj _ _ _
  exact .after (slotKept_respond _ hj _ _ _) (slotKept_removeClock hj n)

theorem keptApart_execEnableClock (localNo : Byte) : Answers (KeptApart k j s) (execEnableClock k localNo s) := by
  refine keptApart_take (slotKept_clockRequest hj fun n e => ?_)
  split_ifs
  · exact slotKept_respond s hj _ _ _
  · exact slotKept_answered hj _ _ _ _

theorem keptApart_execDisableClock (localNo : Byte) : Answers (KeptApart k j s) (execDisableClock k localNo s) := by
  refine keptApart_take (slotKept_clockRequest hj fun n e => ?_)
  split_ifs
  · exact slotKept_respond s hj _ _ _
  · exact slotKept_answered hj _ _ _ _

theorem keptApart_execGateClock (localNo : Byte) : Answers (KeptApart k j s) (execGateClock k localNo s) := by
  refine keptApart_take (slotKept_clockRequest hj fun n e => ?_)
  split_ifs
  · exact slotKept_respond s hj _ _ _
  · exact slotKept_answered hj _ _ _ _

theorem keptApart_execUngateClock (localNo : Byte) : Answers (KeptApart k j s) (execUngateClock k localNo s) := by
  refine keptApart_take (slotKept_clockRequest hj fun n e => ?_)
  split_ifs
  · exact slotKept_respond s hj _ _ _
  · exact slotKept_answered hj _ _ _ _

theorem keptApart_execRetimeClock (localNo : Byte) (first second : BitVec 24) :
    Answers (KeptApart k j s) (execRetimeClock k localNo first second s) := by
  refine keptApart_take (slotKept_clockRequest hj fun n e => ?_)
  dsimp only
  split_ifs
  · exact slotKept_answered hj _ _ _ _
  · exact slotKept_respond s hj _ _ _

theorem keptApart_execReadClock (localNo : Byte) : Answers (KeptApart k j s) (execReadClock k localNo s) := by
  refine keptApart_take (slotKept_whenOpen hj (slotKept_withClock hj fun n e => ?_))
  split
  all_goals exact slotKept_respond s hj _ _ _

theorem keptApart_execTimeReset : Answers (KeptApart k j s) (execTimeReset k s) := by
  refine keptApart_take (slotKept_whenStopped hj ?_)
  have hreset : SlotKept j s (resetTime k s) := slotKept_updPart s hj _
  dsimp only
  split
  · exact .after (slotKept_answered hj _ _ _ _) hreset
  · refine .after (slotKept_updPort _ hj _) (.after (slotKept_forBoards_syncBoard _ (State.ownedBoards_nodup _ k)
      (fun b hb => ?_) _ _) (.after (slotKept_updPart _ hj _) hreset))
    exact State.not_owns_of_mem_ownedBoards _ hj hb

theorem keptApart_execSetupRun (mode : Byte) (argument : BitVec 48) :
    Answers (KeptApart k j s) (execSetupRun k mode argument s) := by
  refine keptApart_take (slotKept_whenStopped hj ?_)
  dsimp only
  split
  · exact slotKept_respond s hj _ _ _
  · exact slotKept_answered hj _ _ _ _

theorem keptApart_execRun : Answers (KeptApart k j s) (execRun k s) := by
  refine answers_take (SlotKept.refl s).keptApart ?_
  rcases whenStopped_cases k _ s with h | h | ⟨-, h⟩ <;> rw [h]
  iterate 2 exact (slotKept_respond s hj _ _ _).keptApart
  split
  · exact (slotKept_respond s hj _ _ _).keptApart
  · unfold takeRun
    refine (slotKept_engineSelect _).after_apart (SlotKept.before_apart ?_ (keptApart_endAtStart _ hj))
    exact .after (slotKept_respond _ hj _ _ _) (slotKept_updPart s hj _)

theorem keptApart_execPause : Answers (KeptApart k j s) (execPause k s) := by
  refine keptApart_take (slotKept_whenOpen hj ?_)
  split
  · exact slotKept_answered hj _ _ _ _
  all_goals exact slotKept_respond s hj _ _ _

theorem keptApart_execResume : Answers (KeptApart k j s) (execResume k s) := by
  refine keptApart_take (slotKept_whenOpen hj ?_)
  split
  · exact .after (slotKept_engineSelect _) (.after (slotKept_advance _ hj) (slotKept_answered hj _ _ _ _))
  · exact slotKept_respond s hj _ _ _

theorem keptApart_takeStop : KeptApart k j s (takeStop k s) := by
  unfold takeStop
  refine SlotKept.after_apart ?_ (keptApart_candidate s hj (s.part k).firedFrontier .controller)
  exact .after (slotKept_engineSelect _) (.after (slotKept_respond _ hj _ _ _)
    (.after (slotKept_advance _ hj) (slotKept_updPart _ hj _)))

theorem keptApart_execStop : Answers (KeptApart k j s) (execStop k s) := by
  refine answers_take (SlotKept.refl s).keptApart ?_
  unfold whenOpen
  split
  · exact (slotKept_respond s hj _ _ _).keptApart
  · dsimp only
    split
    iterate 3 exact keptApart_takeStop hj s
    all_goals exact (slotKept_respond s hj _ _ _).keptApart

theorem keptApart_execRecover : Answers (KeptApart k j s) (execRecover k s) := by
  refine keptApart_take (slotKept_whenOpen hj ?_)
  split
  · unfold takeRecover
    have hpending : SlotKept j s (s.updPart k fun p => { p with syncPending := true }) := slotKept_updPart s hj _
    dsimp only
    split
    · exact .after (slotKept_endRecover _ hj 0) hpending
    · refine .after (slotKept_updPort _ hj _) (.after (slotKept_forBoards_breakBoard _ (State.ownedBoards_nodup _ k)
        fun b hb => ?_) hpending)
      exact State.not_owns_of_mem_ownedBoards _ hj hb
  · exact slotKept_respond s hj _ _ _

theorem keptApart_execSetFilter (mode : Byte) (count : BitVec 16) (logUnmatched : Byte) :
    Answers (KeptApart k j s) (execSetFilter k mode count logUnmatched s) := by
  refine keptApart_take (slotKept_whenOpen hj ?_)
  dsimp only
  split
  · exact slotKept_respond s hj _ _ _
  · exact slotKept_answered hj _ _ _ _

theorem keptApart_execSetMatch (index : Byte) (id care : BitVec 16) (enable : Byte) :
    Answers (KeptApart k j s) (execSetMatch k index id care enable s) := by
  refine keptApart_take (slotKept_whenOpen hj ?_)
  dsimp only
  split
  · exact slotKept_answered hj _ _ _ _
  · exact slotKept_respond s hj _ _ _

theorem keptApart_execSetHashAddIds (enable count : Byte) (ids : List TriggerId) :
    Answers (KeptApart k j s) (execSetHashAddIds k enable count ids s) := by
  refine keptApart_take (slotKept_whenOpen hj ?_)
  split_ifs
  · exact slotKept_answered hj _ _ _ _
  · exact slotKept_respond s hj _ _ _

theorem keptApart_execPresetApply : Answers (KeptApart k j s) (execPresetApply k s) :=
  answers_act (SlotKept.refl s).keptApart (slotKept_openNext s hj).keptApart

end

/-- Settles O8: a command of one slot leaves each other slot, step by step through what the command does. -/
theorem slotCommandsKeepOtherSlots : Obligations.SlotCommandsKeepOtherSlots := by
  intro c k j s t hc hj hexec
  suffices h : Answers (KeptApart k j s) (exec c s) from h t hexec
  cases c with
  | openSlot => cases hc; exact keptApart_execOpenSlot hj s
  | presetApply => cases hc; exact keptApart_execPresetApply hj s
  | closeSlot => cases hc; exact keptApart_execCloseSlot hj s
  | setPartition => cases hc; exact keptApart_execSetPartition hj s _ _ _ _ _ _ _
  | readPartition => cases hc; exact keptApart_take (slotKept_whenOpen hj (slotKept_respond s hj _ _ _))
  | claimBoards => cases hc; exact keptApart_execClaimBoards hj s _
  | releaseBoards => cases hc; exact keptApart_execReleaseBoards hj s _
  | reprobe => cases hc; exact keptApart_execReprobe hj s _
  | readBoard => cases hc; exact keptApart_execReadBoard hj s _
  | readCabinet => cases hc; exact keptApart_execReadCabinet hj s
  | joinGroup => cases hc; exact keptApart_execJoinGroup hj s _
  | leaveGroup => cases hc; exact keptApart_take (slotKept_whenStopped hj (slotKept_answered hj _ _ _ _))
  | defineClock => cases hc; exact keptApart_execDefineClock hj s _ _
  | deleteClock => cases hc; exact keptApart_execDeleteClock hj s _
  | enableClock => cases hc; exact keptApart_execEnableClock hj s _
  | disableClock => cases hc; exact keptApart_execDisableClock hj s _
  | gateClock => cases hc; exact keptApart_execGateClock hj s _
  | ungateClock => cases hc; exact keptApart_execUngateClock hj s _
  | retimeClock => cases hc; exact keptApart_execRetimeClock hj s _ _ _
  | readClock => cases hc; exact keptApart_execReadClock hj s _
  | timeReset => cases hc; exact keptApart_execTimeReset hj s
  | setupRun => cases hc; exact keptApart_execSetupRun hj s _ _
  | run => cases hc; exact keptApart_execRun hj s
  | groupRun => exact nomatch hc
  | pause => cases hc; exact keptApart_execPause hj s
  | resume => cases hc; exact keptApart_execResume hj s
  | stop => cases hc; exact keptApart_execStop hj s
  | recover => cases hc; exact keptApart_execRecover hj s
  | clearErrors => cases hc; exact keptApart_take (slotKept_whenStopped hj (slotKept_answered hj _ _ _ _))
  | setFilter => cases hc; exact keptApart_execSetFilter hj s _ _ _
  | setMatch => cases hc; exact keptApart_execSetMatch hj s _ _ _ _
  | setHashKeep => cases hc; exact keptApart_take (slotKept_whenOpen hj (slotKept_answered hj _ _ _ _))
  | setHashReplace => cases hc; exact keptApart_take (slotKept_whenOpen hj (slotKept_answered hj _ _ _ _))
  | setHashAddIds => cases hc; exact keptApart_execSetHashAddIds hj s _ _ _
  | setHashClear => cases hc; exact keptApart_take (slotKept_whenOpen hj (slotKept_answered hj _ _ _ _))
  | readEvents => cases hc; exact keptApart_take (slotKept_whenOpen hj (slotKept_answered hj _ _ _ _))
  | storeRead => cases hc; exact keptApart_execStore hj s _ _ _
  | storeWrite => cases hc; exact keptApart_execStore hj s _ _ _
  | _ => exact nomatch hc

end Sys2Proof.Machine
end


section
/-! SUPPORT. The selection of the step engine (R31, R33, R34): the conditions of a request, and the first requester in the
round; then the statement about them. -/

namespace Sys2Proof.Machine

/-- A partition requests engine service exactly while the five conditions hold (R31). -/
theorem Partition.requests_iff (p : Partition) : p.requests = true ↔
    (p.state = .running ∨ p.state = .paused ∨ p.state = .stopping) ∧ p.pipe.length < p.weff
      ∧ (∀ point, p.stop = some point → p.frontier < point.step) ∧ p.frontier < p.runLimit ∧ p.limitFound = false := by
  cases hstop : p.stop with
  | none => simp [Partition.requests, Partition.stopStep, hstop, PartState.isRun_iff, and_assoc]
  | some point => simp [Partition.requests, Partition.stopStep, hstop, PartState.isRun_iff, and_assoc]

/-- How many slots are considered before slot `k` when `last` was the last served (R33). -/
def slotsBefore (last k : Slot) : Nat := (k - last - 1).val

/-- The round considers the slots in the order of their distance (R33). -/
theorem roundRobin_ordered (last : Slot) :
    (roundRobin last).Pairwise fun j k => slotsBefore last j < slotsBefore last k := by revert last; decide

/-- The first slot of the round that passes a test is the nearest one (R33). -/
theorem roundRobin_nearest {last j : Slot} {test : Slot → Bool} (h : (roundRobin last).find? test = some j) {k : Slot}
    (hk : test k = true) : slotsBefore last j ≤ slotsBefore last k := by
  obtain ⟨-, passed, rest, hround, hpassed⟩ := List.find?_eq_some_iff_append.1 h
  have hordered := roundRobin_ordered last
  have hmem := mem_roundRobin last k
  rw [hround] at hordered hmem
  rcases List.mem_append.1 hmem with hbefore | hfrom
  · exact absurd ((hpassed k hbefore).symm.trans (congrArg _ hk)) (by decide)
  · rcases List.mem_cons.1 hfrom with rfl | hafter
    · exact Nat.le_refl _
    · exact Nat.le_of_lt (List.rel_of_pairwise_cons (List.pairwise_append.1 hordered).2.1 hafter)

/-- Once a nearer slot has been served, the others are nearer than they were (R33). -/
theorem slotsBefore_decreases {last j k : Slot} (h : slotsBefore last j ≤ slotsBefore last k) (hne : k ≠ j) :
    slotsBefore j k < slotsBefore last k := by
  revert last j k; decide

/-- An idle engine with a requester begins the work item of the first one in the round (R33, R34). -/
theorem engineSelect_begins {s : State} (hidle : s.engine.item = none) (hsome : ∃ k, (s.part k).requests = true) :
    ∃ j, (roundRobin s.engine.lastServed).find? (fun k => (s.part k).requests) = some j
      ∧ engineSelect s = beginWork j s := by
  obtain ⟨k, hk⟩ := hsome
  cases hfind : (roundRobin s.engine.lastServed).find? (fun k => (s.part k).requests) with
  | none => exact absurd hk (List.find?_eq_none.1 hfind k (mem_roundRobin _ k))
  | some j =>
    refine ⟨j, rfl, ?_⟩
    unfold engineSelect
    rw [hidle]
    dsimp only
    rw [hfind]

/-- With a work item in progress, or with no requester, nothing is selected (R33). -/
theorem engineSelect_none {s : State} (h : s.engine.item ≠ none ∨ ∀ k, (s.part k).requests = false) :
    engineSelect s = s := by
  rcases engineSelect_cases s with heq | ⟨k, hidle, hk, -⟩
  · exact heq
  · rcases h with hbusy | hnone
    · exact absurd hidle hbusy
    · exact absurd ((hnone k).symm.trans hk) Bool.false_ne_true

/-- Settles O15: the first requester of the round is the nearest, and serving it brings the others nearer. -/
theorem roundRobinServesRequesters : Obligations.RoundRobinServesRequesters := by
  refine ⟨fun p => ⟨p.requests_iff, fun hnil => ?_, fun older youngest hpipe => ?_⟩, fun s => engineSelect_none,
    fun s hidle hsome => ?_⟩
  · simp [Partition.frontier, Partition.frontierSnapshot, hnil]
  · simp [Partition.frontier, Partition.frontierSnapshot, hpipe]
  · obtain ⟨j, hfind, hselect⟩ := engineSelect_begins hidle hsome
    have hnearest {k : Slot} (hk : (s.part k).requests = true) := roundRobin_nearest hfind hk
    exact ⟨j, s.parentsOf j, List.find?_some (p := fun k => (s.part k).requests) hfind, fun k hk => ⟨hnearest hk, slotsBefore_decreases (hnearest hk)⟩,
      s.mem_parentsOf j, hselect⟩

end Sys2Proof.Machine
end


section
/-! SUPPORT. The edges of a clock one by one (R8 to R13, R19), and an instant clock by clock (R37, R38); then the statement
about them. -/

namespace Sys2Proof.Machine

/-! ## The grid -/

/-- A time on the grid after `v`, and by how many periods the first rise after `v` lies behind the phase (R19). -/
theorem PeriodicWave.firstRise_onGrid {w : PeriodicWave} (hp : 0 < w.period) (v : Nat) :
    ∃ q, w.firstRise v = w.phase + q * w.period := by
  unfold PeriodicWave.firstRise
  split
  · exact ⟨0, by omega⟩
  · refine ⟨(v - w.phase) / w.period + 1, ?_⟩
    have hdiv := Nat.mod_add_div' (v - w.phase) w.period
    have hlt := Nat.mod_lt (v - w.phase) hp
    rw [Nat.add_mul, Nat.one_mul]
    omega

/-- No time of the grid lies between `v` and the first rise (R19). -/
theorem PeriodicWave.firstRise_least {w : PeriodicWave} {v q : Nat} (hq : v < w.phase + q * w.period) :
    w.firstRise v ≤ w.phase + q * w.period := by
  unfold PeriodicWave.firstRise
  split
  · exact Nat.le_add_right _ _
  · rename_i hphase
    have hdiv := Nat.mod_add_div' (v - w.phase) w.period
    have hperiods : (v - w.phase) / w.period < q := Nat.div_lt_of_lt_mul (by rw [Nat.mul_comm]; omega)
    have hmul := Nat.mul_le_mul_right w.period hperiods
    rw [Nat.succ_mul] at hmul
    omega

/-! ## The table of edges -/

section
variable {e : ClockEntry} {wave : Wave}

theorem ClockEntry.rise_issued (h : e.state = .active ∨ e.state = .ungatePending) :
    e.rise wave = ({ e with state := .active, level := true, wave := wave }, .rise) := by
  rcases h with h | h <;> simp [ClockEntry.rise, h, ClockState.onRising]

theorem ClockEntry.rise_gated (h : e.state = .gated) : e.rise wave = ({ e with wave := wave }, .none) := by
  simp [ClockEntry.rise, h, ClockState.onRising]

theorem ClockEntry.fall_active (h : e.state = .active) :
    e.fall wave = ({ e with level := false, wave := wave }, .fall) := by
  simp [ClockEntry.fall, h, ClockState.onFalling]

theorem ClockEntry.fall_gatePending (h : e.state = .gatePending) :
    e.fall wave = ({ e with state := .gated, level := false, wave := wave }, .fall) := by
  simp [ClockEntry.fall, h, ClockState.onFalling]

theorem ClockEntry.fall_offPending (h : e.state = .offPending) :
    e.fall wave = ({ e with state := .off, level := false, wave := wave.settleRetime.atRest }, .fall) := by
  simp [ClockEntry.fall, h, ClockState.onFalling, ClockEntry.enterOff]

theorem ClockEntry.fall_suppressed (h : e.state = .gated ∨ e.state = .ungatePending) :
    e.fall wave = ({ e with wave := wave }, .none) := by
  rcases h with h | h <;> simp [ClockEntry.fall, h, ClockState.onFalling]

end

/-! ## The edge of a periodic clock -/

section
variable {e : ClockEntry} {w : PeriodicWave} {t : Nat} (hw : e.wave = .periodic w)
include hw

theorem ClockEntry.atInstant_idle (h : e.state = .off ∨ w.next ≠ t) : e.atInstant t = (e, .none) := by
  have hnot : ¬ (e.state ≠ .off ∧ w.next = t) := fun ⟨hstate, hnext⟩ => h.elim hstate fun hne => hne hnext
  simp only [ClockEntry.atInstant, hw, if_neg hnot]

theorem ClockEntry.atInstant_rising (hstate : e.state ≠ .off) (hnext : w.next = t) (hp : w.polarity = .rising) :
    e.atInstant t = e.rise (.periodic (w.afterRise t)) := by
  simp only [ClockEntry.atInstant, hw, if_pos (And.intro hstate hnext), hp]

theorem ClockEntry.atInstant_falling (hstate : e.state ≠ .off) (hnext : w.next = t) (hp : w.polarity = .falling) :
    e.atInstant t = e.fall (.periodic (w.afterFall t)) := by
  simp only [ClockEntry.atInstant, hw, if_pos (And.intro hstate hnext), hp]

end

/-- A periodic wave that comes to rest after an edge: its retime applied, and the placeholders of OFF (R6, R13). -/
theorem PeriodicWave.afterFall_atRest (t : Nat) (w : PeriodicWave) :
    (Wave.periodic (w.afterFall t)).settleRetime.atRest
      = .periodic { (w.applyRetime fun period => w.phase % period) with next := 0, polarity := .rising } := by
  obtain ⟨period, high, phase, next, polarity, retime⟩ := w
  cases retime <;> rfl

/-! ## The edge of a divided clock -/

section
variable {e : ClockEntry} {w : DividedWave} (hw : e.wave = .divided w)
include hw

theorem ClockEntry.atParentRise_off (h : e.state = .off) : e.atParentRise = (e, .none) := by
  simp only [ClockEntry.atParentRise, hw, if_pos h]

variable (hstate : e.state ≠ .off)
include hstate

theorem ClockEntry.atParentRise_rises (hc : (w.count + 1) % w.divisor = 0) :
    e.atParentRise = e.rise (.divided ({ w with count := 0 } : DividedWave).applyRetime) := by
  simp only [ClockEntry.atParentRise, hw, if_neg hstate, if_pos hc]

theorem ClockEntry.atParentRise_falls (hc : (w.count + 1) % w.divisor ≠ 0) (hhigh : (w.count + 1) % w.divisor = w.high) :
    e.atParentRise = e.fall (.divided { w with count := (w.count + 1) % w.divisor }) := by
  simp only [ClockEntry.atParentRise, hw, if_neg hstate, if_neg hc, if_pos hhigh]

theorem ClockEntry.atParentRise_counts (hc : (w.count + 1) % w.divisor ≠ 0)
    (hhigh : (w.count + 1) % w.divisor ≠ w.high) :
    e.atParentRise = ({ e with wave := .divided { w with count := (w.count + 1) % w.divisor } }, .none) := by
  simp only [ClockEntry.atParentRise, hw, if_neg hstate, if_neg hc, if_neg hhigh]

end

/-- A divided wave that comes to rest at a count: its retime applied, and C at 0 (R6, R13). -/
theorem DividedWave.counted_atRest (c : Nat) (w : DividedWave) :
    (Wave.divided { w with count := c }).settleRetime.atRest
      = .divided ({ w with count := 0 } : DividedWave).applyRetime := by
  obtain ⟨divisor, high, count, retime⟩ := w
  cases retime <;> rfl

/-! ## An instant -/

theorem mem_rises {l : List (ClockEntry × Edge)} {n : LocalNo} :
    n ∈ rises l ↔ ∃ c ∈ l, c.2 = .rise ∧ c.1.localNo = n := by
  induction l with
  | nil => simp [rises]
  | cons c l ih =>
    obtain ⟨e, edge⟩ := c
    cases edge <;> simp [rises, ih, eq_comm]

/-- The parent of a clock rose at an instant: it is a clock of the snapshot that issued a rising edge (R38). -/
theorem parentRose_iff {parents : List (LocalNo × LocalNo)} {t : Nat} {snap : Snapshot} {n : LocalNo} :
    parentRose parents (rises (snap.map (ClockEntry.atInstant t))) n = true
      ↔ ∃ c ∈ parents, c.1 = n ∧ ∃ p ∈ snap, p.localNo = c.2 ∧ (p.atInstant t).2 = .rise := by
  simp only [parentRose, List.any_eq_true, Bool.and_eq_true, decide_eq_true_eq, List.contains_iff_mem, mem_rises,
    List.mem_map, exists_exists_and_eq_and, ClockEntry.atInstant_localNo]
  refine exists_congr fun c => and_congr_right fun _ => and_congr_right fun _ => exists_congr fun p => ?_
  exact and_congr_right fun _ => and_comm

/-- An edge leaves a periodic clock periodic. -/
theorem ClockEntry.handled_periodic {e : ClockEntry} {w : PeriodicWave} (hw : e.wave = .periodic w)
    (parents : List (LocalNo × LocalNo)) (rose : List LocalNo) (t : Nat) : e.handled parents rose t = e.atInstant t := by
  have hkind : ∃ w', (e.atInstant t).1.wave = .periodic w' := by
    unfold ClockEntry.atInstant
    rw [hw]
    dsimp only
    split
    · split
      · unfold ClockEntry.rise
        split <;> exact ⟨_, rfl⟩
      · unfold ClockEntry.fall
        split <;> exact ⟨_, rfl⟩
    · exact ⟨w, hw⟩
  obtain ⟨w', hw'⟩ := hkind
  simp only [ClockEntry.handled, hw']

theorem ClockEntry.handled_divided {e : ClockEntry} {w : DividedWave} (hw : e.wave = .divided w)
    (parents : List (LocalNo × LocalNo)) (rose : List LocalNo) (t : Nat) :
    e.handled parents rose t = if parentRose parents rose e.localNo = true then e.atParentRise else (e, .none) := by
  have hidle : e.atInstant t = (e, .none) := by simp only [ClockEntry.atInstant, hw]
  simp only [ClockEntry.handled, hidle, hw]

/-- Settles O14: the grid, the table of R9 at each kind of edge, and the two passes of an instant. -/
theorem firstEdgeIsNextOnGrid : Obligations.FirstEdgeIsNextOnGrid := by
  refine ⟨fun w v hp => ⟨(w.firstRise_bounds hp v).1, w.firstRise_onGrid hp v, fun q => w.firstRise_least⟩,
    fun e w t hw => ⟨ClockEntry.atInstant_idle hw, fun hstate hnext hpol => ?_, fun hstate hnext hpol => ?_⟩,
    fun e w hw => ⟨ClockEntry.atParentRise_off hw, fun hc => ⟨fun h => ?_, fun h => ?_⟩, fun hc hhigh => ?_,
      ClockEntry.atParentRise_counts hw⟩, fun parents t snap => ?_⟩
  · rw [ClockEntry.atInstant_rising hw hstate hnext hpol]
    exact ⟨ClockEntry.rise_issued, ClockEntry.rise_gated⟩
  · rw [ClockEntry.atInstant_falling hw hstate hnext hpol]
    refine ⟨ClockEntry.fall_active, ClockEntry.fall_gatePending, fun h => ?_, ClockEntry.fall_suppressed⟩
    rw [ClockEntry.fall_offPending h, PeriodicWave.afterFall_atRest]
    rfl
  · have hstate : e.state ≠ .off := by rcases h with h | h <;> simp [h]
    rw [ClockEntry.atParentRise_rises hw hstate hc, ClockEntry.rise_issued h]
    rfl
  · rw [ClockEntry.atParentRise_rises hw (by simp [h]) hc, ClockEntry.rise_gated h]
    rfl
  · have hfalls (h : e.state ≠ .off) := ClockEntry.atParentRise_falls hw h hc hhigh
    refine ⟨fun h => ?_, fun h => ?_, fun h => ?_, fun h => ?_⟩
    · rw [hfalls (by simp [h]), ClockEntry.fall_active h]
    · rw [hfalls (by simp [h]), ClockEntry.fall_gatePending h]
    · rw [hfalls (by simp [h]), ClockEntry.fall_offPending h, DividedWave.counted_atRest]
      rfl
    · have hstate : e.state ≠ .off := by rcases h with h | h <;> simp [h]
      rw [hfalls hstate, ClockEntry.fall_suppressed h]
  · rw [handleInstant_eq_map]
    refine List.map_congr_left fun e _ => ?_
    cases hw : e.wave with
    | periodic w => exact ClockEntry.handled_periodic hw _ _ _
    | divided w => exact (ClockEntry.handled_divided hw _ _ _).trans (if_congr parentRose_iff rfl rfl)

end Sys2Proof.Machine
end


section
/-! SUPPORT. Device reset (R184, R201): what an abandoned write leaves, and the ports; then the statement about it. -/

namespace Sys2Proof.Machine

theorem abandonWrite_ports (s : State) : (abandonWrite s).ports = s.ports := by
  unfold abandonWrite
  split <;> rfl

/-- A write abandoned changes no byte outside its own (R201). -/
theorem readCell_abandonWrite_outside {s : State} {a : Nat}
    (h : ∀ k base data, s.loader.op = some (.write k base data) → a < base ∨ base + data.length ≤ a) :
    readCell (abandonWrite s).store a = readCell s.store a := by
  unfold abandonWrite
  split
  · rename_i k base data hop
    exact readCell_leaveUnfinished_outside s (h k base data hop)
  · rfl
  · rfl

theorem afterReset_port (held : Bool) (s : State) (k : Slot) :
    (afterReset held s).port k = (s.port k).afterReset := by
  simp [afterReset, State.port, abandonWrite_ports]

/-- Settles O17: both commands leave the reset values of every block, the ports and the memory by the lemmas above. -/
theorem deviceResetLeavesResetValues : Obligations.DeviceResetLeavesResetValues := by
  intro s held
  refine ⟨afterReset held s, by cases held <;> rfl, rfl, rfl, rfl, rfl, rfl, rfl, rfl, rfl, rfl,
    afterReset_port held s, fun a ha => ?_⟩
  exact readCell_abandonWrite_outside ha

end Sys2Proof.Machine
end


section
/-! SUPPORT. The clocks of a partition looked up in the pool and in the fired state (R3, R61), the checks that every clock
request begins with (R14), and the definitions with their clamps (R15, R16); then the statement about DEFINE_CLOCK and
DELETE_CLOCK. -/

namespace Sys2Proof.Machine

/-! ## Lookups -/

section
variable {s : State} {k : Slot} {n : LocalNo} {i : Fin 48}

theorem State.holdsClock_iff : s.holdsClock k n i = true ↔ ∃ kind, s.record i = some ⟨k, n, kind⟩ := by
  unfold State.holdsClock
  cases hr : s.record i with
  | none => simp
  | some r =>
    obtain ⟨owner, localNo, kind⟩ := r
    simp

/-- The first pool index of a list of all of them that passes a test. -/
theorem find_allRecords {test : Fin 48 → Bool} :
    allRecords.find? test = some i ↔ test i = true ∧ ∀ j, j < i → test j = false := by
  rw [allRecords, List.find?_eq_some_iff_getElem]
  simp only [List.getElem_finRange, List.length_finRange, Bool.not_eq_true']
  refine and_congr_right fun _ => ⟨fun ⟨m, hm, hi, hbefore⟩ j hj => ?_, fun h => ⟨i.val, i.isLt, by simp, fun j hj => ?_⟩⟩
  · have hval : i.val = m := by rw [← hi]; rfl
    exact hbefore j.val (hval ▸ hj)
  · exact h _ hj

/-- The pool index of a clock is the lowest of a record that holds it (R3). -/
theorem State.clockIndex_eq_some : s.clockIndex k n = some i ↔ (∃ kind, s.record i = some ⟨k, n, kind⟩)
    ∧ ∀ j, j < i → ∀ kind, s.record j ≠ some ⟨k, n, kind⟩ := by
  rw [State.clockIndex, find_allRecords, State.holdsClock_iff]
  refine and_congr_right fun _ => forall₂_congr fun j _ => ?_
  rw [← Bool.not_eq_true, State.holdsClock_iff, not_exists]

/-- The FREE record with the lowest index (R61). -/
theorem State.freeRecord_eq_some : s.freeRecord = some i ↔ s.record i = none ∧ ∀ j, j < i → s.record j ≠ none := by
  rw [State.freeRecord, find_allRecords, Option.isNone_iff_eq_none]
  refine and_congr_right fun _ => forall₂_congr fun j _ => ?_
  rw [← Bool.not_eq_true, Option.isNone_iff_eq_none]

theorem State.freeRecord_eq_none (h : ∀ i, s.record i ≠ none) : s.freeRecord = none := by
  refine List.find?_eq_none.2 fun i _ hi => h i ?_
  exact Option.isNone_iff_eq_none.1 hi

theorem State.periodicClock_iff :
    s.periodicClock k n = true ↔ ∃ e w, findClock (s.part k).fired n = some e ∧ e.wave = .periodic w := by
  unfold State.periodicClock
  cases findClock (s.part k).fired n with
  | none => simp
  | some e =>
    obtain ⟨localNo, st, level, wave⟩ := e
    cases wave <;> simp

theorem State.hasChild_iff : s.hasChild k n = true ↔ ∃ i m, s.record i = some ⟨k, m, .divided n⟩ := by
  simp only [State.hasChild, List.any_eq_true, decide_eq_true_eq, Prod.exists, State.mem_parentsOf]
  refine ⟨fun ⟨m, parent, ⟨i, hi⟩, hn⟩ => ⟨i, m, hn ▸ hi⟩, fun ⟨i, m, hi⟩ => ⟨m, n, ⟨i, hi⟩, rfl⟩⟩

end

/-! ## The local number of a request -/

theorem localOf_of_eq {b : Byte} {n : LocalNo} (h : b.toNat = n.val) : localOf b = some n := by
  have hlt : b.toNat < 16 := h ▸ n.isLt
  rw [localOf, dif_pos hlt]
  exact congrArg some (Fin.ext h)

theorem localOf_above {b : Byte} (h : 15 < b.toNat) : localOf b = none := dif_neg (by omega)

section
variable {s : State} {k : Slot} {b : Byte} {n : LocalNo} {f : LocalNo → ClockEntry → State → State}

/-- A clock request by its checks (R14): in STOPPED, its local number in range, and the partition with the clock. -/
theorem clockRequest_above (hs : (s.part k).state = .stopped) (hb : 15 < b.toNat) :
    clockRequest k b f s = refuse k .badValue s := by
  rw [clockRequest, whenStopped_stopped hs, withClock, localOf_above hb]

theorem clockRequest_noClock (hs : (s.part k).state = .stopped) (hb : b.toNat = n.val)
    (hn : findClock (s.part k).fired n = none) : clockRequest k b f s = refuse k .noSuchClock s := by
  rw [clockRequest, whenStopped_stopped hs, withClock, localOf_of_eq hb]
  dsimp only
  rw [hn]

theorem clockRequest_found {e : ClockEntry} (hs : (s.part k).state = .stopped) (hb : b.toNat = n.val)
    (he : findClock (s.part k).fired n = some e) : clockRequest k b f s = f n e s := by
  rw [clockRequest, whenStopped_stopped hs, withClock, localOf_of_eq hb]
  dsimp only
  rw [he]

end

/-! ## Definitions -/

/-- H or K brought into its range (R16). -/
theorem keptHigh_eq (total high : Nat) : keptHigh total high = max 1 (min (total - 1) high) := rfl

/-- H or K is clamped when it is 0 or not below the total (R16). -/
theorem keptHigh_ne_iff {total : Nat} (h : 2 ≤ total) (high : Nat) :
    keptHigh total high ≠ high ↔ high = 0 ∨ total ≤ high := by
  rw [keptHigh_eq]
  omega

/-- O is clamped when it is not below P (R16). -/
theorem mod_ne_iff {period : Nat} (h : 0 < period) (phase : Nat) : phase % period ≠ phase ↔ period ≤ phase := by
  refine ⟨fun hne => Nat.not_lt.1 fun hlt => hne (Nat.mod_eq_of_lt hlt), fun hle heq => ?_⟩
  exact absurd (Nat.mod_lt phase h) (by omega)

theorem definePeriodic_eq {period : Nat} (h : 2 ≤ period) (high phase : Nat) : definePeriodic period high phase =
    { kind := .periodic,
      wave := .periodic { period := period, high := max 1 (min (period - 1) high), phase := phase % period, next := 0,
                          polarity := .rising, retime := none },
      clamped := decide (high = 0 ∨ period ≤ high ∨ period ≤ phase) } := by
  have hclamped : (keptHigh period high != high || phase % period != phase)
      = decide (high = 0 ∨ period ≤ high ∨ period ≤ phase) := by
    rw [Bool.eq_iff_iff, Bool.or_eq_true, bne_iff_ne, bne_iff_ne, keptHigh_ne_iff h, mod_ne_iff (by omega),
      decide_eq_true_iff, or_assoc]
  rw [definePeriodic, hclamped, keptHigh_eq]

theorem defineDivided_eq {divisor : Nat} (h : 2 ≤ divisor) (parent : LocalNo) (high : Nat) :
    defineDivided parent divisor high =
      { kind := .divided parent,
        wave := .divided { divisor := divisor, high := max 1 (min (divisor - 1) high), count := 0, retime := none },
        clamped := decide (high = 0 ∨ divisor ≤ high) } := by
  have hclamped : (keptHigh divisor high != high) = decide (high = 0 ∨ divisor ≤ high) := by
    rw [Bool.eq_iff_iff, bne_iff_ne, keptHigh_ne_iff h, decide_eq_true_iff]
  rw [defineDivided, hclamped, keptHigh_eq]

section
variable {s : State} {k : Slot} {n : LocalNo} {kind : ClockKind}

/-- The checks of a definition, in the order of R15. -/
theorem definitionRecord_inUse (h : findClock (s.part k).fired n ≠ none) :
    definitionRecord k n kind s = .error .localInUse := by
  unfold definitionRecord
  rw [if_pos (Option.isSome_iff_ne_none.2 h)]

theorem definitionRecord_parentInvalid {parent : LocalNo} (hn : findClock (s.part k).fired n = none)
    (hkind : kind = .divided parent) (hparent : s.periodicClock k parent = false) :
    definitionRecord k n kind s = .error .parentInvalid := by
  simp [definitionRecord, hn, hkind, hparent]

section
variable (hn : findClock (s.part k).fired n = none)
  (hparent : ∀ parent, kind = .divided parent → s.periodicClock k parent = true)
include hn hparent

theorem definitionRecord_poolEmpty (hpool : ∀ i, s.record i ≠ none) :
    definitionRecord k n kind s = .error .poolEmpty := by
  have hfree := State.freeRecord_eq_none hpool
  cases kind with
  | periodic => simp [definitionRecord, hn, hfree]
  | divided parent => simp [definitionRecord, hn, hparent parent rfl, hfree]

theorem definitionRecord_free {i : Fin 48} (hi : s.record i = none) (hlow : ∀ j, j < i → s.record j ≠ none) :
    definitionRecord k n kind s = .ok i := by
  have hfree := State.freeRecord_eq_some.2 ⟨hi, hlow⟩
  cases kind with
  | periodic => simp [definitionRecord, hn, hfree]
  | divided parent => simp [definitionRecord, hn, hparent parent rfl, hfree]

end

end

section
variable {b : Byte} {n : LocalNo} {d : Definition} {body : ClockBody}

theorem definitionOf_periodic {period : BitVec 24} (h : 2 ≤ period.toNat) (high phase : BitVec 24) :
    definitionOf (.periodic period high phase) = some (definePeriodic period.toNat high.toNat phase.toNat) := if_pos h

theorem definitionOf_divided {parent : Byte} {divisor : BitVec 16} (hp : parent.toNat = n.val)
    (hlow : 2 ≤ divisor.toNat) (htop : divisor.toNat ≤ 256) (high : BitVec 16) :
    definitionOf (.divided parent divisor high) = some (defineDivided n divisor.toNat high.toNat) := by
  unfold definitionOf
  dsimp only
  rw [localOf_of_eq hp]
  exact if_pos ⟨hlow, htop⟩

theorem definitionOf_divided_refused {parent : Byte} {divisor : BitVec 16}
    (h : 15 < parent.toNat ∨ divisor.toNat < 2 ∨ 256 < divisor.toNat) (high : BitVec 16) :
    definitionOf (.divided parent divisor high) = none := by
  unfold definitionOf
  dsimp only
  rcases h with hparent | hdivisor
  · rw [localOf_above hparent]
  · split
    · exact if_neg (by omega)
    · rfl

variable {s : State} {k : Slot}

theorem exec_defineClock_refused (h : WaitsIn s k .stopped (.defineClock b body))
    (hbad : 15 < b.toNat ∨ definitionOf body = none) :
    exec (.defineClock k b body) s = .next (refuse k .badValue s) := by
  refine (take_waits h.1).trans (congrArg Host.Outcome.next ?_)
  rw [whenStopped_stopped h.2]
  rcases hbad with hb | hd
  · rw [localOf_above hb]
  · rw [hd]
    cases localOf b <;> rfl

theorem exec_defineClock (h : WaitsIn s k .stopped (.defineClock b body)) (hb : b.toNat = n.val)
    (hd : definitionOf body = some d) : exec (.defineClock k b body) s = .next (defineClock k n d s) := by
  refine (take_waits h.1).trans (congrArg Host.Outcome.next ?_)
  rw [whenStopped_stopped h.2, localOf_of_eq hb, hd]

theorem defineClock_error {st : Status} (h : definitionRecord k n d.kind s = .error st) :
    defineClock k n d s = refuse k st s := by rw [defineClock, h]

theorem defineClock_ok {i : Fin 48} (h : definitionRecord k n d.kind s = .ok i) : defineClock k n d s =
    respond k .ok d.clamped (BitVec.ofNat 8 i.val :: d.wave.keptBytes) (placeClock k n d i s) := by rw [defineClock, h]

theorem exec_deleteClock {e : ClockEntry} (h : WaitsIn s k .stopped (.deleteClock b)) (hb : b.toNat = n.val)
    (he : findClock (s.part k).fired n = some e) : exec (.deleteClock k b) s = .next (
      if e.state ≠ .off then refuse k .wrongClockState s
      else if s.hasChild k n then refuse k .dependentClocks s
      else respond k .ok false [] (removeClock k n s)) :=
  (take_waits h.1).trans (congrArg Host.Outcome.next (clockRequest_found h.2 hb he))

theorem removeClock_eq {i : Fin 48} (h : s.clockIndex k n = some i) : removeClock k n s =
    (s.setRecord i none).setPart k { s.part k with fired := (s.part k).fired.filter fun c => c.localNo ≠ n } := by
  unfold removeClock
  rw [h]
  rfl

end

/-- A definition taken: the pool record, and an OFF clock at the end of the clock state (R17). -/
theorem placeClock_eq (k : Slot) (n : LocalNo) (d : Definition) (i : Fin 48) (s : State) : placeClock k n d i s =
    (s.setRecord i (some ⟨k, n, d.kind⟩)).setPart k
      { s.part k with fired := (s.part k).fired ++ [⟨n, .off, false, d.wave⟩] } := by
  rw [placeClock, State.updFired, State.updPart_eq, State.setRecord_part]

/-- Settles O33: the lookups, the checks of a definition in their order, its clamps, and the deletion. -/
theorem clocksDefinedAndDeleted : Obligations.ClocksDefinedAndDeleted := by
  refine ⟨fun _ _ => rfl, fun s k n => ⟨State.periodicClock_iff, State.hasChild_iff, fun i => State.clockIndex_eq_some⟩,
    fun s k b body hw => ⟨exec_defineClock_refused hw, fun n d hb hd => ?_⟩, fun period high phase hp => ?_,
    fun parent n divisor high hp hlow htop => ?_, fun period high phase hp => if_neg (by omega),
    fun parent divisor high h => definitionOf_divided_refused h high, fun _ => rfl, fun s k b hw => ⟨fun hb => ?_,
    fun n hb hn => ?_⟩, fun s k b n e hw hb he => ?_⟩
  · rw [exec_defineClock hw hb hd]
    refine ⟨fun e he => ?_, fun hn parent hkind hparent => ?_, fun hn hparent => ⟨fun hpool => ?_, fun i hi hlow => ?_⟩⟩
    · rw [defineClock_error (definitionRecord_inUse (by rw [he]; exact nofun))]
    · rw [defineClock_error (definitionRecord_parentInvalid hn hkind hparent)]
    · rw [defineClock_error (definitionRecord_poolEmpty hn hparent hpool)]
    · rw [defineClock_ok (definitionRecord_free hn hparent hi hlow), placeClock_eq]
      cases d.wave <;> rfl
  · rw [definitionOf_periodic hp, definePeriodic_eq hp]
  · rw [definitionOf_divided hp hlow htop, defineDivided_eq hlow]
  · exact (take_waits hw.1).trans (congrArg Host.Outcome.next (clockRequest_above hw.2 hb))
  · exact (take_waits hw.1).trans (congrArg Host.Outcome.next (clockRequest_noClock hw.2 hb hn))
  · rw [exec_deleteClock hw hb he]
    refine ⟨fun hstate => ?_, fun hstate hchild => ?_, fun hstate hchild i hi => ?_⟩
    · rw [if_pos hstate]
    · rw [if_neg (not_not.2 hstate), if_pos hchild]
    · rw [if_neg (not_not.2 hstate), if_neg (Bool.eq_false_iff.1 hchild), removeClock_eq hi]

end Sys2Proof.Machine
end


section
/-! SUPPORT. Enabling, disabling and gating a clock (R19 to R24), the values of OFF (R6, R13) and retiming (R25, R26); then
the statements about these requests. -/

namespace Sys2Proof.Machine

/-! ## Parents and children -/

section
variable {s : State} {k : Slot} {n : LocalNo}

/-- The kind of a clock is that of its pool record (R3). -/
theorem State.clockKind_eq_some {kind : ClockKind} : s.clockKind k n = some kind ↔
    ∃ i, s.clockIndex k n = some i ∧ s.record i = some ⟨k, n, kind⟩ := by
  simp only [State.clockKind, Option.bind_eq_some_iff, Option.map_eq_some_iff]
  refine exists_congr fun i => and_congr_right fun hi => ?_
  obtain ⟨⟨kind', hkind'⟩, -⟩ := State.clockIndex_eq_some.1 hi
  simp [hkind']

theorem State.parentOff_iff : s.parentOff k n = true ↔
    ∃ i parent, s.clockIndex k n = some i ∧ s.record i = some ⟨k, n, .divided parent⟩
      ∧ ∀ e, findClock (s.part k).fired parent = some e → e.state = .off ∨ e.state = .offPending := by
  have hkind : s.parentOff k n = true ↔ ∃ parent, s.clockKind k n = some (.divided parent)
      ∧ ∀ e, findClock (s.part k).fired parent = some e → e.state = .off ∨ e.state = .offPending := by
    unfold State.parentOff
    rcases s.clockKind k n with _ | _ | parent
    · simp
    · simp
    · cases hfind : findClock (s.part k).fired parent <;> simp [hfind]
  rw [hkind]
  simp only [State.clockKind_eq_some]
  refine ⟨fun ⟨parent, ⟨i, hi, hr⟩, hoff⟩ => ⟨i, parent, hi, hr, hoff⟩, fun ⟨i, parent, hi, hr, hoff⟩ =>
    ⟨parent, ⟨i, hi, hr⟩, hoff⟩⟩

theorem State.hasLiveChild_iff : s.hasLiveChild k n = true ↔ ∃ i m e, s.record i = some ⟨k, m, .divided n⟩
    ∧ findClock (s.part k).fired m = some e ∧ e.state ≠ .off := by
  simp only [State.hasLiveChild, List.any_eq_true, Bool.and_eq_true, decide_eq_true_eq, Prod.exists, State.mem_parentsOf]
  constructor
  · rintro ⟨m, parent, ⟨i, hi⟩, rfl, hlive⟩
    split at hlive
    · rename_i e he
      exact ⟨i, m, e, hi, he, bne_iff_ne.1 hlive⟩
    · exact absurd hlive Bool.false_ne_true
  · rintro ⟨i, m, e, hi, he, hlive⟩
    exact ⟨m, n, ⟨i, hi⟩, rfl, by simpa [he] using hlive⟩

end

/-! ## The values of OFF -/

section
variable {e : ClockEntry}

theorem ClockEntry.enterOff_periodic {w : PeriodicWave} (hw : e.wave = .periodic w) : e.enterOff = { e with
    state := .off, level := false,
    wave := .periodic { (w.applyRetime fun period => w.phase % period) with
      next := 0, polarity := .rising, retime := none } } := by
  rw [ClockEntry.enterOff, hw]
  rfl

theorem ClockEntry.enterOff_divided {w : DividedWave} (hw : e.wave = .divided w) : e.enterOff = { e with
    state := .off, level := false, wave := .divided { w.applyRetime with count := 0, retime := none } } := by
  rw [ClockEntry.enterOff, hw]
  rfl

end

/-! ## The requests -/

section
variable {s : State} {k : Slot} {b : Byte} {n : LocalNo} {e : ClockEntry} (hs : (s.part k).state = .stopped)
  (hb : b.toNat = n.val) (he : findClock (s.part k).fired n = some e)

theorem setClock_eq {f g : ClockEntry → ClockEntry} (h : ∀ c, f c = g c) : setClock k n f s = respond k .ok false []
    (s.setPart k { s.part k with fired := (s.part k).fired.map fun c => if c.localNo = n then g c else c }) := by
  rw [funext h]
  rfl

include hs hb he

theorem exec_enableClock (hw : Waits s k (.enableClock b)) : exec (.enableClock k b) s = .next (
    if e.state = .off ∧ s.parentOff k n = true then refuse k .parentOff s
    else setClock k n (ClockEntry.enable (s.part k).vt) s) := by
  refine (take_waits hw).trans (congrArg Host.Outcome.next ((clockRequest_found hs hb he).trans (if_congr ?_ rfl rfl)))
  rw [enableRefused, Bool.and_eq_true, beq_iff_eq]

theorem exec_disableClock (hw : Waits s k (.disableClock b)) : exec (.disableClock k b) s = .next (
    if e.state ≠ .off ∧ e.state ≠ .offPending ∧ s.hasLiveChild k n = true then refuse k .dependentClocks s
    else setClock k n ClockEntry.disable s) :=
  (take_waits hw).trans (congrArg Host.Outcome.next (clockRequest_found hs hb he))

omit hs hb he in
theorem ClockEntry.offOrPending_iff : e.offOrPending = true ↔ e.state = .off ∨ e.state = .offPending := by
  rw [ClockEntry.offOrPending, Bool.or_eq_true, beq_iff_eq, beq_iff_eq]

theorem exec_gateClock (hw : Waits s k (.gateClock b)) : exec (.gateClock k b) s = .next (
    if e.state = .off ∨ e.state = .offPending then refuse k .wrongClockState s
    else setClock k n ClockEntry.gate s) :=
  (take_waits hw).trans (congrArg Host.Outcome.next
    ((clockRequest_found hs hb he).trans (if_congr ClockEntry.offOrPending_iff rfl rfl)))

theorem exec_ungateClock (hw : Waits s k (.ungateClock b)) : exec (.ungateClock k b) s = .next (
    if e.state = .off ∨ e.state = .offPending then refuse k .wrongClockState s
    else setClock k n ClockEntry.ungate s) :=
  (take_waits hw).trans (congrArg Host.Outcome.next
    ((clockRequest_found hs hb he).trans (if_congr ClockEntry.offOrPending_iff rfl rfl)))

end

/-- A clock request taken in STOPPED is refused for a local number above 15, or without a clock (R14). -/
theorem take_clockRequest_refused {s : State} {k : Slot} {r : Request} {b : Byte} (f : LocalNo → ClockEntry → State → State)
    (hs : (s.part k).state = .stopped) (hw : Waits s k r) :
    (15 < b.toNat → take k r (clockRequest k b f) s = .next (refuse k .badValue s))
      ∧ ∀ n : LocalNo, b.toNat = n.val → findClock (s.part k).fired n = none →
        take k r (clockRequest k b f) s = .next (refuse k .noSuchClock s) := by
  rw [take_waits hw]
  exact ⟨fun hb => congrArg Host.Outcome.next (clockRequest_above hs hb),
    fun n hb hn => congrArg Host.Outcome.next (clockRequest_noClock hs hb hn)⟩

/-- Settles O34: the checks, and the table of each request by the state of the clock. -/
theorem clockRequestTable : Obligations.ClockRequestTable := by
  refine ⟨fun s k n => ⟨State.parentOff_iff, State.hasLiveChild_iff⟩, fun _ _ => rfl, fun _ _ => rfl, fun e w hw => ?_,
    fun e w hw => ?_, fun s k b c r hs hw hc => ?_, fun s k b n e hs hb he => ⟨fun hw => ?_, fun hw => ?_, fun hw => ?_,
    fun hw => ?_⟩⟩
  · rw [ClockEntry.enterOff_periodic hw]
    obtain ⟨period, high, phase, next, polarity, retime⟩ := w
    cases retime <;> rfl
  · rw [ClockEntry.enterOff_divided hw]
    obtain ⟨divisor, high, count, retime⟩ := w
    cases retime <;> rfl
  · rcases hc with ⟨rfl, rfl⟩ | ⟨rfl, rfl⟩ | ⟨rfl, rfl⟩ | ⟨rfl, rfl⟩
    all_goals exact take_clockRequest_refused _ hs hw
  · refine (exec_enableClock hs hb he hw).trans (congrArg Host.Outcome.next (if_congr Iff.rfl rfl (setClock_eq fun c => ?_)))
    unfold ClockEntry.enable
    cases c.state <;> rfl
  · refine (exec_disableClock hs hb he hw).trans (congrArg Host.Outcome.next (if_congr Iff.rfl rfl (setClock_eq fun c => ?_)))
    unfold ClockEntry.disable
    cases c.state <;> cases c.level <;> rfl
  · refine (exec_gateClock hs hb he hw).trans (congrArg Host.Outcome.next (if_congr Iff.rfl rfl (setClock_eq fun c => ?_)))
    unfold ClockEntry.gate
    cases c.state <;> cases c.level <;> rfl
  · refine (exec_ungateClock hs hb he hw).trans (congrArg Host.Outcome.next (if_congr Iff.rfl rfl (setClock_eq fun c => ?_)))
    unfold ClockEntry.ungate
    cases c.state <;> rfl

/-! ## Retiming -/

/-- A change of the clocks of a local number that only one clock has is known by what it does to that clock. -/
theorem updateClock_only {snap : Snapshot} {n : LocalNo} {e : ClockEntry} (hone : snap.filter (fun c => c.localNo = n) = [e])
    {f : ClockEntry → ClockEntry} {w : Wave} (hf : f e = { e with wave := w }) :
    updateClock n f snap = snap.map fun c => if c.localNo = n then { c with wave := w } else c := by
  refine List.map_congr_left fun c hc => ?_
  split
  · rename_i hn
    have hmem : c ∈ snap.filter fun c => c.localNo = n := List.mem_filter.2 ⟨hc, decide_eq_true hn⟩
    rw [hone, List.mem_singleton] at hmem
    rw [hmem, hf]
  · rfl

/-- The machine once a RETIME_CLOCK is answered with the clock's new wave (R26). -/
def retimeAnswered (k : Slot) (n : LocalNo) (s : State) (clamped : Bool) (body : List Byte) (w : Wave) : State :=
  respond k .ok clamped body (s.setPart k { s.part k with
    fired := (s.part k).fired.map fun c => if c.localNo = n then { c with wave := w } else c })

section
variable {s : State} {k : Slot} {b : Byte} {n : LocalNo} {e : ClockEntry} {first second : BitVec 24}
  (hw : WaitsIn s k .stopped (.retimeClock b first second)) (hb : b.toNat = n.val)
  (he : findClock (s.part k).fired n = some e) (hone : (s.part k).fired.filter (fun c => c.localNo = n) = [e])
include hw hb he hone

/-- A RETIME_CLOCK of the only clock of its local number, by the kind of the clock (R25, R26). -/
theorem exec_retimeClock {p q : Nat} {off : Bool} (hvalues : e.wave.retimeValues first second = (p, q))
    (hoff : (e.state == .off) = off) : exec (.retimeClock k b first second) s = .next (
      if e.wave.retimeValid p = true then
        retimeAnswered k n s (keptHigh p q != q || e.wave.phaseMoves off p) (e.wave.retimeBytes off p (keptHigh p q))
          (e.wave.retime off p (keptHigh p q))
      else refuse k .badValue s) := by
  refine (take_waits hw.1).trans (congrArg Host.Outcome.next ((clockRequest_found hw.2 hb he).trans ?_))
  dsimp only
  rw [hvalues, hoff]
  refine if_congr Iff.rfl ?_ rfl
  rw [retimeAnswered, State.updFired, State.updPart_eq, updateClock_only hone rfl]

theorem exec_retimeClock_periodic {w : PeriodicWave} (hwave : e.wave = .periodic w) :
    let p := first.toNat
    let h := max 1 (min (p - 1) second.toNat)
    exec (.retimeClock k b first second) s = .next (
      if p < 2 then refuse k .badValue s
      else if e.state = .off then
        retimeAnswered k n s (decide (h ≠ second.toNat ∨ w.phase % p ≠ w.phase))
          (leBytes 3 p ++ leBytes 3 h ++ leBytes 3 (w.phase % p))
          (.periodic { w with period := p, high := h, phase := w.phase % p })
      else retimeAnswered k n s (decide (h ≠ second.toNat)) (leBytes 3 p ++ leBytes 3 h ++ leBytes 3 w.phase)
        (.periodic { w with retime := some (p, h) })) := by
  intro p h
  have hvalues : e.wave.retimeValues first second = (p, second.toNat) := by rw [hwave]; rfl
  have hvalid : e.wave.retimeValid p = decide (2 ≤ p) := by rw [hwave]; rfl
  by_cases hp : p < 2
  · rw [exec_retimeClock hw hb he hone hvalues rfl, hvalid, if_neg (by simpa using hp), if_pos hp]
  · rw [if_neg hp]
    by_cases hoff : e.state = .off
    · rw [exec_retimeClock hw hb he hone hvalues (beq_iff_eq.2 hoff), hvalid, if_pos (decide_eq_true (Nat.not_lt.1 hp)), if_pos hoff, hwave]
      simp only [Wave.phaseMoves, Wave.retimeBytes, Wave.retime, keptHigh_eq, if_true, Bool.true_and, Bool.decide_or,
        ← bne_iff_ne, Bool.decide_eq_true]
      rfl
    · rw [exec_retimeClock hw hb he hone hvalues (beq_eq_false_iff_ne.2 hoff), hvalid, if_pos (decide_eq_true (Nat.not_lt.1 hp)),
        if_neg hoff, hwave]
      simp only [Wave.phaseMoves, Wave.retimeBytes, Wave.retime, keptHigh_eq, Bool.false_eq_true, if_false, Bool.false_and,
        Bool.or_false, ← bne_iff_ne, Bool.decide_eq_true]
      rfl

theorem exec_retimeClock_divided {w : DividedWave} (hwave : e.wave = .divided w) :
    let d := first.toNat % 65536
    let h := max 1 (min (d - 1) (second.toNat % 65536))
    exec (.retimeClock k b first second) s = .next (
      if d < 2 ∨ 256 < d then refuse k .badValue s
      else if e.state = .off then
        retimeAnswered k n s (decide (h ≠ second.toNat % 65536)) (leBytes 3 d ++ leBytes 3 h)
          (.divided { w with divisor := d, high := h })
      else retimeAnswered k n s (decide (h ≠ second.toNat % 65536)) (leBytes 3 d ++ leBytes 3 h)
        (.divided { w with retime := some (d, h) })) := by
  intro d h
  have hvalues : e.wave.retimeValues first second = (d, second.toNat % 65536) := by rw [hwave]; rfl
  have hvalid : e.wave.retimeValid d = true ↔ ¬ (d < 2 ∨ 256 < d) := by
    rw [hwave, Wave.retimeValid, Bool.and_eq_true, decide_eq_true_iff, decide_eq_true_iff]
    omega
  by_cases hd : d < 2 ∨ 256 < d
  · rw [exec_retimeClock hw hb he hone hvalues rfl, if_neg (fun hyes => hvalid.1 hyes hd), if_pos hd]
  · rw [if_neg hd]
    by_cases hoff : e.state = .off
    · rw [exec_retimeClock hw hb he hone hvalues (beq_iff_eq.2 hoff), if_pos (hvalid.2 hd), if_pos hoff, hwave]
      simp only [Wave.phaseMoves, Wave.retimeBytes, Wave.retime, keptHigh_eq, if_true, Bool.or_false, ← bne_iff_ne,
        Bool.decide_eq_true]
      rfl
    · rw [exec_retimeClock hw hb he hone hvalues (beq_eq_false_iff_ne.2 hoff), if_pos (hvalid.2 hd), if_neg hoff, hwave]
      simp only [Wave.phaseMoves, Wave.retimeBytes, Wave.retime, keptHigh_eq, Bool.false_eq_true, if_false, Bool.or_false,
        ← bne_iff_ne, Bool.decide_eq_true]
      rfl

end

/-- Settles O35: the checks, and the retime by the kind and the state of the clock. -/
theorem clockRetimed : Obligations.ClockRetimed := by
  refine ⟨fun s k b first second hw => take_clockRequest_refused _ hw.2 hw.1, fun s k b n e first second hw hb he hone =>
    ⟨fun w hwave => ?_, fun w hwave => ?_⟩⟩
  · exact exec_retimeClock_periodic hw hb he hone hwave
  · exact exec_retimeClock_divided hw hb he hone hwave

end Sys2Proof.Machine
end


section
/-! SUPPORT. TIME_RESET (R28, R29): each clock re-established, the SYNCs it begins and its end; then the statement about
it. -/

namespace Sys2Proof.Machine

/-! ## A clock re-established -/

section
variable {e : ClockEntry}

/-- OFF_PENDING enters OFF at a time reset (R28). -/
theorem ClockEntry.timeReset_offPending (h : e.state = .offPending) : e.timeReset = e.enterOff := by
  rw [ClockEntry.timeReset, h]

/-- The other clocks that are not OFF start again at time 0, GATE_PENDING as GATED (R28). -/
theorem ClockEntry.timeReset_started (hoff : e.state ≠ .off) (hpending : e.state ≠ .offPending) :
    e.timeReset = { e with state := if e.state = .gatePending then .gated else e.state, level := false,
                           wave := e.wave.settleRetime.started 0 } := by
  obtain ⟨n, st, level, wave⟩ := e
  cases st
  case off => exact absurd rfl hoff
  case offPending => exact absurd rfl hpending
  all_goals rfl

/-- At time 0 the first rise of a grid is at the phase, or at the period with phase 0 (R19, R28). -/
theorem PeriodicWave.firstRise_zero (w : PeriodicWave) : w.firstRise 0 = if 0 < w.phase then w.phase else w.period := by
  unfold PeriodicWave.firstRise
  split
  · rfl
  · simp

end

/-! ## The SYNCs and their end -/

theorem boardList_numbers (bs : List Board) : boardList (fun _ => []) bs = bs.map fun b => BitVec.ofNat 8 b.val := by
  induction bs with
  | nil => rfl
  | cons b bs ih => rw [boardList, ih]; rfl

section
variable {s : State} {k : Slot}

/-- The partition at a time reset (R28). -/
def Partition.timeReset (p : Partition) : Partition :=
  { p with vt := 0, firedFrontier := 0, fired := p.fired.map ClockEntry.timeReset }

theorem resetTime_eq : resetTime k s = s.setPart k (s.part k).timeReset := rfl

/-- The machine once a TIME_RESET has sent its SYNCs (R29). -/
def timeResetSynced (k : Slot) (s : State) : State :=
  ((s.setPart k { (s.part k).timeReset with syncPending := true }).changeBoards (s.owns k)
    (fun r => { r with link := .syncing }) (Link.queueSync 1 0)).setPort k
    { s.port k with work := some (.timeReset 0) }

theorem exec_timeReset_noBoard (hw : WaitsIn s k .stopped .timeReset) (h : ∀ b, (s.board b).owner ≠ some k) :
    exec (.timeReset k) s = .next (respond k .ok false []
      (s.setPart k { (s.part k).timeReset with syncPending := false })) := by
  have hnone : (resetTime k s).ownedBoards k = [] :=
    List.eq_nil_iff_forall_not_mem.2 fun b hb => h b ((State.mem_ownedBoards _ k b).1 hb)
  refine (take_waits hw.1).trans (congrArg Host.Outcome.next ?_)
  rw [whenStopped_stopped hw.2]
  dsimp only
  rw [hnone, List.isEmpty_nil, if_pos rfl, endTimeReset, boardList_numbers, resetTime_eq, State.updPart_eq,
    State.setPart_setPart, State.setPart_part_self]
  rfl

theorem exec_timeReset_boards (hw : WaitsIn s k .stopped .timeReset) (h : ∃ b, (s.board b).owner = some k) :
    exec (.timeReset k) s = .next (timeResetSynced k s) := by
  obtain ⟨b, hb⟩ := h
  have hsome : ((resetTime k s).ownedBoards k).isEmpty = false := by
    rw [List.isEmpty_eq_false_iff]
    exact List.ne_nil_of_mem ((State.mem_ownedBoards _ k b).2 hb)
  have htest : (fun b => decide (b ∈ (resetTime k s).ownedBoards k)) = s.owns k := by
    funext b
    rw [Bool.eq_iff_iff, decide_eq_true_iff, State.mem_ownedBoards, State.owns_iff]
    rfl
  refine (take_waits hw.1).trans (congrArg Host.Outcome.next ?_)
  rw [whenStopped_stopped hw.2]
  dsimp only
  rw [hsome, if_neg Bool.false_ne_true, forBoards_syncBoard (State.ownedBoards_nodup _ k), htest, resetTime_eq,
    State.updPart_eq, State.setPart_setPart, State.setPart_part_self, State.updPort_eq, State.changeBoards_port,
    State.setPart_port]
  rfl

theorem settlePort_timeReset {failed : BoardMask} (h : (s.port k).work = some (.timeReset failed)) : settlePort k s =
    if ∀ b, (s.board b).owner = some k → (s.board b).link ≠ .syncing then
      respond k .ok false ((maskBoards failed).map fun b => BitVec.ofNat 8 b.val)
        (s.setPart k { s.part k with syncPending := false })
    else s := by
  rw [settlePort, h]
  refine if_congr ?_ ?_ rfl
  · simp [List.all_eq_true]
  · rw [endTimeReset, boardList_numbers, State.updPart_eq]

end

/-- Settles O36: the two beginnings of a TIME_RESET, the clocks re-established one by one, and its end. -/
theorem timeResetSyncsBoards : Obligations.TimeResetSyncsBoards := by
  refine ⟨fun s k hw => ⟨exec_timeReset_noBoard hw, fun h => ⟨_, exec_timeReset_boards hw h, ?_⟩⟩,
    fun e => ⟨fun h => by rw [ClockEntry.timeReset, h], fun w hwave => ⟨fun h => ?_, fun hoff hpending => ?_⟩,
      fun w hwave => ⟨fun h => ?_, fun hoff hpending => ?_⟩⟩,
    fun s k failed hwork => ⟨fun ⟨b, hb, hsync⟩ => ?_, fun hdone => ?_⟩⟩
  · refine ⟨by simp [timeResetSynced, Partition.timeReset], by simp [timeResetSynced], fun b hb => ?_, fun b hb => ?_, fun j hj => ?_,
      by simp [timeResetSynced], by simp [timeResetSynced], by simp [timeResetSynced], by simp [timeResetSynced]⟩
    · simp [timeResetSynced, State.owns, hb]
    · simp [timeResetSynced, State.owns, hb]
    · simp [timeResetSynced, State.setPart_part_ne _ _ _ _ hj, State.setPort_port_ne _ _ _ _ hj]
  · rw [ClockEntry.timeReset_offPending h, ClockEntry.enterOff_periodic hwave]
    obtain ⟨period, high, phase, next, polarity, retime⟩ := w
    cases retime <;> rfl
  · rw [ClockEntry.timeReset_started hoff hpending, hwave, Wave.settleRetime, Wave.started, PeriodicWave.firstRise_zero]
    rfl
  · rw [ClockEntry.timeReset_offPending h, ClockEntry.enterOff_divided hwave]
    obtain ⟨divisor, high, count, retime⟩ := w
    cases retime <;> rfl
  · rw [ClockEntry.timeReset_started hoff hpending, hwave]
    rfl
  · rw [settlePort_timeReset hwork, if_neg fun hnone => hnone b hb hsync]
  · rw [settlePort_timeReset hwork, if_pos hdone]

end Sys2Proof.Machine
end


section
/-! SUPPORT. OPEN and its presets (R52, R57 to R59): the record opened, a preset applied, and the answer; then the statement
about them. -/

namespace Sys2Proof.Machine

section
variable {s t : State} {k : Slot} {applied notEnabled skipped : Nat} {clamped : List Preset}

/-- A count that fits a byte is that byte, whatever the free value (R59; assumption 8). -/
theorem presetCount_toNat {n : Nat} (free : Byte) (h : n ≤ 255) : (presetCount free n).toNat = n := by
  rw [presetCount, if_pos h, BitVec.toNat_ofNat]
  omega

theorem exec_openSlot : exec (.openSlot k) s = execOpenSlot k s := rfl

/-- OPEN in a CLOSED slot (R57, R59). -/
theorem exec_openSlot_closed (h : WaitsIn s k .closed .openSlot) : exec (.openSlot k) s = .next
    (continueOpen k (s.loader.presets.filter fun p => p.slot = k) 0 0 0 []
      (s.setPart k (Partition.opened s.loader.defaults))) := by
  rw [exec_openSlot, execOpenSlot, take_waits h.1, if_pos h.2]

/-- OPEN in an open slot (R57). -/
theorem exec_openSlot_open (h : Waits s k .openSlot) (hopen : (s.part k).state ≠ .closed) :
    exec (.openSlot k) s = .next (refuse k .alreadyOpen s) := by
  rw [exec_openSlot, execOpenSlot, take_waits h, if_neg hopen]

/-- What is left of an OPEN just taken: its presets, or the answer with three counts of 0 (R59). -/
theorem continueOpen_first (todo : List Preset) : continueOpen k todo 0 0 0 [] s =
    if todo = [] then respond k .ok false [0, 0, 0] s
    else s.setPort k { s.port k with work := some (.opening todo 0 0 0 []) } := by
  cases todo with
  | nil => rfl
  | cons p rest => rw [if_neg (List.cons_ne_nil p rest)]; rfl

/-- The answer of an OPEN, with the free values that stand for counts above 255 (R59; assumptions 8, 36). -/
theorem continueOpen_end : ∃ (x y z : Byte) (n : Nat), continueOpen k [] applied notEnabled skipped clamped s
      = respond k .ok (decide (clamped ≠ [])) ([x, y, z] ++ clamped.flatMap fun p =>
          BitVec.ofNat 8 p.localNo.val :: p.body.definition.wave.keptBytes) { s with freeCount := n }
    ∧ (applied ≤ 255 → x.toNat = applied) ∧ (notEnabled ≤ 255 → y.toNat = notEnabled)
    ∧ (skipped ≤ 255 → z.toNat = skipped)
    ∧ (applied ≤ 255 → notEnabled ≤ 255 → skipped ≤ 255 → n = s.freeCount) := by
  refine ⟨presetCount (Config.freeByte s.freeCount) applied, presetCount (Config.freeByte (s.freeCount + 1)) notEnabled,
    presetCount (Config.freeByte (s.freeCount + 2)) skipped,
    if applied ≤ 255 ∧ notEnabled ≤ 255 ∧ skipped ≤ 255 then s.freeCount else s.freeCount + 3, ?_, presetCount_toNat _,
    presetCount_toNat _, presetCount_toNat _, fun happlied hnot hskipped => if_pos ⟨happlied, hnot, hskipped⟩⟩
  have hclamped : decide (clamped ≠ []) = !clamped.isEmpty := by cases clamped <;> rfl
  rw [hclamped, ← clampedBytes_eq_flatMap]
  rfl

/-! ## A preset applied -/

section
variable {p : Preset} {rest : List Preset}

theorem applyPreset_skipped {st : Status} (h : definitionRecord k p.localNo p.body.definition.kind s = .error st) :
    applyPreset k p s = (s, .skipped, false) := by
  unfold applyPreset
  dsimp only
  rw [h]

theorem applyPreset_placed {i : Fin 48} (h : definitionRecord k p.localNo p.body.definition.kind s = .ok i)
    (hplaced : placeClock k p.localNo p.body.definition i s = t) :
    (p.enable = true → t.parentOff k p.localNo = true →
        applyPreset k p s = (t, .notEnabled, p.body.definition.clamped))
      ∧ (p.enable = true → t.parentOff k p.localNo = false → applyPreset k p s
        = (t.updFired k (updateClock p.localNo (ClockEntry.enable 0)), .applied, p.body.definition.clamped))
      ∧ (p.enable = false → applyPreset k p s = (t, .applied, p.body.definition.clamped)) := by
  unfold applyPreset
  dsimp only
  rw [h]
  dsimp only
  rw [hplaced]
  exact ⟨fun henable hoff => by rw [if_pos henable, if_pos hoff], fun henable hoff => by rw [if_pos henable, hoff]; rfl,
    fun henable => by rw [henable]; rfl⟩

variable (hwork : (s.port k).work = some (.opening (p :: rest) applied notEnabled skipped clamped)) {kept : Bool}
include hwork

/-- A preset counted by its outcome (R58, R59). -/
theorem openNext_applied (h : applyPreset k p s = (t, .applied, kept)) : openNext k s
    = continueOpen k rest (applied + 1) notEnabled skipped (if kept = true then clamped ++ [p] else clamped) t := by
  unfold openNext
  rw [hwork]
  dsimp only
  rw [h]

theorem openNext_notEnabled (h : applyPreset k p s = (t, .notEnabled, kept)) : openNext k s
    = continueOpen k rest applied (notEnabled + 1) skipped (if kept = true then clamped ++ [p] else clamped) t := by
  unfold openNext
  rw [hwork]
  dsimp only
  rw [h]

theorem openNext_skipped (h : applyPreset k p s = (t, .skipped, kept)) : openNext k s
    = continueOpen k rest applied notEnabled (skipped + 1) (if kept = true then clamped ++ [p] else clamped) t := by
  unfold openNext
  rw [hwork]
  dsimp only
  rw [h]

/-- A preset that passes the checks of R15 (R58). -/
theorem openNext_placed {i : Fin 48} (h : definitionRecord k p.localNo p.body.definition.kind s = .ok i)
    (hplaced : placeClock k p.localNo p.body.definition i s = t) {kept : List Preset}
    (hkept : (if p.body.definition.clamped = true then clamped ++ [p] else clamped) = kept) : openNext k s =
    if p.enable = true ∧ t.parentOff k p.localNo = true then continueOpen k rest applied (notEnabled + 1) skipped kept t
    else if p.enable = true then continueOpen k rest (applied + 1) notEnabled skipped kept
      (t.setPart k { t.part k with fired := updateClock p.localNo (ClockEntry.enable 0) (t.part k).fired })
    else continueOpen k rest (applied + 1) notEnabled skipped kept t := by
  obtain ⟨hrefused, henabled, hplain⟩ := applyPreset_placed h hplaced
  cases henable : p.enable with
  | false => rw [openNext_applied hwork (hplain henable), hkept]; rfl
  | true =>
    cases hoff : t.parentOff k p.localNo with
    | true => rw [openNext_notEnabled hwork (hrefused henable hoff), hkept]; rfl
    | false => rw [openNext_applied hwork (henabled henable hoff), hkept]; rfl

end
end

/-- Settles O24: OPEN taken or refused, the presets one by one, the answer, and the checks and clamps of a definition. -/
theorem openAppliesPresets : Obligations.OpenAppliesPresets := by
  refine ⟨fun s k => exec_openSlot_open, fun s k hw => ?_, fun s k p rest applied refused skipped clamped hr hwork =>
    ⟨fun st hst => ?_, fun i hi => ?_⟩, fun s k applied refused skipped clamped => ⟨fun _ _ => rfl, continueOpen_end⟩,
    fun period high phase hp => definePeriodic_eq hp high phase, fun parent divisor high hd => ?_, fun _ => rfl,
    fun _ => rfl, fun s k n kind => ⟨definitionRecord_inUse, fun hn => ⟨fun parent => definitionRecord_parentInvalid hn,
      fun hparent => ⟨definitionRecord_poolEmpty hn hparent, fun i => definitionRecord_free hn hparent⟩⟩⟩,
    fun s k n d i => placeClock_eq k n d i s, fun _ _ _ => rfl, fun v e => ?_⟩
  · exact (exec_openSlot_closed hw).trans (congrArg Host.Outcome.next (continueOpen_first _))
  · exact (act_running hr).trans (congrArg Host.Outcome.next (openNext_skipped hwork (applyPreset_skipped hst)))
  · exact (act_running hr).trans (congrArg Host.Outcome.next (openNext_placed hwork hi rfl rfl))
  · have hparent : Fin.ofNat 16 parent.val = parent := Fin.ofNat_val_eq_self parent
    rw [PresetBody.definition, hparent]
    exact defineDivided_eq hd parent high
  · unfold ClockEntry.enable
    cases e.state <;> rfl

end Sys2Proof.Machine
end


section
/-! SUPPORT. The answers of the requests that only read (R27, R56, R70, R71), laid out as the manual gives them; then the
statement about them. -/

namespace Sys2Proof.Machine

/-! ## Layouts -/

/-- A list over boards, each entry led by its board number. -/
theorem boardList_eq_flatMap (f : Board → List Byte) (bs : List Board) :
    boardList f bs = bs.flatMap fun b => BitVec.ofNat 8 b.val :: f b := by
  induction bs with
  | nil => rfl
  | cons b bs ih => rw [boardList, ih]; rfl

/-- The items of READ_PARTITION in their order (R56). -/
theorem partitionBody_eq (k : Slot) (s : State) :
    let p := s.part k
    let one := fun n : Nat => BitVec.ofNat 8 n
    let flag := fun b : Bool => if b = true then 1#8 else 0#8
    partitionBody k s =
      [p.state.code, one p.settings.window, one p.settings.horizon, one p.settings.gapCode, one p.settings.retryLimit,
        one p.settings.backoffLimit, one p.settings.timeoutCode, flag p.settings.attention, one p.weff, one p.heff,
        p.runMode.code]
        ++ leBytes 6 p.runArgument ++ leBytes 4 p.runLimit ++ leBytes 4 p.firedFrontier ++ leBytes 6 p.vt
        ++ (match p.stop with
          | some point => [1#8] ++ leBytes 4 point.step ++ [point.primary.name.code]
          | none => [0#8, 0#8, 0#8, 0#8, 0#8, 0#8])
        ++ [p.also.byte, p.sticky.byte, ownerByte p.group, flag p.syncPending] ++ leBytes 3 (s.ownedMask k).toNat
        ++ [one p.fired.length, one p.queue.records.length] ++ leBytes 2 p.queue.drops ++ [flag p.queue.overflow] := by
  intro p one flag
  unfold partitionBody Partition.stopBytes
  cases hstop : (s.part k).stop with
  | none => simp [p, hstop, Settings.bytes, Partition.windowBytes, Partition.setupBytes, maskBytes, flagByte, one, flag, leBytes]
  | some point => simp [p, hstop, Settings.bytes, Partition.windowBytes, Partition.setupBytes, maskBytes, flagByte, one, flag]

theorem leBytes_length (width n : Nat) : (leBytes width n).length = width := by
  induction width generalizing n with
  | zero => rfl
  | succ width ih => rw [leBytes, List.length_cons, ih]

theorem retimeBytes_length (retime : Option (Nat × Nat)) : (retimeBytes retime).length = 7 := by
  cases retime with
  | none => rfl
  | some values => simp [retimeBytes, leBytes_length]

/-- A clock record has 42 bytes (R214). -/
theorem clockRecord_length (index : Nat) (kind : ClockKind) (e : ClockEntry) (vt fired : Nat) :
    (clockRecord index kind e vt fired).length = 42 := by
  unfold clockRecord
  cases e.wave <;> simp [leBytes_length, retimeBytes_length]

section
variable {index vt fired : Nat} {kind : ClockKind} {n : LocalNo} {st : ClockState} {level : Bool}
  {kindBytes stateBytes pending : List Byte} (hkind : [kind.code, kind.parentByte] = kindBytes)
  (hstate : [st.code, flagByte level] = stateBytes)
include hkind hstate

/-- The record of a periodic clock, by the bytes of its kind, of its state and of its pending retime (R214). -/
theorem clockRecord_periodic {w : PeriodicWave} {polarity : Byte} (hpolarity : w.polarity.code = polarity)
    (hretime : retimeBytes w.retime = pending) : clockRecord index kind ⟨n, st, level, .periodic w⟩ vt fired
      = [BitVec.ofNat 8 index, BitVec.ofNat 8 n.val] ++ kindBytes ++ leBytes 3 w.period ++ leBytes 3 w.high
        ++ leBytes 3 w.phase ++ stateBytes ++ leBytes 7 w.next ++ [polarity, 0#8, 0#8] ++ pending ++ leBytes 6 vt
        ++ leBytes 4 fired := by
  subst hkind hstate hpolarity hretime
  simp [clockRecord, leBytes]

/-- The record of a divided clock, with 0 in the fields that it does not have (R214). -/
theorem clockRecord_divided {w : DividedWave} (hretime : retimeBytes w.retime = pending) :
    clockRecord index kind ⟨n, st, level, .divided w⟩ vt fired
      = [BitVec.ofNat 8 index, BitVec.ofNat 8 n.val] ++ kindBytes ++ leBytes 3 w.divisor ++ leBytes 3 w.high
        ++ [0#8, 0#8, 0#8] ++ stateBytes ++ [0#8, 0#8, 0#8, 0#8, 0#8, 0#8, 0#8, 0#8] ++ leBytes 2 w.count ++ pending
        ++ leBytes 6 vt ++ leBytes 4 fired := by
  subst hkind hstate hretime
  simp [clockRecord, leBytes]

end

theorem StickyErrors.byte_bits (e : StickyErrors) {i : Nat} (hi : i < 8) : e.byte.getLsbD i = true ↔
    i = 0 ∧ e.linkFault = true ∨ i = 1 ∧ e.sequence = true ∨ i = 2 ∧ e.overflow = true := by
  have hall : ∀ (a b c : Bool) (i : Fin 8), (StickyErrors.mk a b c).byte.getLsbD i.val = true ↔
      i.val = 0 ∧ a = true ∨ i.val = 1 ∧ b = true ∨ i.val = 2 ∧ c = true := by decide
  exact hall e.linkFault e.sequence e.overflow ⟨i, hi⟩

/-- The reasons as the bits of a byte (R211). -/
theorem ReasonSet.byte_eq (set : ReasonSet) : set.byte = bitsByte [set.controller, set.trigger, set.group, set.count,
    set.time, set.noEdges, set.limit, set.fault] := by
  have hbit (c : Bool) (n : Nat) : (if c = true then n else 0) = n * c.toNat := by cases c <;> simp
  refine BitVec.eq_of_toNat_eq ?_
  simp only [ReasonSet.byte, bitsByte, BitVec.toNat_ofNat, hbit]
  have hle (c : Bool) : c.toNat ≤ 1 := Bool.toNat_le c
  have h0 := hle set.controller
  have h1 := hle set.trigger
  have h2 := hle set.group
  have h3 := hle set.count
  have h4 := hle set.time
  have h5 := hle set.noEdges
  have h6 := hle set.limit
  have h7 := hle set.fault
  omega

theorem ReasonSet.byte_bits (set : ReasonSet) {i : Nat} (hi : i < 8) : set.byte.getLsbD i = true ↔
    i = 0 ∧ set.controller = true ∨ i = 1 ∧ set.trigger = true ∨ i = 2 ∧ set.group = true ∨ i = 3 ∧ set.count = true
      ∨ i = 4 ∧ set.time = true ∨ i = 5 ∧ set.noEdges = true ∨ i = 6 ∧ set.limit = true ∨ i = 7 ∧ set.fault = true := by
  rw [ReasonSet.byte_eq, bitsByte_getLsbD _ i hi]
  interval_cases i <;> simp

/-! ## The requests -/

section
variable {s : State} {k : Slot} {b : Byte}

theorem exec_readPartition (hw : Waits s k .readPartition) (hopen : (s.part k).state ≠ .closed) :
    exec (.readPartition k) s = .next (respond k .ok false (partitionBody k s) s) := by
  have hexec : exec (.readPartition k) s = execReadPartition k s := rfl
  rw [hexec, execReadPartition, take_waits hw, whenOpen_open hopen]

/-- The part identity, the loader's outcome, the boards, the slots and the FREE records (R71). -/
theorem cabinetBody_eq (s : State) : cabinetBody s =
    [0x46#8, 0x48#8, 0x24#8, statusCode s.loader.status, BitVec.ofNat 8 s.loader.skipped]
      ++ ((List.finRange 24).flatMap fun b =>
        [BitVec.ofNat 8 b.val, (s.board b).link.code, ownerByte (s.board b).owner])
      ++ ([0, 1, 2, 3].flatMap fun j : Slot => [(s.part j).state.code, ownerByte (s.part j).group])
      ++ [BitVec.ofNat 8 ((List.finRange 48).filter fun i => s.record i = none).length] := by
  have hfree : s.freeRecords = ((List.finRange 48).filter fun i => s.record i = none).length := by
    refine congrArg List.length (List.filter_congr fun i _ => ?_)
    rw [Bool.eq_iff_iff, Option.isNone_iff_eq_none, decide_eq_true_iff]
  rw [cabinetBody, boardList_eq_flatMap, hfree]
  rfl

theorem exec_readCabinet (hw : Waits s k .readCabinet) :
    exec (.readCabinet k) s = .next (respond k .ok false (cabinetBody s) s) := by
  have hexec : exec (.readCabinet k) s = execReadCabinet k s := rfl
  rw [hexec, execReadCabinet, take_waits hw]

theorem exec_readBoard (hw : Waits s k (.readBoard b)) (hopen : (s.part k).state ≠ .closed) :
    (∀ i : Board, b.toNat = i.val → exec (.readBoard k b) s = .next (respond k .ok false (boardBody i s) s))
      ∧ (23 < b.toNat → exec (.readBoard k b) s = .next (refuse k .badValue s)) := by
  have hexec : exec (.readBoard k b) s = execReadBoard k b s := rfl
  rw [hexec, execReadBoard, take_waits hw, whenOpen_open hopen]
  refine ⟨fun i hi => congrArg Host.Outcome.next ?_, fun habove => congrArg Host.Outcome.next (dif_neg (by omega))⟩
  rw [dif_pos (hi ▸ i.isLt)]
  exact congrArg (fun i => respond k .ok false (boardBody i s) s) (Fin.ext hi)

theorem exec_readClock (hw : Waits s k (.readClock b)) (hopen : (s.part k).state ≠ .closed) :
    (15 < b.toNat → exec (.readClock k b) s = .next (refuse k .badValue s))
      ∧ ∀ n : LocalNo, b.toNat = n.val →
        (findClock (s.part k).fired n = none → exec (.readClock k b) s = .next (refuse k .noSuchClock s))
        ∧ ∀ e i kind, findClock (s.part k).fired n = some e → s.clockIndex k n = some i → s.clockKind k n = some kind →
          exec (.readClock k b) s = .next
            (respond k .ok false (clockRecord i.val kind e (s.part k).vt (s.part k).firedFrontier) s) := by
  have hexec : exec (.readClock k b) s = execReadClock k b s := rfl
  rw [hexec, execReadClock, take_waits hw, whenOpen_open hopen]
  refine ⟨fun habove => ?_, fun n hb => ⟨fun hn => ?_, fun e i kind he hi hkind => ?_⟩⟩
  · rw [withClock, localOf_above habove]
  · rw [withClock, localOf_of_eq hb]
    dsimp only
    rw [hn]
  · rw [withClock, localOf_of_eq hb]
    dsimp only
    rw [he]
    dsimp only
    rw [hi, hkind]

end

/-- Settles O28: each request answers its body, and the bodies and the codes are laid out as stated. -/
theorem readRequestsOnlyAnswer : Obligations.ReadRequestsOnlyAnswer := by
  refine ⟨fun s k => ⟨fun hw hopen => ?_, fun b => ?_, fun hw => ?_, fun b hw hopen => ?_, fun b hw hopen => ?_⟩,
    fun index vt fired kind n st level => ⟨fun w => ?_, fun w => ?_⟩, fun _ _ => ⟨rfl, rfl⟩, rfl, rfl, rfl, rfl, rfl,
    fun _ => rfl, fun _ => rfl, rfl, fun _ => rfl, rfl, fun e i hi => e.byte_bits hi, fun set i hi => set.byte_bits hi⟩
  · exact (exec_readPartition hw hopen).trans
      (congrArg (fun body => Host.Outcome.next (respond k .ok false body s)) (partitionBody_eq k s))
  · rw [maskHas_ownedMask, decide_eq_true_iff]
  · rw [exec_readCabinet hw, cabinetBody_eq]
    rcases s.loader.status with _ | _ | _ <;> rfl
  · obtain ⟨hread, habove⟩ := exec_readBoard hw hopen
    refine ⟨fun i hi => ?_, habove⟩
    rw [hread i hi]
    simp [boardBody, State.identityBytes]
  · obtain ⟨habove, hread⟩ := exec_readClock hw hopen
    refine ⟨habove, fun n hb => ⟨(hread n hb).1, fun e i kind he hi hkind => ?_⟩⟩
    exact ⟨(hread n hb).2 e i kind he hi hkind, clockRecord_length _ _ _ _ _⟩
  · refine clockRecord_periodic (by cases kind <;> rfl) (by cases st <;> cases level <;> rfl) ?_ ?_
    · cases w.polarity <;> rfl
    · cases w.retime <;> rfl
  · refine clockRecord_divided (by cases kind <;> rfl) (by cases st <;> cases level <;> rfl) ?_
    cases w.retime <;> rfl

end Sys2Proof.Machine
end


section
/-! SUPPORT. What muting ends (R149): a SYNC in progress ended unanswered, for one board and then for every board of a
partition that has become FAULTED. -/

namespace Sys2Proof.Machine

/-! ## Parts of a fault -/

/-- Work with a board of its claim noted as failed (R66). -/
def Work.noteClaimFailed (b : Board) : Work → Work
  | .claiming fresh already failed => .claiming fresh already (maskAdd failed b)
  | w => w

/-- Work with a board noted as failed in its TIME_RESET (R29, R99). -/
def Work.noteResetFailed (b : Board) : Work → Work
  | .timeReset failed => .timeReset (maskAdd failed b)
  | w => w

/-- A partition with its Weff, and the Heff that follows from it (R55). -/
def Partition.windowed (weff : Nat) (p : Partition) : Partition :=
  { p with weff := weff, heff := max p.settings.horizon weff }

/-- A partition with the sticky error of a SYNC that ended unanswered (R100, R149). -/
def Partition.timedOut (p : Partition) : Partition := { p with sticky := p.sticky.addCause .timeout }

/-- The record of a board whose SYNC ended unanswered, dropped from its claim or not (R67, R149). -/
def BoardRecord.syncEnded (dropped : Bool) (r : BoardRecord) : BoardRecord :=
  { r with link := .failed, cause := some .timeout, owner := if dropped then none else r.owner }

/-- Its link: the reset values, and with the board dropped the strobe low (R67, R148). -/
def Link.syncEnded (dropped : Bool) (l : Link) : Link :=
  if dropped then { l.cleared with strobe := false } else l.cleared

/-- Whether the muting of partition `k` would end a SYNC of board `b` (R149). -/
def endsSync (k : Slot) (b : Board) (s : State) : Bool := s.owns k b && (s.board b).link == .syncing

/-- Whether it would drop the board from its claim (R67; assumption 44). -/
def dropsBoard (k : Slot) (b : Board) (s : State) : Bool := endsSync k b s && freshClaim k b s

section
variable (s : State) (k : Slot) (b : Board)

theorem failBoard_eq (cause : FaultCause) : failBoard b cause s =
    (s.setBoard b { s.board b with link := .failed, cause := some cause }).setLink b (s.link b).cleared := by
  rw [failBoard, State.updBoard_eq, State.updLink_eq, State.setBoard_link]

theorem noteClaimFailed_setPort : noteClaimFailed k b s =
    s.setPort k { s.port k with work := (s.port k).work.map (Work.noteClaimFailed b) } := by
  rw [noteClaimFailed, State.updPort_eq]
  rcases (s.port k).work with _ | _ | _ <;> rfl

theorem noteResetFailed_setPort : noteResetFailed k b s =
    s.setPort k { s.port k with work := (s.port k).work.map (Work.noteResetFailed b) } := by
  rw [noteResetFailed, State.updPort_eq]
  rcases (s.port k).work with _ | _ | _ <;> rfl

/-- A newly claimed board dropped: unowned with its strobe low, noted in the claim, Weff recomputed without it, and its
LINK record offered (R67). -/
theorem dropClaimed_eq (cause : FaultCause) : dropClaimed k b cause s =
    (((s.setBoard b { s.board b with owner := none }).setLink b { s.link b with strobe := false }).setPort k
      { s.port k with work := (s.port k).work.map (Work.noteClaimFailed b) }).setPart k
      (Partition.offer (.link b (s.part k).firedFrontier (.fault cause))
        ((s.part k).windowed ((s.setBoard b { s.board b with owner := none }).weffFor k))) := by
  simp only [dropClaimed, noteClaimFailed_setPort, recompute_eq, offerLink, offerRecord, State.updBoard_eq,
    State.updLink_eq, State.updPart_eq, State.setPart_setPart, State.setPart_part_self, State.setBoard_link]
  rfl

end

/-! ## One SYNC ended -/

section
variable {s : State} {k : Slot} {b : Board}

/-- A board of partition `k` failed by a SYNC that ends unanswered, with its sticky error (R100, R149). -/
def syncFailed (k : Slot) (b : Board) (s : State) : State :=
  ((s.setBoard b { s.board b with link := .failed, cause := some .timeout }).setLink b (s.link b).cleared).setPart k
    (s.part k).timedOut

theorem endSync_eq : endSync k b s = if endsSync k b s = true then
    (if freshClaim k b s = true then dropClaimed k b .timeout (syncFailed k b s)
      else noteResetFailed k b (syncFailed k b s))
    else s := rfl

theorem endSync_of_not (h : endsSync k b s = false) : endSync k b s = s := by
  rw [endSync_eq, h]
  rfl

/-- A SYNC ended without a claim of its board: noted in a TIME_RESET in progress (R149). -/
theorem endSync_kept (h : endsSync k b s = true) (hfresh : freshClaim k b s = false) : endSync k b s =
    (((s.setBoard b ((s.board b).syncEnded false)).setLink b ((s.link b).syncEnded false)).setPort k
      { s.port k with work := (s.port k).work.map (Work.noteResetFailed b) }).setPart k (s.part k).timedOut := by
  rw [endSync_eq, if_pos h, hfresh, if_neg Bool.false_ne_true, noteResetFailed_setPort]
  rfl

/-- A SYNC ended of a board being claimed: the board dropped (R67; assumption 44). -/
theorem endSync_dropped (h : endsSync k b s = true) (hfresh : freshClaim k b s = true) : endSync k b s =
    (((s.setBoard b ((s.board b).syncEnded true)).setLink b ((s.link b).syncEnded true)).setPort k
      { s.port k with work := (s.port k).work.map (Work.noteClaimFailed b) }).setPart k
      (Partition.offer (.link b (s.part k).firedFrontier (.fault .timeout))
        ((s.part k).timedOut.windowed ((s.setBoard b ((s.board b).syncEnded true)).weffFor k))) := by
  have hboard : (syncFailed k b s).board b = { s.board b with link := .failed, cause := some .timeout } :=
    State.setBoard_board_self s b _
  have hlink : (syncFailed k b s).link b = (s.link b).cleared := State.setLink_link_self _ b _
  have hpart : (syncFailed k b s).part k = (s.part k).timedOut := State.setPart_part_self _ k _
  have hboards : (syncFailed k b s).setBoard b { (syncFailed k b s).board b with owner := none }
      = ((s.setBoard b ((s.board b).syncEnded true)).setLink b (s.link b).cleared).setPart k (s.part k).timedOut := by
    rw [hboard]
    exact congrArg (fun u : State => (u.setLink b (s.link b).cleared).setPart k (s.part k).timedOut)
      (State.setBoard_setBoard s b _ _)
  have hweff : (((s.setBoard b ((s.board b).syncEnded true)).setLink b (s.link b).cleared).setPart k
      (s.part k).timedOut).weffFor k = (s.setBoard b ((s.board b).syncEnded true)).weffFor k := by
    rw [State.weffFor, State.setPart_part_self]
    rfl
  have hset (l : Link) (q : Port) (r : Partition) : (((((s.setBoard b ((s.board b).syncEnded true)).setLink b
        (s.link b).cleared).setLink b l).setPort k q).setPart k (s.part k).timedOut).setPart k r
      = (((s.setBoard b ((s.board b).syncEnded true)).setLink b l).setPort k q).setPart k r := by
    rw [State.setPart_setPart, State.setLink_setLink]
  rw [endSync_eq, if_pos h, if_pos hfresh, dropClaimed_eq, hboards, hweff, hlink, hpart]
  exact hset _ _ _

end

end Sys2Proof.Machine
end


section
/-! SUPPORT. The SYNCs that muting ends, board after board (R149): what becomes of the boards, the links, the partition and
its port. -/

namespace Sys2Proof.Machine

/-! ## One SYNC -/

section
variable (s : State) (k : Slot) (b : Board)

/-- The board and the link whose SYNC ends, and every other (R148, R149). -/
theorem endSync_boardLink (c : Board) :
    (endSync k b s).board c = (if c = b ∧ endsSync k b s = true then (s.board c).syncEnded (freshClaim k b s) else s.board c)
      ∧ (endSync k b s).link c
        = if c = b ∧ endsSync k b s = true then (s.link c).syncEnded (freshClaim k b s) else s.link c := by
  cases hends : endsSync k b s with
  | false => simp [endSync_of_not hends]
  | true =>
    by_cases hc : c = b
    · subst hc
      cases hfresh : freshClaim k c s with
      | false => rw [endSync_kept hends hfresh]; simp
      | true => rw [endSync_dropped hends hfresh]; simp
    · cases hfresh : freshClaim k b s with
      | false => rw [endSync_kept hends hfresh]; simp [hc, State.setBoard_board_ne, State.setLink_link_ne]
      | true => rw [endSync_dropped hends hfresh]; simp [hc, State.setBoard_board_ne, State.setLink_link_ne]

/-- The end of a SYNC keeps which boards are newly claimed (R66). -/
theorem endSync_freshClaim (c : Board) : freshClaim k c (endSync k b s) = freshClaim k c s := by
  cases hends : endsSync k b s with
  | false => rw [endSync_of_not hends]
  | true =>
    cases hfresh : freshClaim k b s with
    | false =>
      rw [endSync_kept hends hfresh]
      rcases hwork : (s.port k).work with _ | _ | _ <;> simp [freshClaim, hwork, Work.noteResetFailed]
    | true =>
      rw [endSync_dropped hends hfresh]
      rcases hwork : (s.port k).work with _ | _ | _ <;> simp [freshClaim, hwork, Work.noteClaimFailed]

/-- The end of a SYNC leaves the other slots, the engine, the pool and the memory. -/
theorem endSync_frame : (∀ j, j ≠ k → (endSync k b s).part j = s.part j ∧ (endSync k b s).port j = s.port j)
    ∧ (endSync k b s).engine = s.engine ∧ (endSync k b s).pool = s.pool ∧ (endSync k b s).loader = s.loader
    ∧ (endSync k b s).store = s.store := by
  cases hends : endsSync k b s with
  | false => simp [endSync_of_not hends]
  | true =>
    cases hfresh : freshClaim k b s with
    | false =>
      rw [endSync_kept hends hfresh]
      exact ⟨fun j hj => ⟨State.setPart_part_ne _ _ _ _ hj, State.setPort_port_ne _ _ _ _ hj⟩, rfl, rfl, rfl, rfl⟩
    | true =>
      rw [endSync_dropped hends hfresh]
      exact ⟨fun j hj => ⟨State.setPart_part_ne _ _ _ _ hj, State.setPort_port_ne _ _ _ _ hj⟩, rfl, rfl, rfl, rfl⟩

variable {s b} in
theorem endSync_board_ne {c : Board} (hc : c ≠ b) : (endSync k b s).board c = s.board c := by
  rw [(endSync_boardLink s k b c).1, if_neg fun h => hc h.1]

variable {s b} in
theorem endSync_link_ne {c : Board} (hc : c ≠ b) : (endSync k b s).link c = s.link c := by
  rw [(endSync_boardLink s k b c).2, if_neg fun h => hc h.1]

variable {s b} in
/-- Whether the SYNC of another board would end stays the same. -/
theorem endSync_endsSync_ne {c : Board} (hc : c ≠ b) : endsSync k c (endSync k b s) = endsSync k c s := by
  rw [endsSync, endsSync, State.owns, State.owns, endSync_board_ne k hc]

variable {s b} in
theorem endSync_dropsBoard_ne {c : Board} (hc : c ≠ b) : dropsBoard k c (endSync k b s) = dropsBoard k c s := by
  rw [dropsBoard, dropsBoard, endSync_endsSync_ne k hc, endSync_freshClaim]

end

/-! ## Weff as the boards are dropped -/

/-- Weff is that of the boards owned, with their depths and the window setting (R55). -/
theorem State.weffFor_congr {s t : State} {k : Slot} (hboards : ∀ c, (t.board c).owner = (s.board c).owner
      ∧ (t.board c).depth = (s.board c).depth) (hwindow : (t.part k).settings.window = (s.part k).settings.window) :
    t.weffFor k = s.weffFor k := by
  have howned : t.ownedBoards k = s.ownedBoards k :=
    List.filter_congr fun c _ => by rw [State.owns, State.owns, (hboards c).1]
  rw [State.weffFor, State.weffFor, hwindow, howned]
  exact congrArg (weffOf _) (List.map_congr_left fun c _ => (hboards c).2)

section
variable {s : State} {k : Slot} {b : Board}

/-- A board dropped leaves Weff recomputed (R55, R67). -/
theorem endSync_weff_dropped (h : dropsBoard k b s = true) :
    ((endSync k b s).part k).weff = (endSync k b s).weffFor k := by
  obtain ⟨hends, hfresh⟩ := Bool.and_eq_true_iff.1 h
  rw [endSync_dropped hends hfresh, State.setPart_part_self]
  have hoffer (r : EventRecord) (p : Partition) : (p.offer r).weff = p.weff := by
    unfold Partition.offer
    split <;> rfl
  rw [hoffer]
  refine Eq.trans ?_ (State.weffFor_congr (s := s.setBoard b ((s.board b).syncEnded true)) ?_ ?_).symm
  · rfl
  · exact fun c => ⟨rfl, rfl⟩
  · rw [State.setPart_part_self, Partition.offer_settings]
    rfl

/-- Once recomputed Weff stays so as further SYNCs end. -/
theorem endSync_weff (b : Board) (h : (s.part k).weff = s.weffFor k) :
    ((endSync k b s).part k).weff = (endSync k b s).weffFor k := by
  cases hends : endsSync k b s with
  | false => rwa [endSync_of_not hends]
  | true =>
    cases hfresh : freshClaim k b s with
    | true => exact endSync_weff_dropped (by rw [dropsBoard, hends, hfresh]; rfl)
    | false =>
      have hpart : (endSync k b s).part k = (s.part k).timedOut := by
        rw [endSync_kept hends hfresh, State.setPart_part_self]
      rw [State.weffFor_congr (s := s) (fun c => ?_) (by rw [hpart]; rfl), ← h, hpart]
      · rfl
      · rw [(endSync_boardLink s k b c).1, hfresh]
        split <;> exact ⟨rfl, rfl⟩

end

/-! ## Every SYNC -/

section
variable {k : Slot}

/-- The boards and links once the SYNCs of a list of boards have ended (R148, R149). -/
theorem forBoards_endSync_boardLink (c : Board) : ∀ (bs : List Board) (s : State), bs.Nodup →
    (forBoards (endSync k) bs s).board c
        = (if c ∈ bs ∧ endsSync k c s = true then (s.board c).syncEnded (freshClaim k c s) else s.board c)
      ∧ (forBoards (endSync k) bs s).link c
        = if c ∈ bs ∧ endsSync k c s = true then (s.link c).syncEnded (freshClaim k c s) else s.link c
  | [], s, _ => by simp [forBoards]
  | b :: bs, s, hbs => by
    obtain ⟨hb, hbs⟩ := List.nodup_cons.1 hbs
    obtain ⟨hboard, hlink⟩ := forBoards_endSync_boardLink c bs (endSync k b s) hbs
    rw [forBoards, hboard, hlink]
    by_cases hc : c = b
    · subst hc
      obtain ⟨hboard, hlink⟩ := endSync_boardLink s k c c
      simp [hb, hboard, hlink]
    · rw [endSync_board_ne k hc, endSync_link_ne k hc, endSync_endsSync_ne k hc, endSync_freshClaim]
      simp [hc]

/-- With no SYNC in progress none ends. -/
theorem forBoards_endSync_none : ∀ (bs : List Board) (s : State), (∀ b ∈ bs, endsSync k b s = false) →
    forBoards (endSync k) bs s = s
  | [], _, _ => rfl
  | b :: bs, s, h => by
    rw [forBoards, endSync_of_not (h b List.mem_cons_self)]
    exact forBoards_endSync_none bs s fun c hc => h c (List.mem_cons_of_mem b hc)

theorem forBoards_endSync_frame (bs : List Board) (s : State) :
    (∀ j, j ≠ k → (forBoards (endSync k) bs s).part j = s.part j ∧ (forBoards (endSync k) bs s).port j = s.port j)
      ∧ (forBoards (endSync k) bs s).engine = s.engine ∧ (forBoards (endSync k) bs s).pool = s.pool
      ∧ (forBoards (endSync k) bs s).loader = s.loader ∧ (forBoards (endSync k) bs s).store = s.store := by
  refine forBoards_keeps (P := fun t => (∀ j, j ≠ k → t.part j = s.part j ∧ t.port j = s.port j) ∧ t.engine = s.engine
    ∧ t.pool = s.pool ∧ t.loader = s.loader ∧ t.store = s.store) (fun b t ht => ?_) bs s
    ⟨fun _ _ => ⟨rfl, rfl⟩, rfl, rfl, rfl, rfl⟩
  obtain ⟨hslots, hengine, hpool, hloader, hstore⟩ := ht
  obtain ⟨hslots', hengine', hpool', hloader', hstore'⟩ := endSync_frame t k b
  exact ⟨fun j hj => ⟨(hslots' j hj).1.trans (hslots j hj).1, (hslots' j hj).2.trans (hslots j hj).2⟩,
    hengine'.trans hengine, hpool'.trans hpool, hloader'.trans hloader, hstore'.trans hstore⟩

/-- With a board dropped, Weff is that of the boards left (R55, R67). -/
theorem forBoards_endSync_weff : ∀ (bs : List Board) (s : State), bs.Nodup → (∃ b ∈ bs, dropsBoard k b s = true) →
    ((forBoards (endSync k) bs s).part k).weff = (forBoards (endSync k) bs s).weffFor k
  | [], _, _, ⟨_, hb, _⟩ => absurd hb List.not_mem_nil
  | b :: bs, s, hbs, ⟨c, hc, hdrop⟩ => by
    obtain ⟨hb, hbs⟩ := List.nodup_cons.1 hbs
    rcases List.mem_cons.1 hc with rfl | hmem
    · exact forBoards_keeps (P := fun t => (t.part k).weff = t.weffFor k) (fun b t ht => endSync_weff b ht) bs _
        (endSync_weff_dropped hdrop)
    · have hne : c ≠ b := fun heq => hb (heq ▸ hmem)
      exact forBoards_endSync_weff bs _ hbs ⟨c, hmem, (endSync_dropsBoard_ne k hne).trans hdrop⟩

end

/-! ## The partition -/

/-- The LINK records of the boards dropped offered one after another (R67, R174). -/
def Partition.offerDropped (fired : Nat) (bs : List Board) (p : Partition) : Partition :=
  bs.foldl (fun p b => Partition.offer (.link b fired (.fault .timeout)) p) p

section
variable {p : Partition}

theorem Partition.offer_timedOut (r : EventRecord) : p.timedOut.offer r = (p.offer r).timedOut := by
  rw [Partition.offer, Partition.offer, apply_ite Partition.timedOut]
  rfl

theorem Partition.offer_windowed (r : EventRecord) (weff : Nat) : (p.windowed weff).offer r = (p.offer r).windowed weff := by
  rw [Partition.offer, Partition.offer, apply_ite (Partition.windowed weff)]
  rfl

theorem Partition.offerDropped_windowed (fired weff : Nat) (bs : List Board) :
    (p.windowed weff).offerDropped fired bs = (p.offerDropped fired bs).windowed weff := by
  induction bs generalizing p with
  | nil => rfl
  | cons b bs ih => rw [Partition.offerDropped, List.foldl_cons, Partition.offer_windowed]; exact ih

end

section
variable {k : Slot}

/-- The partition once the SYNCs of a list of boards have ended: the sticky error, the LINK records of the boards dropped,
and another Weff when there are any (R67, R100, R149). -/
theorem forBoards_endSync_part : ∀ (bs : List Board) (s : State), bs.Nodup →
    let dropped := bs.filter fun b => dropsBoard k b s
    let p := (if ∃ b ∈ bs, endsSync k b s = true then (s.part k).timedOut else s.part k).offerDropped
      (s.part k).firedFrontier dropped
    (dropped = [] → (forBoards (endSync k) bs s).part k = p)
      ∧ (dropped ≠ [] → ∃ weff, (forBoards (endSync k) bs s).part k = p.windowed weff)
  | [], s, _ => ⟨fun _ => by simp [forBoards, Partition.offerDropped], fun h => absurd rfl h⟩
  | b :: bs, s, hbs => by
    obtain ⟨hb, hbs⟩ := List.nodup_cons.1 hbs
    have hne {c : Board} (hc : c ∈ bs) : c ≠ b := fun heq => hb (heq ▸ hc)
    obtain ⟨hnone, hsome⟩ := forBoards_endSync_part bs (endSync k b s) hbs
    have hdropped : (bs.filter fun c => dropsBoard k c (endSync k b s)) = bs.filter fun c => dropsBoard k c s :=
      List.filter_congr fun c hc => endSync_dropsBoard_ne k (hne hc)
    have hends : (∃ c ∈ bs, endsSync k c (endSync k b s) = true) ↔ ∃ c ∈ bs, endsSync k c s = true :=
      exists_congr fun c => and_congr_right fun hc => by rw [endSync_endsSync_ne k (hne hc)]
    rw [hdropped] at hnone hsome
    simp only [hends] at hnone hsome
    cases hb' : endsSync k b s with
    | false =>
      have hends' : (∃ c ∈ b :: bs, endsSync k c s = true) ↔ ∃ c ∈ bs, endsSync k c s = true := by simp [hb']
      rw [endSync_of_not hb'] at hnone hsome
      rw [forBoards, endSync_of_not hb', List.filter_cons_of_neg (by simp [dropsBoard, hb'])]
      simp only [hends']
      exact ⟨hnone, hsome⟩
    | true =>
      rw [forBoards, if_pos ⟨b, List.mem_cons_self, hb'⟩]
      cases hfresh : freshClaim k b s with
      | false =>
        have hpart : (endSync k b s).part k = (s.part k).timedOut := by
          rw [endSync_kept hb' hfresh, State.setPart_part_self]
        have hmarked : (s.part k).timedOut.timedOut = (s.part k).timedOut := rfl
        rw [hpart, hmarked, ite_self] at hnone hsome
        rw [List.filter_cons_of_neg (by simp [dropsBoard, hfresh])]
        exact ⟨hnone, hsome⟩
      | true =>
        have hpart : ∃ weff, (endSync k b s).part k = ((s.part k).timedOut.offer
            (.link b (s.part k).firedFrontier (.fault .timeout))).windowed weff := by
          rw [endSync_dropped hb' hfresh, State.setPart_part_self, Partition.offer_windowed]
          exact ⟨_, rfl⟩
        obtain ⟨weff, hpart⟩ := hpart
        have hmarked : ((endSync k b s).part k).timedOut = (endSync k b s).part k := by
          rw [hpart, Partition.offer_timedOut]
          rfl
        have hfired : ((endSync k b s).part k).firedFrontier = (s.part k).firedFrontier := by
          rw [hpart]
          exact Partition.offer_firedFrontier _ _
        rw [hmarked, ite_self, hfired, hpart, Partition.offerDropped_windowed] at hnone hsome
        rw [List.filter_cons_of_pos (by simp [dropsBoard, hb', hfresh])]
        refine ⟨fun h => absurd h (List.cons_ne_nil _ _), fun _ => ?_⟩
        by_cases hrest : (bs.filter fun c => dropsBoard k c s) = []
        · exact ⟨weff, hnone hrest⟩
        · exact hsome hrest

/-! ## The port -/

theorem maskHas_maskAdd_iff (m : BoardMask) (b c : Board) :
    maskHas (maskAdd m b) c = true ↔ maskHas m c = true ∨ c = b := by
  rw [maskHas_maskAdd, Bool.or_eq_true, decide_eq_true_iff, @eq_comm _ b c]

/-- The claim at the port once the SYNCs of a list of boards have ended: it notes each newly claimed one as failed (R66,
R67). -/
theorem forBoards_endSync_claiming {fresh already : BoardMask} : ∀ (bs : List Board) (s : State) (failed : BoardMask),
    bs.Nodup → (s.port k).work = some (.claiming fresh already failed) →
    ∃ listed, (forBoards (endSync k) bs s).port k = { s.port k with work := some (.claiming fresh already listed) }
      ∧ ∀ c, maskHas listed c = true ↔ maskHas failed c = true ∨ c ∈ bs ∧ dropsBoard k c s = true
  | [], s, failed, _, hwork => ⟨failed, by rw [forBoards, ← hwork], by simp⟩
  | b :: bs, s, failed, hbs, hwork => by
    obtain ⟨hb, hbs⟩ := List.nodup_cons.1 hbs
    have hdrops {c : Board} (hc : c ∈ bs) : dropsBoard k c (endSync k b s) = dropsBoard k c s :=
      endSync_dropsBoard_ne k fun heq => hb (heq ▸ hc)
    have hport : ∃ noted, (endSync k b s).port k = { s.port k with work := some (.claiming fresh already noted) }
        ∧ ∀ c, maskHas noted c = true ↔ maskHas failed c = true ∨ c = b ∧ dropsBoard k b s = true := by
      cases hends : endsSync k b s with
      | false => exact ⟨failed, by rw [endSync_of_not hends, ← hwork], by simp [dropsBoard, hends]⟩
      | true =>
        cases hfresh : freshClaim k b s with
        | false =>
          refine ⟨failed, ?_, by simp [dropsBoard, hfresh]⟩
          rw [endSync_kept hends hfresh, State.setPart_port, State.setPort_port_self, hwork]
          rfl
        | true =>
          refine ⟨maskAdd failed b, ?_, fun c => by rw [maskHas_maskAdd_iff, dropsBoard, hends, hfresh]; simp⟩
          rw [endSync_dropped hends hfresh, State.setPart_port, State.setPort_port_self, hwork]
          rfl
    obtain ⟨noted, hport, hnoted⟩ := hport
    obtain ⟨listed, hlisted, hmask⟩ := forBoards_endSync_claiming bs (endSync k b s) noted hbs (by rw [hport])
    refine ⟨listed, by rw [forBoards, hlisted, hport], fun c => ?_⟩
    have hrest : c ∈ bs ∧ dropsBoard k c (endSync k b s) = true ↔ c ∈ bs ∧ dropsBoard k c s = true :=
      and_congr_right fun hc => by rw [hdrops hc]
    have hfirst : c = b ∧ dropsBoard k b s = true ↔ c = b ∧ dropsBoard k c s = true := and_congr_right fun hc => by rw [hc]
    rw [hmask, hnoted, hrest, hfirst, List.mem_cons, or_and_right, or_assoc]

/-- The TIME_RESET at the port once the SYNCs of a list of boards have ended: it lists each of the boards (R29, R149). -/
theorem forBoards_endSync_timeReset : ∀ (bs : List Board) (s : State) (failed : BoardMask),
    bs.Nodup → (s.port k).work = some (.timeReset failed) →
    ∃ listed, (forBoards (endSync k) bs s).port k = { s.port k with work := some (.timeReset listed) }
      ∧ ∀ c, maskHas listed c = true ↔ maskHas failed c = true ∨ c ∈ bs ∧ endsSync k c s = true
  | [], s, failed, _, hwork => ⟨failed, by rw [forBoards, ← hwork], by simp⟩
  | b :: bs, s, failed, hbs, hwork => by
    obtain ⟨hb, hbs⟩ := List.nodup_cons.1 hbs
    have hends' {c : Board} (hc : c ∈ bs) : endsSync k c (endSync k b s) = endsSync k c s :=
      endSync_endsSync_ne k fun heq => hb (heq ▸ hc)
    have hport : ∃ noted, (endSync k b s).port k = { s.port k with work := some (.timeReset noted) }
        ∧ ∀ c, maskHas noted c = true ↔ maskHas failed c = true ∨ c = b ∧ endsSync k b s = true := by
      cases hends : endsSync k b s with
      | false => exact ⟨failed, by rw [endSync_of_not hends, ← hwork], by simp⟩
      | true =>
        have hfresh : freshClaim k b s = false := by rw [freshClaim, hwork]
        refine ⟨maskAdd failed b, ?_, fun c => by rw [maskHas_maskAdd_iff]; simp⟩
        rw [endSync_kept hends hfresh, State.setPart_port, State.setPort_port_self, hwork]
        rfl
    obtain ⟨noted, hport, hnoted⟩ := hport
    obtain ⟨listed, hlisted, hmask⟩ := forBoards_endSync_timeReset bs (endSync k b s) noted hbs (by rw [hport])
    refine ⟨listed, by rw [forBoards, hlisted, hport], fun c => ?_⟩
    have hrest : c ∈ bs ∧ endsSync k c (endSync k b s) = true ↔ c ∈ bs ∧ endsSync k c s = true :=
      and_congr_right fun hc => by rw [hends' hc]
    have hfirst : c = b ∧ endsSync k b s = true ↔ c = b ∧ endsSync k c s = true := and_congr_right fun hc => by rw [hc]
    rw [hmask, hnoted, hrest, hfirst, List.mem_cons, or_and_right, or_assoc]

end
end Sys2Proof.Machine
end


section
/-! SUPPORT. A board fault taken by its owner (R96 to R100, R148, R149): the partition as it enters FAULTED, and the machine
once the links are muted; then the statement about it. -/

namespace Sys2Proof.Machine

/-! ## The fault by the state of the owner -/

section
variable {s : State} {k : Slot} {b : Board} {cause : FaultCause}

theorem boardFault_unowned (h : (s.board b).owner = none) : boardFault b cause s = failBoard b cause s := by
  have howner : ((failBoard b cause s).board b).owner = none := by rw [failBoard_eq]; simpa using h
  unfold boardFault
  dsimp only
  rw [howner]

variable (howner : (s.board b).owner = some k)
include howner

theorem failBoard_owner : ((failBoard b cause s).board b).owner = some k := by rw [failBoard_eq]; simpa using howner

/-- In FAULTED the sticky error is set, but not by a RECOVER's own exchange (R99; assumption 35). -/
theorem boardFault_faulted (h : (s.part k).state = .faulted) : boardFault b cause s =
    if isRecovering k s = true ∧ ((s.board b).link = .syncing ∨ (s.board b).link = .probing) then failBoard b cause s
    else (failBoard b cause s).setPart k { s.part k with sticky := (s.part k).sticky.addCause cause } := by
  have hstate : ((failBoard b cause s).part k).state = .faulted := h
  unfold boardFault
  dsimp only
  rw [failBoard_owner howner]
  dsimp only
  rw [hstate]
  refine if_congr ?_ rfl rfl
  rw [Bool.and_eq_true, Bool.or_eq_true, beq_iff_eq, beq_iff_eq]
  rfl

/-- In STOPPED a newly claimed board whose SYNC fails is dropped (R67). -/
theorem boardFault_claimed (h : (s.part k).state = .stopped) (hsync : (s.board b).link = .syncing)
    (hfresh : freshClaim k b s = true) : boardFault b cause s = dropClaimed k b cause (failBoard b cause s) := by
  have hstate : ((failBoard b cause s).part k).state = .stopped := h
  unfold boardFault
  dsimp only
  rw [failBoard_owner howner]
  dsimp only
  rw [hstate]
  exact if_pos ⟨hsync, hfresh⟩

omit howner in
/-- The machine as partition `k` enters FAULTED with its record `p` and its port `q`: the board failed, the work item void,
and the stop offered to the group (R93, R97, R99, R148). -/
def faultTaken (k : Slot) (b : Board) (cause : FaultCause) (p : Partition) (q : Port) (s : State) : State :=
  offerGroupStop k ((voidWork k ((failBoard b cause s).setPort k q)).setPart k p)

omit howner in
theorem State.setPort_port_eq (s : State) (k : Slot) : s.setPort k (s.port k) = s := by
  simp [State.setPort, State.port]

/-- The record of a partition that a fault takes out of a run (R97, R98). -/
def Partition.faultedInRun (b : Board) (cause : FaultCause) (p : Partition) : Partition :=
  let also := match p.stop with
    | some point => p.also.add point.primary.name
    | none => p.also
  Partition.offer (.stop p.firedFrontier p.vt (.fault b cause) also)
    { p with state := .faulted, sticky := p.sticky.addCause cause, pipe := [], also := also,
             stop := some ⟨p.firedFrontier, .fault b cause⟩ }

/-- The record of a partition that a fault takes out of STOPPED (R99). -/
def Partition.faultedInStopped (b : Board) (cause : FaultCause) (p : Partition) : Partition :=
  Partition.offer (.link b p.firedFrontier (.fault cause))
    { p with state := .faulted, sticky := p.sticky.addCause cause }

omit howner in
/-- The partition enters FAULTED with its record changed once more (R97, R99). -/
theorem enterFaulted_setPart (u : State) (p : Partition) : (enterFaulted k cause u).setPart k p = (voidWork k u).setPart k p :=
  State.setPart_setPart (voidWork k u) k _ p

omit howner in
theorem enterFaulted_part_self (u : State) : (enterFaulted k cause u).part k =
    { u.part k with state := .faulted, sticky := (u.part k).sticky.addCause cause } :=
  State.setPart_part_self u k _

/-- In a run state the pipe empties and FAULT becomes primary at the fired frontier (R97, R98, R126). -/
theorem boardFault_run (h : (s.part k).state.isRun = true) : boardFault b cause s =
    muteOnFault k (faultTaken k b cause ((s.part k).faultedInRun b cause) (s.port k) s) := by
  have hfault : boardFault b cause s = faultInRun k b cause (failBoard b cause s) := by
    have hstate : ((failBoard b cause s).part k).state = (s.part k).state := rfl
    unfold boardFault
    dsimp only
    rw [failBoard_owner howner]
    dsimp only
    rcases (PartState.isRun_iff _).1 h with h | h | h <;> rw [hstate, h]
  have hport : (failBoard b cause s).setPort k (s.port k) = failBoard b cause s :=
    State.setPort_port_eq (failBoard b cause s) k
  rw [hfault, faultInRun, faultTaken, hport]
  refine congrArg (fun u => muteOnFault k (offerGroupStop k u)) ?_
  rw [offerStop, Partition.stopRecord, enterFaulted_part_self, State.updPart_eq, State.setPart_part_self]
  dsimp only [Option.map_some]
  rw [offerRecord_eq, enterFaulted_part_self, State.setPart_part_self, enterFaulted_setPart]
  exact State.setPart_setPart (voidWork k (failBoard b cause s)) k _ _

/-- In STOPPED, outside a claim SYNC, a LINK record is offered (R99). -/
theorem boardFault_stopped (h : (s.part k).state = .stopped)
    (hidle : ¬ ((s.board b).link = .syncing ∧ freshClaim k b s = true)) : boardFault b cause s =
    muteOnFault k (faultTaken k b cause ((s.part k).faultedInStopped b cause)
      { s.port k with work := (s.port k).work.map (Work.noteResetFailed b) } s) := by
  have hfault : boardFault b cause s = faultInStopped k b cause (failBoard b cause s) := by
    have hstate : ((failBoard b cause s).part k).state = .stopped := h
    unfold boardFault
    dsimp only
    rw [failBoard_owner howner]
    dsimp only
    rw [hstate]
    exact if_neg hidle
  rw [hfault, faultInStopped, noteResetFailed_setPort, faultTaken]
  refine congrArg (fun u => muteOnFault k (offerGroupStop k u)) ?_
  rw [offerLink, offerRecord_eq, enterFaulted_part_self, State.setPort_part, enterFaulted_setPart]
  rfl

end

/-! ## The links muted -/

theorem muteOnFault_eq (k : Slot) (u : State) : muteOnFault k u = (forBoards (endSync k) allBoards u).mapLinks fun c l =>
    if (forBoards (endSync k) allBoards u).owns k c then { l.cleared with muted := true } else l := rfl

theorem allBoards_nodup : allBoards.Nodup := List.nodup_finRange 24

theorem mem_allBoards (c : Board) : c ∈ allBoards := List.mem_finRange c

section
variable {k : Slot} {u : State} (c : Board)

theorem muteOnFault_board : (muteOnFault k u).board c =
    if endsSync k c u = true then (u.board c).syncEnded (freshClaim k c u) else u.board c := by
  rw [muteOnFault_eq, State.mapLinks_board, (forBoards_endSync_boardLink c allBoards u allBoards_nodup).1]
  exact if_congr (and_iff_right (mem_allBoards c)) rfl rfl

/-- The link of a board that stays owned is muted with its reset values (R149). -/
theorem muteOnFault_link_owned (h : ((muteOnFault k u).board c).owner = some k) :
    (muteOnFault k u).link c = { (u.link c).cleared with muted := true } := by
  have howns : (forBoards (endSync k) allBoards u).owns k c = true :=
    (State.owns_iff _ k c).2 (by rwa [muteOnFault_eq, State.mapLinks_board] at h)
  rw [muteOnFault_board] at h
  rw [muteOnFault_eq, State.mapLinks_link, if_pos howns, (forBoards_endSync_boardLink c allBoards u allBoards_nodup).2]
  split
  · rename_i hends
    rw [if_pos hends.2] at h
    cases hfresh : freshClaim k c u with
    | true => rw [hfresh] at h; exact nomatch h
    | false => rfl
  · rfl

/-- The link of any other board is not muted. -/
theorem muteOnFault_link_unowned (h : ((muteOnFault k u).board c).owner ≠ some k) : (muteOnFault k u).link c =
    if endsSync k c u = true then (u.link c).syncEnded (freshClaim k c u) else u.link c := by
  have howns : ¬ (forBoards (endSync k) allBoards u).owns k c = true := fun howns =>
    h (by rw [muteOnFault_eq, State.mapLinks_board]; exact (State.owns_iff _ k c).1 howns)
  rw [muteOnFault_eq, State.mapLinks_link, if_neg howns, (forBoards_endSync_boardLink c allBoards u allBoards_nodup).2]
  exact if_congr (and_iff_right (mem_allBoards c)) rfl rfl

theorem muteOnFault_part (j : Slot) : (muteOnFault k u).part j = (forBoards (endSync k) allBoards u).part j := by
  rw [muteOnFault_eq, State.mapLinks_part]

theorem muteOnFault_port (j : Slot) : (muteOnFault k u).port j = (forBoards (endSync k) allBoards u).port j := by
  rw [muteOnFault_eq, State.mapLinks_port]

/-- The muting leaves the other slots, the engine, the pool and the memory. -/
theorem muteOnFault_frame : (∀ j, j ≠ k → (muteOnFault k u).part j = u.part j ∧ (muteOnFault k u).port j = u.port j)
    ∧ (muteOnFault k u).engine = u.engine ∧ (muteOnFault k u).pool = u.pool ∧ (muteOnFault k u).loader = u.loader
    ∧ (muteOnFault k u).store = u.store := by
  obtain ⟨hslots, hengine, hpool, hloader, hstore⟩ := forBoards_endSync_frame (k := k) allBoards u
  rw [muteOnFault_eq]
  refine ⟨fun j hj => ?_, (State.mapLinks_engine _ _).trans hengine, (State.mapLinks_pool _ _).trans hpool,
    (State.mapLinks_loader _ _).trans hloader, (State.mapLinks_store _ _).trans hstore⟩
  rw [State.mapLinks_part, State.mapLinks_port]
  exact hslots j hj

/-- With no SYNC in progress the muting leaves the partition and its port. -/
theorem muteOnFault_quiet (h : ∀ c, endsSync k c u = false) :
    (muteOnFault k u).part k = u.part k ∧ (muteOnFault k u).port k = u.port k := by
  rw [muteOnFault_part, muteOnFault_port, forBoards_endSync_none allBoards u fun c _ => h c]
  exact ⟨rfl, rfl⟩

/-- The muting keeps the state FAULTED. -/
theorem muteOnFault_state (h : (u.part k).state = .faulted) : ((muteOnFault k u).part k).state = .faulted := by
  rw [muteOnFault_part]
  exact forBoards_keeps (P := fun t => (t.part k).state = .faulted)
    (fun c t ht => (endSync_faulted (b := c) ht).2) allBoards u h

end

/-! ## The fault taken -/

section
variable {s : State} {k : Slot} {b : Board} {cause : FaultCause} {p : Partition} {q : Port}

theorem faultTaken_onlyRun :
    OnlyRun ((failBoard b cause s).setPort k q) (faultTaken k b cause p q s) :=
  (onlyRun_voidWork k _).trans ((onlyRun_setPart k p _).trans (onlyRun_offerGroupStop k _))

theorem faultTaken_part_self : (faultTaken k b cause p q s).part k = p := by
  rw [faultTaken, offerGroupStop_part_self, State.setPart_part_self]

theorem faultTaken_port (j : Slot) : (faultTaken k b cause p q s).port j = if j = k then q else s.port j := by
  obtain ⟨-, -, hports, -⟩ := faultTaken_onlyRun (s := s) (k := k) (b := b) (cause := cause) (p := p) (q := q)
  rw [State.port, hports, ← State.port]
  split
  · rename_i hj
    rw [hj, State.setPort_port_self]
  · rename_i hj
    rw [State.setPort_port_ne _ _ _ _ hj]
    rfl

/-- The other partitions are offered the group stop (R93). -/
theorem faultTaken_part_ne (hgroup : p.group = (s.part k).group) {j : Slot} (hj : j ≠ k) :
    (faultTaken k b cause p q s).part j = { s.part j with groupStops :=
      if (s.part k).group ≠ none ∧ (s.part j).group = (s.part k).group then (s.part j).groupStops ++ [k]
      else (s.part j).groupStops } :=
  ((groupOffered_offerGroupStop k _).of_setPart (s := voidWork k ((failBoard b cause s).setPort k q)) hgroup).2.2 j hj

theorem faultTaken_board (c : Board) : (faultTaken k b cause p q s).board c =
    if c = b then { s.board b with link := .failed, cause := some cause } else s.board c := by
  obtain ⟨hboards, -⟩ := faultTaken_onlyRun (s := s) (k := k) (b := b) (cause := cause) (p := p) (q := q)
  rw [State.board, hboards, ← State.board, State.setPort_board, failBoard_eq, State.setLink_board]
  split
  · rename_i hc
    rw [hc, State.setBoard_board_self]
  · rename_i hc
    rw [State.setBoard_board_ne _ _ _ _ hc]

theorem faultTaken_link (c : Board) : (faultTaken k b cause p q s).link c =
    if c = b then (s.link b).cleared else s.link c := by
  have hlinks : (faultTaken k b cause p q s).links = (failBoard b cause s).links :=
    (groupOffered_offerGroupStop k _).2.1
  rw [State.link, hlinks, ← State.link, failBoard_eq]
  split
  · rename_i hc
    rw [hc, State.setLink_link_self]
  · rename_i hc
    rw [State.setLink_link_ne _ _ _ _ hc, State.setBoard_link]

theorem faultTaken_frame : (faultTaken k b cause p q s).engine = (voidWork k s).engine
    ∧ (faultTaken k b cause p q s).pool = s.pool ∧ (faultTaken k b cause p q s).loader = s.loader
    ∧ (faultTaken k b cause p q s).store = s.store := by
  obtain ⟨-, hpool, -, hloader, hstore, -⟩ :=
    faultTaken_onlyRun (s := s) (k := k) (b := b) (cause := cause) (p := p) (q := q)
  exact ⟨offerGroupStop_engine k _, hpool, hloader, hstore⟩

/-- The SYNCs that the muting ends are those of the other boards of the partition. -/
theorem faultTaken_endsSync (c : Board) : endsSync k c (faultTaken k b cause p q s) =
    decide (c ≠ b ∧ (s.board c).owner = some k ∧ (s.board c).link = .syncing) := by
  rw [Bool.eq_iff_iff, endsSync, Bool.and_eq_true, State.owns_iff, beq_iff_eq, faultTaken_board, decide_eq_true_iff]
  by_cases hc : c = b
  · simp [hc]
  · simp [hc]

end

end Sys2Proof.Machine
end


section
/-! SUPPORT. The machine once a fault has been taken and the links are muted (R29, R67, R97 to R100, R149). -/

namespace Sys2Proof.Machine

/-! ## What every entry to FAULTED leaves -/

section
variable {s : State} {k : Slot} {b : Board} {cause : FaultCause} {p : Partition} {q : Port}

theorem faultMuted_board (c : Board) : (muteOnFault k (faultTaken k b cause p q s)).board c =
    if c = b then { s.board b with link := .failed, cause := some cause }
    else if (s.board c).owner = some k ∧ (s.board c).link = .syncing then
      (s.board c).syncEnded (freshClaim k c (faultTaken k b cause p q s))
    else s.board c := by
  rw [muteOnFault_board, faultTaken_endsSync, faultTaken_board]
  by_cases hc : c = b
  · simp [hc]
  · simp [hc]

theorem faultMuted_link_owned {c : Board} (h : (muteOnFault k (faultTaken k b cause p q s)).owns k c = true) :
    (muteOnFault k (faultTaken k b cause p q s)).link c = { (s.link c).cleared with muted := true } := by
  rw [muteOnFault_link_owned c ((State.owns_iff _ k c).1 h), faultTaken_link]
  split
  · rename_i hc
    rw [hc]
    rfl
  · rfl

theorem faultMuted_unowned (howner : (s.board b).owner = some k) {c : Board} (h : (s.board c).owner ≠ some k) :
    (muteOnFault k (faultTaken k b cause p q s)).board c = s.board c
      ∧ (muteOnFault k (faultTaken k b cause p q s)).link c = s.link c := by
  have hne : c ≠ b := fun hc => h (hc ▸ howner)
  have hboard : (muteOnFault k (faultTaken k b cause p q s)).board c = s.board c := by
    rw [faultMuted_board, if_neg hne, if_neg fun hends => h hends.1]
  refine ⟨hboard, ?_⟩
  rw [muteOnFault_link_unowned c (by rwa [hboard]), faultTaken_endsSync, faultTaken_link, if_neg hne]
  exact if_neg fun hends => h (of_decide_eq_true hends).2.1

theorem faultMuted_slot (hgroup : p.group = (s.part k).group) {j : Slot} (hj : j ≠ k) :
    (muteOnFault k (faultTaken k b cause p q s)).port j = s.port j
      ∧ (muteOnFault k (faultTaken k b cause p q s)).part j = { s.part j with groupStops :=
          if (s.part k).group ≠ none ∧ (s.part j).group = (s.part k).group then (s.part j).groupStops ++ [k]
          else (s.part j).groupStops } := by
  obtain ⟨hpart, hport⟩ := (muteOnFault_frame (k := k) (u := faultTaken k b cause p q s)).1 j hj
  rw [hpart, hport, faultTaken_port, if_neg hj, faultTaken_part_ne hgroup hj]
  exact ⟨rfl, rfl⟩

/-- The work item void, and the pool and the memory as they were (R97, R99). -/
theorem faultMuted_frame :
    (muteOnFault k (faultTaken k b cause p q s)).engine = (voidWork k s).engine
      ∧ (muteOnFault k (faultTaken k b cause p q s)).pool = s.pool
      ∧ (muteOnFault k (faultTaken k b cause p q s)).loader = s.loader
      ∧ (muteOnFault k (faultTaken k b cause p q s)).store = s.store := by
  obtain ⟨-, hengine, hpool, hloader, hstore⟩ := muteOnFault_frame (k := k) (u := faultTaken k b cause p q s)
  obtain ⟨hengine', hpool', hloader', hstore'⟩ :=
    faultTaken_frame (s := s) (k := k) (b := b) (cause := cause) (p := p) (q := q)
  exact ⟨hengine.trans hengine', hpool.trans hpool', hloader.trans hloader', hstore.trans hstore'⟩

/-- What every fault of an owned board leaves as its partition enters FAULTED (R93, R97, R99, R148, R149). -/
structure FaultEntered (s : State) (k : Slot) (b : Board) (cause : FaultCause) (t : State) : Prop where
  state  : (t.part k).state = .faulted
  board  : t.board b = { s.board b with link := .failed, cause := some cause }
  engine : ∀ w, s.engine.item = some w → t.engine.item = some (if w.slot = k then { w with void := true } else w)
  muted  : ∀ c, t.owns k c = true → t.link c = { (s.link c).cleared with muted := true }
  beside : ∀ c, (s.board c).owner ≠ some k → t.board c = s.board c ∧ t.link c = s.link c
  slots  : ∀ j, j ≠ k → t.port j = s.port j ∧ t.part j = { s.part j with groupStops :=
    if (s.part k).group ≠ none ∧ (s.part j).group = (s.part k).group then (s.part j).groupStops ++ [k]
    else (s.part j).groupStops }
  rest   : t.pool = s.pool ∧ t.loader = s.loader ∧ t.store = s.store
  /-- With no other board SYNCING the boards stay. -/
  others : (∀ c, c ≠ b → (s.board c).owner = some k → (s.board c).link ≠ .syncing) → ∀ c, c ≠ b → t.board c = s.board c

theorem faultMuted_entered (howner : (s.board b).owner = some k) (hstate : p.state = .faulted)
    (hgroup : p.group = (s.part k).group) : FaultEntered s k b cause (muteOnFault k (faultTaken k b cause p q s)) := by
  obtain ⟨hengine, hrest⟩ := faultMuted_frame (s := s) (k := k) (b := b) (cause := cause) (p := p) (q := q)
  refine ⟨muteOnFault_state ((congrArg Partition.state faultTaken_part_self).trans hstate),
    by rw [faultMuted_board, if_pos rfl], fun w hw => ?_,
    fun c => faultMuted_link_owned, fun c => faultMuted_unowned howner, fun j => faultMuted_slot hgroup, hrest,
    fun hothers c hc => ?_⟩
  · rw [hengine]
    exact voidWork_item hw
  · rw [faultMuted_board, if_neg hc, if_neg fun hends => hothers c hc hends.1 hends.2]

/-- With no other board SYNCING the partition and the port stay as the fault left them. -/
theorem faultMuted_quiet (hothers : ∀ c, c ≠ b → (s.board c).owner = some k → (s.board c).link ≠ .syncing) :
    (muteOnFault k (faultTaken k b cause p q s)).part k = p
      ∧ (muteOnFault k (faultTaken k b cause p q s)).port k = q := by
  obtain ⟨hpart, hport⟩ := muteOnFault_quiet (k := k) (u := faultTaken k b cause p q s) fun c => by
    rw [faultTaken_endsSync]
    exact decide_eq_false fun ⟨hne, hown, hlink⟩ => hothers c hne hown hlink
  rw [hpart, hport, faultTaken_part_self, faultTaken_port, if_pos rfl]
  exact ⟨rfl, rfl⟩

end

theorem Partition.offer_group (r : EventRecord) (p : Partition) : (p.offer r).group = p.group := by
  unfold Partition.offer
  split <;> rfl

section
variable {s : State} {k : Slot} {b : Board} {cause : FaultCause} (howner : (s.board b).owner = some k)
include howner

theorem boardFault_entered (h : (s.part k).state.isRun = true ∨ (s.part k).state = .stopped
      ∧ ¬ ((s.board b).link = .syncing ∧ freshClaim k b s = true)) :
    FaultEntered s k b cause (boardFault b cause s) := by
  rcases h with hrun | ⟨hstopped, hidle⟩
  · rw [boardFault_run howner hrun]
    exact faultMuted_entered howner (Partition.offer_state _ _) (Partition.offer_group _ _)
  · rw [boardFault_stopped howner hstopped hidle]
    exact faultMuted_entered howner (Partition.offer_state _ _) (Partition.offer_group _ _)

end

/-! ## A claim in progress -/

section
variable {s : State} {k : Slot} {b : Board} {cause : FaultCause} {fresh already failed : BoardMask}

/-- The port as a fault in STOPPED leaves it before the muting (R29, R99). -/
def Port.faultNoted (b : Board) (q : Port) : Port := { q with work := q.work.map (Work.noteResetFailed b) }

/-- The boards whose SYNC the muting ends after a fault of board `b` (R149). -/
def syncEnds (k : Slot) (b : Board) (s : State) (c : Board) : Bool :=
  decide (c ≠ b ∧ (s.board c).owner = some k ∧ (s.board c).link = .syncing)

/-- The machine once a fault in STOPPED has been taken (R99, R149). -/
abbrev faultedStopped (k : Slot) (b : Board) (cause : FaultCause) (s : State) : State :=
  faultTaken k b cause ((s.part k).faultedInStopped b cause) ((s.port k).faultNoted b) s

theorem faultedStopped_part :
    (faultedStopped k b cause s).part k = (s.part k).faultedInStopped b cause := faultTaken_part_self

theorem faultedStopped_fired : ((faultedStopped k b cause s).part k).firedFrontier = (s.part k).firedFrontier := by
  rw [faultedStopped_part, Partition.faultedInStopped, Partition.offer_firedFrontier]

/-- The sticky error of a SYNC ended goes with the fault's own (R100). -/
theorem faultedInStopped_timedOut (p : Partition) (ended : Prop) [Decidable ended] :
    (if ended then (p.faultedInStopped b cause).timedOut else p.faultedInStopped b cause)
      = Partition.offer (.link b p.firedFrontier (.fault cause)) { p with
          state := .faulted, sticky := if ended then { p.sticky.addCause cause with linkFault := true }
            else p.sticky.addCause cause } := by
  split
  · exact (Partition.offer_timedOut _).symm
  · rfl

theorem exists_syncEnds : (∃ c ∈ allBoards, endsSync k c (faultedStopped k b cause s) = true)
    ↔ ∃ c, syncEnds k b s c = true := by
  refine exists_congr fun c => ?_
  rw [faultTaken_endsSync]
  exact and_iff_right (mem_allBoards c)

section
variable (hwork : (s.port k).work = some (.claiming fresh already failed))
include hwork

theorem faultedStopped_freshClaim (c : Board) : freshClaim k c (faultedStopped k b cause s) = maskHas fresh c := by
  rw [freshClaim, faultTaken_port, if_pos rfl, Port.faultNoted, hwork]
  rfl

theorem faultedStopped_dropsBoard (c : Board) :
    dropsBoard k c (faultedStopped k b cause s) = (syncEnds k b s c && maskHas fresh c) := by
  rw [dropsBoard, faultTaken_endsSync, faultedStopped_freshClaim hwork]
  rfl

theorem faultedStopped_dropped : (allBoards.filter fun c => dropsBoard k c (faultedStopped k b cause s))
    = (List.finRange 24).filter fun c => syncEnds k b s c && maskHas fresh c :=
  List.filter_congr fun c _ => faultedStopped_dropsBoard hwork c

omit hwork in
/-- The end of a SYNC leaves the settings. -/
theorem endSync_settings (c : Board) (u : State) : ((endSync k c u).part k).settings = (u.part k).settings := by
  cases hends : endsSync k c u with
  | false => rw [endSync_of_not hends]
  | true =>
    cases hfresh : freshClaim k c u with
    | false =>
      rw [endSync_kept hends hfresh, State.setPart_part_self]
      rfl
    | true =>
      rw [endSync_dropped hends hfresh, State.setPart_part_self, Partition.offer_settings]
      rfl

/-- A board stays owned unless it is dropped, and keeps its depth (R67). -/
theorem faultedStopped_owner (c : Board) :
    (forBoards (endSync k) allBoards (faultedStopped k b cause s)).owns k c
        = (s.owns k c && !(syncEnds k b s c && maskHas fresh c))
      ∧ ((forBoards (endSync k) allBoards (faultedStopped k b cause s)).board c).depth = (s.board c).depth := by
  have hboard : (forBoards (endSync k) allBoards (faultedStopped k b cause s)).board c
      = (muteOnFault k (faultedStopped k b cause s)).board c := by rw [muteOnFault_eq, State.mapLinks_board]
  rw [State.owns, hboard, faultMuted_board, faultedStopped_freshClaim hwork, State.owns, syncEnds]
  by_cases hc : c = b
  · simp [hc]
  · by_cases hends : (s.board c).owner = some k ∧ (s.board c).link = .syncing
    · cases hfresh : maskHas fresh c <;> simp [hc, hends, BoardRecord.syncEnded]
    · simp [hc, hends]

/-- Weff of the boards that stay owned (R55, R67). -/
theorem faultedStopped_weffFor : (forBoards (endSync k) allBoards (faultedStopped k b cause s)).weffFor k =
    weffOf (s.part k).settings.window (((s.ownedBoards k).filter fun c => !(syncEnds k b s c && maskHas fresh c)).map
      fun c => (s.board c).depth) := by
  have hsettings : ((forBoards (endSync k) allBoards (faultedStopped k b cause s)).part k).settings
      = (s.part k).settings := by
    refine forBoards_keeps (P := fun t => (t.part k).settings = (s.part k).settings)
      (fun c t ht => (endSync_settings c t).trans ht) allBoards _ ?_
    rw [faultedStopped_part, Partition.faultedInStopped, Partition.offer_settings]
  have howned : (forBoards (endSync k) allBoards (faultedStopped k b cause s)).ownedBoards k
      = (s.ownedBoards k).filter fun c => !(syncEnds k b s c && maskHas fresh c) := by
    rw [State.ownedBoards, State.ownedBoards, List.filter_filter]
    refine List.filter_congr fun c _ => ?_
    rw [(faultedStopped_owner hwork c).1, Bool.and_comm]
  rw [State.weffFor, hsettings, howned]
  exact congrArg (weffOf _) (List.map_congr_left fun c _ => (faultedStopped_owner hwork c).2)

/-- The partition once the SYNCs of a claim have ended: the boards dropped reported in order, and Weff recomputed when there
are any (R67, R100; assumptions 39, 44). -/
theorem faultedStopped_claim_part :
    let dropped := (List.finRange 24).filter fun c => syncEnds k b s c && maskHas fresh c
    let left := (s.ownedBoards k).filter fun c => !(syncEnds k b s c && maskHas fresh c)
    let weff := if dropped = [] then (s.part k).weff
      else weffOf (s.part k).settings.window (left.map fun c => (s.board c).depth)
    let heff := if dropped = [] then (s.part k).heff else max (s.part k).settings.horizon weff
    (muteOnFault k (faultedStopped k b cause s)).part k =
      (Partition.offer (.link b (s.part k).firedFrontier (.fault cause)) { s.part k with
        state := .faulted, weff := weff, heff := heff,
        sticky := if ∃ c, syncEnds k b s c = true then { (s.part k).sticky.addCause cause with linkFault := true }
          else (s.part k).sticky.addCause cause }).offerDropped (s.part k).firedFrontier dropped := by
  intro dropped left weff heff
  obtain ⟨hnone, hsome⟩ := forBoards_endSync_part (k := k) allBoards (faultedStopped k b cause s) allBoards_nodup
  rw [faultedStopped_dropped hwork, faultedStopped_fired, faultedStopped_part] at hnone hsome
  simp only [exists_syncEnds] at hnone hsome
  rw [faultedInStopped_timedOut] at hnone hsome
  rw [muteOnFault_part]
  by_cases hdropped : dropped = []
  · have hweff : weff = (s.part k).weff := if_pos hdropped
    have hheff : heff = (s.part k).heff := if_pos hdropped
    rw [hnone hdropped, hweff, hheff]
  · obtain ⟨w, hw⟩ := hsome hdropped
    obtain ⟨c, hc⟩ := List.exists_mem_of_ne_nil dropped hdropped
    have hdrop : dropsBoard k c (faultedStopped k b cause s) = true := by
      rw [faultedStopped_dropsBoard hwork]
      exact (List.mem_filter.1 hc).2
    have hweff := forBoards_endSync_weff allBoards (faultedStopped k b cause s) allBoards_nodup
      ⟨c, mem_allBoards c, hdrop⟩
    rw [hw, faultedStopped_weffFor hwork] at hweff
    have hw' : w = weff := hweff.trans (if_neg hdropped).symm
    have hheff : heff = max (s.part k).settings.horizon weff := if_neg hdropped
    rw [hw, hw', ← Partition.offerDropped_windowed, ← Partition.offer_windowed, hheff]
    rfl

/-- The claim notes each of its boards whose SYNC the muting ends (R67; assumption 44). -/
theorem faultedStopped_claim_port :
    ∃ listed, (muteOnFault k (faultedStopped k b cause s)).port k
        = { s.port k with work := some (.claiming fresh already listed) }
      ∧ ∀ c, maskHas listed c = true ↔ maskHas failed c = true ∨ (syncEnds k b s c && maskHas fresh c) = true := by
  have hport : (faultedStopped k b cause s).port k = { s.port k with work := some (.claiming fresh already failed) } := by
    rw [faultTaken_port, if_pos rfl, Port.faultNoted, hwork]
    rfl
  obtain ⟨listed, hlisted, hmask⟩ := forBoards_endSync_claiming (k := k) allBoards (faultedStopped k b cause s) failed
    allBoards_nodup (by rw [hport])
  refine ⟨listed, by rw [muteOnFault_port, hlisted, hport], fun c => ?_⟩
  rw [hmask, and_iff_right (mem_allBoards c), faultedStopped_dropsBoard hwork]

end

/-! ## A TIME_RESET in progress -/

section
variable (hwork : (s.port k).work = some (.timeReset failed))
include hwork

theorem faultedStopped_notFresh (c : Board) : freshClaim k c (faultedStopped k b cause s) = false := by
  rw [freshClaim, faultTaken_port, if_pos rfl, Port.faultNoted, hwork]
  rfl

theorem faultedStopped_reset_part : (muteOnFault k (faultedStopped k b cause s)).part k =
    Partition.offer (.link b (s.part k).firedFrontier (.fault cause)) { s.part k with
      state := .faulted, sticky := if ∃ c, syncEnds k b s c = true then
        { (s.part k).sticky.addCause cause with linkFault := true } else (s.part k).sticky.addCause cause } := by
  have hdropped : (allBoards.filter fun c => dropsBoard k c (faultedStopped k b cause s)) = [] :=
    List.filter_eq_nil_iff.2 fun c _ => by simp [dropsBoard, faultedStopped_notFresh hwork]
  have hpart := (forBoards_endSync_part (k := k) allBoards (faultedStopped k b cause s) allBoards_nodup).1 hdropped
  rw [hdropped, faultedStopped_part] at hpart
  simp only [exists_syncEnds] at hpart
  rw [muteOnFault_part, hpart, faultedInStopped_timedOut]
  rfl

theorem faultedStopped_reset_port :
    ∃ listed, (muteOnFault k (faultedStopped k b cause s)).port k = { s.port k with work := some (.timeReset listed) }
      ∧ ∀ c, maskHas listed c = true ↔ maskHas failed c = true ∨ c = b ∨ syncEnds k b s c = true := by
  have hport : (faultedStopped k b cause s).port k
      = { s.port k with work := some (.timeReset (maskAdd failed b)) } := by
    rw [faultTaken_port, if_pos rfl, Port.faultNoted, hwork]
    rfl
  obtain ⟨listed, hlisted, hmask⟩ := forBoards_endSync_timeReset (k := k) allBoards (faultedStopped k b cause s) _
    allBoards_nodup (by rw [hport])
  refine ⟨listed, by rw [muteOnFault_port, hlisted, hport], fun c => ?_⟩
  rw [hmask, and_iff_right (mem_allBoards c), faultTaken_endsSync, maskHas_maskAdd_iff, or_assoc]
  rfl

end
end
end Sys2Proof.Machine
end


section
/-! A board fault by its owner's state, clause by clause, and the statement about it (R96 to R100, R148, R149). -/

namespace Sys2Proof.Machine

section
variable {s : State} {k : Slot} {b : Board} {cause : FaultCause}

/-- The sticky error of each cause (R100). -/
theorem StickyErrors.addCause_eq (e : StickyErrors) : e.addCause cause =
    if cause = .sequence then { e with sequence := true } else { e with linkFault := true } := by
  cases cause <;> rfl

/-- The work at a port in STOPPED with a board of a TIME_RESET noted (R29). -/
theorem noteResetFailed_map (work : Option Work) : work.map (Work.noteResetFailed b) = match work with
    | some (.timeReset failed) => some (.timeReset (failed ||| BitVec.twoPow 24 b.val))
    | work => work := by
  rcases work with _ | _ | _ <;> rfl

/-- Weff without a board that has lost its owner (R55, R67). -/
theorem State.weffFor_setBoard_unowned {r : BoardRecord} (h : r.owner = none) : (s.setBoard b r).weffFor k =
    weffOf (s.part k).settings.window (((s.ownedBoards k).filter (· ≠ b)).map fun b => (s.board b).depth) := by
  have hne {c : Board} (hc : c ≠ b) : (s.setBoard b r).board c = s.board c := State.setBoard_board_ne _ _ _ _ hc
  have howned : (s.setBoard b r).ownedBoards k = (s.ownedBoards k).filter (· ≠ b) := by
    rw [State.ownedBoards, State.ownedBoards, List.filter_filter]
    refine List.filter_congr fun c _ => ?_
    by_cases hc : c = b
    · rw [hc, State.owns, State.setBoard_board_self, h]
      simp
    · simp [State.owns, hne hc, hc]
  rw [State.weffFor, howned]
  refine congrArg (weffOf _) (List.map_congr_left fun c hc => ?_)
  rw [hne (of_decide_eq_true (List.mem_filter.1 hc).2)]

/-- A newly claimed board whose SYNC fails is dropped (R67). -/
theorem boardFault_dropped {fresh already failed : BoardMask} (howner : (s.board b).owner = some k)
    (hstopped : (s.part k).state = .stopped) (hsync : (s.board b).link = .syncing)
    (hwork : (s.port k).work = some (.claiming fresh already failed)) (hfresh : maskHas fresh b = true) :
    let weff := weffOf (s.part k).settings.window (((s.ownedBoards k).filter (· ≠ b)).map fun b => (s.board b).depth)
    boardFault b cause s = (((s.setBoard b { s.board b with link := .failed, cause := some cause, owner := none }).setLink b
        { (s.link b).cleared with strobe := false }).setPort k
        { s.port k with work := some (.claiming fresh already (maskAdd failed b)) }).setPart k
      (Partition.offer (.link b (s.part k).firedFrontier (.fault cause)) ((s.part k).windowed weff)) := by
  intro weff
  have hclaim : freshClaim k b s = true := by rw [freshClaim, hwork]; exact hfresh
  have hport : (s.port k).work.map (Work.noteClaimFailed b) = some (.claiming fresh already (maskAdd failed b)) := by
    rw [hwork]
    rfl
  have hboards : (failBoard b cause s).setBoard b { (failBoard b cause s).board b with owner := none }
      = (s.setBoard b { s.board b with link := .failed, cause := some cause, owner := none }).setLink b
        (s.link b).cleared := by
    rw [failBoard_eq, State.setLink_board, State.setBoard_board_self]
    exact congrArg (fun u : State => u.setLink b (s.link b).cleared) (State.setBoard_setBoard s b _ _)
  have hlink : (failBoard b cause s).link b = (s.link b).cleared := by rw [failBoard_eq, State.setLink_link_self]
  have hweff : ((failBoard b cause s).setBoard b { (failBoard b cause s).board b with owner := none }).weffFor k = weff := by
    rw [hboards]
    exact State.weffFor_setBoard_unowned (s := s) (b := b)
      (r := { s.board b with link := .failed, cause := some cause, owner := none }) rfl
  rw [boardFault_claimed howner hstopped hsync hclaim, dropClaimed_eq, hweff, hboards, hlink, State.setLink_setLink]
  rw [show (failBoard b cause s).port k = s.port k from rfl, show (failBoard b cause s).part k = s.part k from rfl, hport]


/-! ## A fault in STOPPED by the work in progress -/

section
variable (howner : (s.board b).owner = some k) (hstopped : (s.part k).state = .stopped)
  (hidle : ¬ ((s.board b).link = .syncing ∧ freshClaim k b s = true))
include howner hstopped hidle

theorem boardFault_eq_faultedStopped : boardFault b cause s = muteOnFault k (faultedStopped k b cause s) :=
  boardFault_stopped howner hstopped hidle

/-- The boards of a claim: each whose SYNC the muting ends is failed, and dropped when it is newly claimed (R67, R149). -/
theorem boardFault_claim_boards {fresh already failed : BoardMask}
    (hwork : (s.port k).work = some (.claiming fresh already failed)) :
    (∀ c, c ≠ b → (boardFault b cause s).board c = if syncEnds k b s c = true then { s.board c with
        link := .failed, cause := some .timeout, owner := if maskHas fresh c = true then none else some k }
      else s.board c)
    ∧ ∀ c, syncEnds k b s c = true → maskHas fresh c = true →
      (boardFault b cause s).link c = { (s.link c).cleared with strobe := false } := by
  have hboard (c : Board) (hc : c ≠ b) : (boardFault b cause s).board c = if syncEnds k b s c = true then { s.board c with
      link := .failed, cause := some .timeout, owner := if maskHas fresh c = true then none else some k } else s.board c := by
    rw [boardFault_eq_faultedStopped howner hstopped hidle, faultMuted_board, faultedStopped_freshClaim hwork, if_neg hc]
    by_cases hends : (s.board c).owner = some k ∧ (s.board c).link = .syncing
    · have hsync : syncEnds k b s c = true := decide_eq_true ⟨hc, hends⟩
      rw [if_pos hends, if_pos hsync, BoardRecord.syncEnded, hends.1]
    · rw [if_neg hends, if_neg fun h => hends (of_decide_eq_true h).2]
  refine ⟨hboard, fun c hends hfresh => ?_⟩
  have hc : c ≠ b := (of_decide_eq_true hends).1
  have hunowned : ((boardFault b cause s).board c).owner ≠ some k := by
    rw [hboard c hc, if_pos hends, if_pos hfresh]
    exact nofun
  rw [boardFault_eq_faultedStopped howner hstopped hidle] at hunowned ⊢
  rw [muteOnFault_link_unowned c hunowned, faultTaken_endsSync, faultedStopped_freshClaim hwork, hfresh, faultTaken_link,
    if_neg hc]
  exact if_pos hends

/-- The boards of a TIME_RESET: each whose SYNC the muting ends is failed (R149). -/
theorem boardFault_reset_board {failed : BoardMask} (hwork : (s.port k).work = some (.timeReset failed)) {c : Board}
    (hc : c ≠ b) (hown : (s.board c).owner = some k) : (boardFault b cause s).board c =
      if (s.board c).link = .syncing then { s.board c with link := .failed, cause := some .timeout } else s.board c := by
  rw [boardFault_eq_faultedStopped howner hstopped hidle, faultMuted_board, faultedStopped_notFresh hwork, if_neg hc]
  exact if_congr (and_iff_right hown) rfl rfl

/-- A TIME_RESET lists the board and every other whose SYNC ends (R29, R149). -/
theorem boardFault_reset_port {failed : BoardMask} (hwork : (s.port k).work = some (.timeReset failed)) :
    ∃ listed, (boardFault b cause s).port k = { s.port k with work := some (.timeReset listed) }
      ∧ ∀ c, maskHas listed c = true ↔ maskHas failed c = true ∨ c = b
        ∨ ((s.board c).owner = some k ∧ (s.board c).link = .syncing) := by
  rw [boardFault_eq_faultedStopped howner hstopped hidle]
  obtain ⟨listed, hport, hmask⟩ := faultedStopped_reset_port (b := b) (cause := cause) hwork
  refine ⟨listed, hport, fun c => (hmask c).trans (or_congr_right ?_)⟩
  rw [syncEnds, decide_eq_true_iff]
  by_cases hc : c = b <;> simp [hc]

end
end

/-! ## The statement -/

/-- Settles O43: each fault is `faultTaken` with the owner's record for its state, and then `muteOnFault`. -/
theorem boardFaultTakenByOwner : Obligations.BoardFaultTakenByOwner := by
  intro s b cause t record reset sticky failedOnly
  have hsticky (e : StickyErrors) : sticky e = e.addCause cause := (StickyErrors.addCause_eq e).symm
  have hfailed : failedOnly = failBoard b cause s := (failBoard_eq s b cause).symm
  refine ⟨fun hunowned => (boardFault_unowned hunowned).trans hfailed.symm, ?_, ?_, ?_⟩
  · intro k howner hstate exchange
    have hfault := boardFault_faulted (cause := cause) howner hstate
    rw [hfailed, hsticky]
    exact ⟨fun h => hfault.trans (if_pos h), fun h => hfault.trans (if_neg h)⟩
  · intro k fresh already failed howner hstate hsync hwork hfresh
    exact boardFault_dropped howner hstate hsync hwork hfresh
  intro k howner run idle others
  have hentered (h : run ∨ idle) : FaultEntered s k b cause t := boardFault_entered howner h
  refine ⟨fun h => ?_, fun h => (hentered h).others, ?_, fun hidle hothers => ?_, ?_, fun failed hidle hwork => ?_⟩
  · obtain ⟨hstate, hboard, hengine, hmuted, hbeside, hslots, hrest, -⟩ := hentered h
    exact ⟨hstate, hboard, hengine, hmuted, hbeside, hslots, hrest⟩
  · intro hrun hothers also
    obtain ⟨hpart, hport⟩ := faultMuted_quiet (cause := cause) (p := (s.part k).faultedInRun b cause) (q := s.port k) hothers
    have ht : t = _ := boardFault_run howner hrun
    rw [ht, hsticky]
    exact ⟨hport, hpart⟩
  · obtain ⟨hpart, hport⟩ := faultMuted_quiet (cause := cause) (p := (s.part k).faultedInStopped b cause)
      (q := (s.port k).faultNoted b) hothers
    have ht : t = muteOnFault k (faultedStopped k b cause s) := boardFault_stopped howner hidle.1 hidle.2
    rw [ht, hsticky]
    exact ⟨hpart, hport.trans (congrArg (fun work => { s.port k with work := work }) (noteResetFailed_map _))⟩
  · intro fresh already failed hidle hwork ends dropped left weff heff own
    obtain ⟨hboards, hlinks⟩ := boardFault_claim_boards (cause := cause) howner hidle.1 hidle.2 hwork
    have ht : t = muteOnFault k (faultedStopped k b cause s) := boardFault_stopped howner hidle.1 hidle.2
    have hmem (c : Board) : c ∈ dropped ↔ (syncEnds k b s c && maskHas fresh c) = true :=
      List.mem_filter.trans (and_iff_right (List.mem_finRange c))
    refine ⟨hboards, fun c hc => ?_, ?_, ?_⟩
    · obtain ⟨hends, hfresh⟩ := Bool.and_eq_true_iff.1 ((hmem c).1 hc)
      exact hlinks c hends hfresh
    · obtain ⟨listed, hport, hmask⟩ := faultedStopped_claim_port (b := b) (cause := cause) hwork
      exact ⟨listed, (congrArg (State.port · k) ht).trans hport, fun c => (hmask c).trans (or_congr_right (hmem c).symm)⟩
    · have hown : own = (s.part k).sticky.addCause cause := hsticky _
      rw [ht, hown]
      exact faultedStopped_claim_part hwork
  · refine ⟨fun c hc hown => boardFault_reset_board howner hidle.1 hidle.2 hwork hc hown, ?_,
      boardFault_reset_port howner hidle.1 hidle.2 hwork⟩
    have ht : t = muteOnFault k (faultedStopped k b cause s) := boardFault_stopped howner hidle.1 hidle.2
    have hends : (∃ c, c ≠ b ∧ (s.board c).owner = some k ∧ (s.board c).link = .syncing) ↔ ∃ c, syncEnds k b s c = true :=
      exists_congr fun c => decide_eq_true_iff.symm
    intro own
    have hown : own = (s.part k).sticky.addCause cause := hsticky _
    rw [ht, faultedStopped_reset_part hwork, hown]
    simp only [hends]

end Sys2Proof.Machine
end
